-- ==== Sys2Proof/Word.lean ====
section
/-! DEFINITION. The word types of the machine and their plainest arithmetic (R1, R3: bit 0 is the least
significant bit; multi-byte values lie little-endian in memory). -/

namespace Sys2Proof

/-- One byte. -/
abbrev Byte := BitVec 8

/-- One lane of a vector register, an instruction word, a predicate (one bit per lane). -/
abbrev Word := BitVec 32

/-- A scalar register, an effective address, a program counter. -/
abbrev Dword := BitVec 64

/-- The 32 lanes of a vector register (R14, R36). -/
abbrev Lanes := Vector Word 32

/-- One kibibyte in bytes (R3). -/
def kib : Nat := 1024

end Sys2Proof
end

