-- ==== Sys2Proof/Config.lean ====
section
/-! DEFINITION. What is fixed for one machine, and the free values: constants with no body, so that no proof can lean on what they
are (DESIGN CHOICE, log 5, 14, 15). A free value is drawn at a site with the draw counter of the state. -/

namespace Sys2Proof.Config

/-- An undefined 32-bit value (R7): the draw number, the site, an index within the site. -/
opaque freeWord : Nat → Nat → Nat → BitVec 32

/-- An undefined 64-bit value (R7): the draw number and the site. -/
opaque freeDword : Nat → Nat → BitVec 64

/-- An undefined byte (R7): the draw number, the site, an index within the site. -/
opaque freeByte : Nat → Nat → Nat → BitVec 8

/-- A choice the spec leaves open between two outcomes: the draw number and the site. -/
opaque freeBool : Nat → Nat → Bool

/-- Which of the values that R470 permits a transcendental returns: operation, input bits, the MOD bits it honours. -/
opaque transPick : Nat → BitVec 32 → Nat → Nat

/-- Whether a signature over an image verifies against a key (R384, R385): the image's bytes and the key's slot. -/
opaque signatureOk : List (BitVec 8) → Nat → Bool

/-- SHA-384 of a byte string (R384, R386), 48 bytes as a number. -/
opaque sha384 : List (BitVec 8) → Nat

/-- The device key's ECDSA P-384 signature over a report (R386), 96 bytes as a number. -/
opaque deviceSign : List (BitVec 8) → Nat

/-- Bytes of a wayside image that FWLOAD reads (R378, R385) (DESIGN CHOICE, log 72). -/
opaque imageBytes : Nat

/-- Cycles of the 1.6 GHz reference in one microsecond (R387). -/
def cyclesPerUs : Nat := 1600

/-- Lines of a stack's L2, 96 MiB (R15, R35). -/
def l2Lines : Nat := 786432

/-- Lines of a stack's remote-data cache, 32 MiB (R15, R35). -/
def rdcLines : Nat := 262144

/-- Entries of a wake table (R207). -/
def wakeEntries : Nat := 4096

/-- Entries of a stack's fault buffer (R128). -/
def faultEntries : Nat := 64

/-- Packets a package's reorder buffer holds (R256). -/
def reorderEntries : Nat := 16384

/-- Slot headers and hold-pool pages of the Vat (R285). -/
def vatSlots : Nat := 4096

/-- Pages of the Vat's hold pool (R285). -/
def vatPages : Nat := 40960

/-- Cards the card store holds (R309). -/
def cardEntries : Nat := 4096

/-- Records of the fault log and of the error log (R334, R342). -/
def faultLogEntries : Nat := 8192

/-- Records of the error log (R342). -/
def errorLogEntries : Nat := 4096

end Sys2Proof.Config
end

