-- ==== Sys2Proof/Machine/Table.lean ====
section
/-! DEFINITION. Sparse tables: lists of key and value pairs in one canonical form, keys strictly rising and no entry equal to
the default that an unlisted key reads as, so that equal contents are equal lists. -/

namespace Sys2Proof.Machine

/-- A sparse table: key and value pairs. -/
abbrev Table (α : Type) := List (Nat × α)

/-- The entry of a key, if listed. -/
def tget {α : Type} : Table α → Nat → Option α
  | [], _ => none
  | (k, v) :: t, n => if n = k then some v else if n < k then none else tget t n

/-- The entry of a key, or the default. -/
def tgetD {α : Type} (t : Table α) (n : Nat) (d : α) : α := (tget t n).getD d

/-- Sets the entry of a key, keeping the keys rising. -/
def tput {α : Type} : Table α → Nat → α → Table α
  | [], n, x => [(n, x)]
  | (k, v) :: t, n, x =>
    if n = k then (n, x) :: t else if n < k then (n, x) :: (k, v) :: t else (k, v) :: tput t n x

/-- Removes the entry of a key. -/
def tdel {α : Type} : Table α → Nat → Table α
  | [], _ => []
  | (k, v) :: t, n => if n = k then t else if n < k then (k, v) :: t else (k, v) :: tdel t n

/-- Sets the entry of a key, or removes it where the value is the default that unlisted keys read as. -/
def tset {α : Type} [DecidableEq α] (d : α) (t : Table α) (n : Nat) (x : α) : Table α :=
  if x = d then tdel t n else tput t n x

/-- Changes the entry of a key that is listed. -/
def tmod {α : Type} (t : Table α) (n : Nat) (f : α → α) : Table α :=
  match tget t n with
  | none => t
  | some x => tput t n (f x)

/-- The keys rise strictly, all above `lo` (or at it, with `lo` counted as a bound below the first key). -/
def keysFrom {α : Type} : Nat → Table α → Bool
  | _, [] => true
  | lo, (k, _) :: t => decide (lo ≤ k) && keysFrom (k + 1) t

/-- The canonical form of a table whose unlisted keys read as `d`. -/
def canonical {α : Type} [DecidableEq α] (d : α) (t : Table α) : Bool :=
  keysFrom 0 t && t.all fun e => decide (e.2 ≠ d)

end Sys2Proof.Machine
end

