-- ==== Sys2Proof/Syntax.lean ====
section
/-! DEFINITION. The instructions and events of the GS-UV4, one constructor for each row of the opcode table
(spec/opcode_table.json). An encoded instruction carries its raw fields at the table's widths, in the table's order; an event
carries what the outside of the machine supplies (a row with no encoding, spec/95_what_each_step_holds.md). -/

namespace Sys2Proof

/-- A Ringway record (R261): its header fields, the reserved bit and the CRC-32C among them, and its 48 payload bytes. -/
structure Record where
  milestone : Dword
  context : Nat
  origin : Nat
  cls : Nat
  length : Nat
  kind : Nat
  payload : List Byte
  crc : Word := 0
  reserved : Bool := false
  deriving DecidableEq, Repr

/-- A message of the recovery of missing records (R265): what an upstream tap has answered, a record of its replay window or none, or the request of another
tap for a record of this one's. -/
inductive GapFetch where
  | answer (record : Option Record)
  | request (tap : Nat) (milestone : Dword)
  deriving DecidableEq, Repr

/-- What a fabric packet asks of its destination (R181, R252): bytes to store, the atomics of one
instruction on one line in lane order (address, data, comparand), the part of a number of a chunk of a combining session (R275),
of a chunk that goes to a member (R281) or of a Vat row (R290), or a request to read bytes (R245). -/
inductive Payload where
  | store (cells : List (Nat × Byte))
  | atomic (op width : Nat) (float : Bool) (items : List (Nat × Dword × Dword))
  | chunk (session index part : Nat) (elems : List Word) (round : Nat)
  | member (context collid round index part : Nat) (bytes : List Byte)
  | row (handle : Nat) (expert len : Nat) (infmt : Bool) (part : Nat) (elems : List Word)
  | read (addr bytes : Nat)
  deriving DecidableEq, Repr

/-- A fabric packet: its flow (source, stream, context), its sequence number in the flow, its class, the horizon that it
carries (R185), whether its CRC holds (R255), and whether its bytes are poisoned
(R339). `tag` names the packet at its source. -/
structure Packet where
  tag : Nat
  src : Nat
  dst : Nat
  context : Nat
  stream : Nat
  cls : Nat
  seq : Nat
  ordered : Bool
  horizon : Dword
  payload : Payload
  crcOk : Bool
  poison : Bool := false
  deriving DecidableEq, Repr

/-- A flit (R252): the destination package, class, hop count and packet tag of its route word, and which body of its packet it carries: the header, 0, or
64 bytes of payload. -/
structure Flit where
  dst : Nat
  cls : Nat
  hops : Nat
  tag : Nat
  index : Nat := 0
  deriving DecidableEq, Repr

/-- A row that reaches this package's Vat (R290): its sender's context and package, the slot handle, the expert, the declared
length and format, its elements as words, and whether a poisoned line was among them (R339). `id` names the row at its sender. -/
structure VatRow where
  id : Nat
  src : Nat
  context : Nat
  handle : Word
  expert : Nat
  len : Nat
  infmt : Bool
  elems : List Word
  poison : Bool
  deriving DecidableEq, Repr

/-- The requester of a line at its home: a stack of this package, or another package, which asks for a lease (R143, R147). -/
inductive Requester where
  | stack (n : Nat)
  | package (p : Nat) (horizon : Nat := 0)
  deriving DecidableEq, Repr

/-- What boot finds (R18, R384, R385): whether the base-die firmware verifies, whether training and binding succeed, the
package id, the good parts of each stack by site number, and which wayside images verify. -/
structure BootReport where
  firmwareOk : Bool
  imageVersion : Nat
  memoryOk : Bool
  package : Nat
  deriving DecidableEq, Repr

/-- A debugger's edit of a halted wave (R356): a shadow field by SEL and index (R336), a vector lane, a vector tag, a scalar
register or a predicate. -/
inductive DebugChange where
  | field (sel index : Nat) (value : Dword)
  | vlane (reg lane : Nat) (value : Word)
  | vtag (reg : Nat) (tag : BitVec 4)
  | scalar (reg : Nat) (value : Dword)
  | pred (reg : Nat) (value : Word)
  deriving DecidableEq, Repr

/-- A field of a context's ring block whose write resets pointers or moves them (R373). -/
inductive RingField where
  | sampBase | sampLog | sampRd | sampDrop | evBase | evLog | evRd | evDrop
  deriving DecidableEq, Repr

/-- Every instruction and event of the opcode table. -/
inductive Instr where
  -- Control (R41 to R46, R431 to R437, R454, R506, R523, R524, R552, R560, R344, R346)
  | br (o : BitVec 18)
  | brc (p : BitVec 3) (m : BitVec 3) (o : BitVec 18)
  | brd (p : BitVec 3) (o : BitVec 18)
  | brdNot (p : BitVec 3) (o : BitVec 18)
  | brx (a : BitVec 6)
  | call (o : BitVec 18)
  | callIndirect (a : BitVec 6)
  | rejoin (o : BitVec 18)
  | trap (n : BitVec 24)
  | tramp (n : BitVec 20)
  | tool0 (n : BitVec 24)
  | tool1 (n : BitVec 24)
  | tool2 (n : BitVec 24)
  -- Scalar ALU (R530 to R532)
  | sadd (d : BitVec 6) (a : BitVec 8) (b : BitVec 8)
  | ssub (d : BitVec 6) (a : BitVec 8) (b : BitVec 8)
  | smul (d : BitVec 6) (a : BitVec 8) (b : BitVec 8)
  | sand (d : BitVec 6) (a : BitVec 8) (b : BitVec 8)
  | sor (d : BitVec 6) (a : BitVec 8) (b : BitVec 8)
  | sxor (d : BitVec 6) (a : BitVec 8) (b : BitVec 8)
  | sshl (d : BitVec 6) (a : BitVec 8) (b : BitVec 8)
  | sshr (d : BitVec 6) (a : BitVec 8) (b : BitVec 8)
  | ssar (d : BitVec 6) (a : BitVec 8) (b : BitVec 8)
  | smov (d : BitVec 6) (a : BitVec 8)
  | smovi (d : BitVec 6) (i : BitVec 16)
  | scmp (c : BitVec 4) (p : BitVec 3) (m : BitVec 1) (a : BitVec 8) (b : BitVec 8)
  -- Scalar memory (R536, R537)
  | sldN8 (d : BitVec 6) (a : BitVec 6) (s : BitVec 4) (c : BitVec 3) (o : BitVec 2)
  | sldI8 (d : BitVec 6) (a : BitVec 6) (s : BitVec 4) (c : BitVec 3) (o : BitVec 2)
  | sldN16 (d : BitVec 6) (a : BitVec 6) (s : BitVec 4) (c : BitVec 3) (o : BitVec 2)
  | sldI16 (d : BitVec 6) (a : BitVec 6) (s : BitVec 4) (c : BitVec 3) (o : BitVec 2)
  | sldN32 (d : BitVec 6) (a : BitVec 6) (s : BitVec 4) (c : BitVec 3) (o : BitVec 2)
  | sldI32 (d : BitVec 6) (a : BitVec 6) (s : BitVec 4) (c : BitVec 3) (o : BitVec 2)
  | sldN64 (d : BitVec 6) (a : BitVec 6) (s : BitVec 4) (c : BitVec 3) (o : BitVec 2)
  | sstN8 (d : BitVec 6) (a : BitVec 6) (s : BitVec 4) (c : BitVec 3) (o : BitVec 2)
  | sstN16 (d : BitVec 6) (a : BitVec 6) (s : BitVec 4) (c : BitVec 3) (o : BitVec 2)
  | sstN32 (d : BitVec 6) (a : BitVec 6) (s : BitVec 4) (c : BitVec 3) (o : BitVec 2)
  | sstN64 (d : BitVec 6) (a : BitVec 6) (s : BitVec 4) (c : BitVec 3) (o : BitVec 2)
  -- Vector integer and logic (R422 to R430, R441, R483 to R490, R495, R535)
  | and (w : BitVec 1) (d : BitVec 7) (a : BitVec 8) (b : BitVec 8)
  | or (w : BitVec 1) (d : BitVec 7) (a : BitVec 8) (b : BitVec 8)
  | xor (w : BitVec 1) (d : BitVec 7) (a : BitVec 8) (b : BitVec 8)
  | not (w : BitVec 1) (d : BitVec 7) (a : BitVec 8)
  | shl (w : BitVec 1) (d : BitVec 7) (a : BitVec 8) (b : BitVec 8)
  | shr (w : BitVec 1) (d : BitVec 7) (a : BitVec 8) (b : BitVec 8)
  | sar (w : BitVec 1) (d : BitVec 7) (a : BitVec 8) (b : BitVec 8)
  | bfeN32 (w : BitVec 1) (d : BitVec 7) (a : BitVec 8) (b : BitVec 8)
  | bfeI32 (w : BitVec 1) (d : BitVec 7) (a : BitVec 8) (b : BitVec 8)
  | bfi (w : BitVec 1) (d : BitVec 7) (a : BitVec 8) (b : BitVec 8)
  | clz (w : BitVec 1) (d : BitVec 7) (a : BitVec 8)
  | popc (w : BitVec 1) (d : BitVec 7) (a : BitVec 8)
  | iadd (w : BitVec 1) (d : BitVec 7) (a : BitVec 8) (b : BitVec 8)
  | isub (w : BitVec 1) (d : BitVec 7) (a : BitVec 8) (b : BitVec 8)
  | iaddsI32 (w : BitVec 1) (d : BitVec 7) (a : BitVec 8) (b : BitVec 8)
  | iaddsN32 (w : BitVec 1) (d : BitVec 7) (a : BitVec 8) (b : BitVec 8)
  | isubsI32 (w : BitVec 1) (d : BitVec 7) (a : BitVec 8) (b : BitVec 8)
  | isubsN32 (w : BitVec 1) (d : BitVec 7) (a : BitVec 8) (b : BitVec 8)
  | imul (w : BitVec 1) (d : BitVec 7) (a : BitVec 8) (b : BitVec 8)
  | imulhI32 (w : BitVec 1) (d : BitVec 7) (a : BitVec 8) (b : BitVec 8)
  | imulhN32 (w : BitVec 1) (d : BitVec 7) (a : BitVec 8) (b : BitVec 8)
  | imad (w : BitVec 1) (d : BitVec 7) (a : BitVec 8) (b : BitVec 8)
  | iminI32 (w : BitVec 1) (d : BitVec 7) (a : BitVec 8) (b : BitVec 8)
  | iminN32 (w : BitVec 1) (d : BitVec 7) (a : BitVec 8) (b : BitVec 8)
  | imaxI32 (w : BitVec 1) (d : BitVec 7) (a : BitVec 8) (b : BitVec 8)
  | imaxN32 (w : BitVec 1) (d : BitVec 7) (a : BitVec 8) (b : BitVec 8)
  | iabs (w : BitVec 1) (d : BitVec 7) (a : BitVec 8)
  | icmpI32 (c : BitVec 4) (p : BitVec 3) (m : BitVec 1) (a : BitVec 8) (b : BitVec 8)
  | icmpN32 (c : BitVec 4) (p : BitVec 3) (m : BitVec 1) (a : BitVec 8) (b : BitVec 8)
  | lea (w : BitVec 1) (d : BitVec 7) (a : BitVec 8) (b : BitVec 8)
  -- Moves and lane operations (R499 to R501, R533, R534, R521, R522, R538, R557)
  | mov (w : BitVec 1) (d : BitVec 7) (a : BitVec 8) (r : BitVec 1) (t : BitVec 4)
  | movi (w : BitVec 1) (d : BitVec 7) (i : BitVec 16)
  | sel (w : BitVec 1) (d : BitVec 7) (a : BitVec 8) (b : BitVec 8)
  | shfl (w : BitVec 1) (d : BitVec 7) (a : BitVec 8) (b : BitVec 8)
  | vote (d : BitVec 6) (p : BitVec 3) (b : BitVec 8)
  | redl (w : BitVec 1) (d : BitVec 6) (a : BitVec 8) (b : BitVec 8)
  | srdl (d : BitVec 6) (a : BitVec 8) (b : BitVec 8)
  -- Float (R457 to R475) and packed 16-bit (R482)
  | fadd (w : BitVec 1) (d : BitVec 7) (a : BitVec 8) (b : BitVec 8)
  | fsub (w : BitVec 1) (d : BitVec 7) (a : BitVec 8) (b : BitVec 8)
  | fmul (w : BitVec 1) (d : BitVec 7) (a : BitVec 8) (b : BitVec 8)
  | ffma (w : BitVec 1) (d : BitVec 7) (a : BitVec 8) (b : BitVec 8)
  | fmin (w : BitVec 1) (d : BitVec 7) (a : BitVec 8) (b : BitVec 8)
  | fmax (w : BitVec 1) (d : BitVec 7) (a : BitVec 8) (b : BitVec 8)
  | fabs (w : BitVec 1) (d : BitVec 7) (a : BitVec 8)
  | fneg (w : BitVec 1) (d : BitVec 7) (a : BitVec 8)
  | fclamp (w : BitVec 1) (d : BitVec 7) (a : BitVec 8) (b : BitVec 8)
  | fcmp (c : BitVec 4) (p : BitVec 3) (m : BitVec 1) (a : BitVec 8) (b : BitVec 8)
  | fexp2 (w : BitVec 1) (d : BitVec 7) (a : BitVec 8)
  | flog2 (w : BitVec 1) (d : BitVec 7) (a : BitVec 8)
  | frcp (w : BitVec 1) (d : BitVec 7) (a : BitVec 8)
  | frsq (w : BitVec 1) (d : BitVec 7) (a : BitVec 8)
  | fsqrt (w : BitVec 1) (d : BitVec 7) (a : BitVec 8)
  | ftanh (w : BitVec 1) (d : BitVec 7) (a : BitVec 8)
  | hadd2F16 (w : BitVec 1) (d : BitVec 7) (a : BitVec 8) (b : BitVec 8)
  | hadd2Bf16 (w : BitVec 1) (d : BitVec 7) (a : BitVec 8) (b : BitVec 8)
  | hmul2F16 (w : BitVec 1) (d : BitVec 7) (a : BitVec 8) (b : BitVec 8)
  | hmul2Bf16 (w : BitVec 1) (d : BitVec 7) (a : BitVec 8) (b : BitVec 8)
  | hfma2F16 (w : BitVec 1) (d : BitVec 7) (a : BitVec 8) (b : BitVec 8)
  | hfma2Bf16 (w : BitVec 1) (d : BitVec 7) (a : BitVec 8) (b : BitVec 8)
  -- Conversion (R450 to R452, R512 to R515)
  | cvt (w : BitVec 1) (d : BitVec 7) (a : BitVec 8) (r : BitVec 4) (s : BitVec 4)
  | qcvt (w : BitVec 1) (d : BitVec 7) (a : BitVec 8) (r : BitVec 4) (s : BitVec 4)
  | qunp (w : BitVec 1) (d : BitVec 7) (a : BitVec 8) (r : BitVec 4) (s : BitVec 4)
  -- Vector memory (R492 to R494, R540, R541, R558, R559, R509 to R511)
  | ldB32 (d : BitVec 7) (a : BitVec 7) (m : BitVec 1) (s : BitVec 4) (c : BitVec 3) (o : BitVec 2)
  | ldF32 (d : BitVec 7) (a : BitVec 7) (m : BitVec 1) (s : BitVec 4) (c : BitVec 3) (o : BitVec 2)
  | ldI32 (d : BitVec 7) (a : BitVec 7) (m : BitVec 1) (s : BitVec 4) (c : BitVec 3) (o : BitVec 2)
  | ldN32 (d : BitVec 7) (a : BitVec 7) (m : BitVec 1) (s : BitVec 4) (c : BitVec 3) (o : BitVec 2)
  | ldF16 (d : BitVec 7) (a : BitVec 7) (m : BitVec 1) (s : BitVec 4) (c : BitVec 3) (o : BitVec 2)
  | ldBf16 (d : BitVec 7) (a : BitVec 7) (m : BitVec 1) (s : BitVec 4) (c : BitVec 3) (o : BitVec 2)
  | ldE4m3 (d : BitVec 7) (a : BitVec 7) (m : BitVec 1) (s : BitVec 4) (c : BitVec 3) (o : BitVec 2)
  | ldI64 (d : BitVec 7) (a : BitVec 7) (m : BitVec 1) (s : BitVec 4) (c : BitVec 3) (o : BitVec 2)
  /-- Data of an outstanding load returns and is written to the destination lanes (R493). -/
  | loadReturn (load : Nat) (lanes : Vector Dword 32) (poison : Bool)
  | stB32 (d : BitVec 7) (a : BitVec 7) (m : BitVec 1) (s : BitVec 4) (c : BitVec 3) (o : BitVec 2)
  | stI64 (d : BitVec 7) (a : BitVec 7) (m : BitVec 1) (s : BitVec 4) (c : BitVec 3) (o : BitVec 2)
  -- Fence (R465 to R468)
  | fence (u : BitVec 1) (c : BitVec 3) (k : BitVec 16)
  | wldN32 (d : BitVec 7) (a : BitVec 7) (m : BitVec 1) (s : BitVec 4) (o : BitVec 2)
  | wldN64 (d : BitVec 7) (a : BitVec 7) (m : BitVec 1) (s : BitVec 4) (o : BitVec 2)
  | pref (a : BitVec 7) (m : BitVec 1) (s : BitVec 4) (c : BitVec 3)
  -- Atomics (R425 to R428, R518, R519)
  | atomAdd (d : BitVec 7) (a : BitVec 7) (m : BitVec 1) (s : BitVec 4) (c : BitVec 3) (o : BitVec 2)
  | atomSmin (d : BitVec 7) (a : BitVec 7) (m : BitVec 1) (s : BitVec 4) (c : BitVec 3) (o : BitVec 2)
  | atomSmax (d : BitVec 7) (a : BitVec 7) (m : BitVec 1) (s : BitVec 4) (c : BitVec 3) (o : BitVec 2)
  | atomUmin (d : BitVec 7) (a : BitVec 7) (m : BitVec 1) (s : BitVec 4) (c : BitVec 3) (o : BitVec 2)
  | atomUmax (d : BitVec 7) (a : BitVec 7) (m : BitVec 1) (s : BitVec 4) (c : BitVec 3) (o : BitVec 2)
  | atomAnd (d : BitVec 7) (a : BitVec 7) (m : BitVec 1) (s : BitVec 4) (c : BitVec 3) (o : BitVec 2)
  | atomOr (d : BitVec 7) (a : BitVec 7) (m : BitVec 1) (s : BitVec 4) (c : BitVec 3) (o : BitVec 2)
  | atomXor (d : BitVec 7) (a : BitVec 7) (m : BitVec 1) (s : BitVec 4) (c : BitVec 3) (o : BitVec 2)
  | atomExch (d : BitVec 7) (a : BitVec 7) (m : BitVec 1) (s : BitVec 4) (c : BitVec 3) (o : BitVec 2)
  | atomCas (d : BitVec 7) (a : BitVec 7) (m : BitVec 1) (s : BitVec 4) (c : BitVec 3) (o : BitVec 2)
  | redAdd (d : BitVec 7) (a : BitVec 7) (m : BitVec 1) (s : BitVec 4) (c : BitVec 3) (o : BitVec 2)
  | redSmin (d : BitVec 7) (a : BitVec 7) (m : BitVec 1) (s : BitVec 4) (c : BitVec 3) (o : BitVec 2)
  | redSmax (d : BitVec 7) (a : BitVec 7) (m : BitVec 1) (s : BitVec 4) (c : BitVec 3) (o : BitVec 2)
  | redUmin (d : BitVec 7) (a : BitVec 7) (m : BitVec 1) (s : BitVec 4) (c : BitVec 3) (o : BitVec 2)
  | redUmax (d : BitVec 7) (a : BitVec 7) (m : BitVec 1) (s : BitVec 4) (c : BitVec 3) (o : BitVec 2)
  | redAnd (d : BitVec 7) (a : BitVec 7) (m : BitVec 1) (s : BitVec 4) (c : BitVec 3) (o : BitVec 2)
  | redOr (d : BitVec 7) (a : BitVec 7) (m : BitVec 1) (s : BitVec 4) (c : BitVec 3) (o : BitVec 2)
  | redXor (d : BitVec 7) (a : BitVec 7) (m : BitVec 1) (s : BitVec 4) (c : BitVec 3) (o : BitVec 2)
  -- Matrix and tiles (R220 to R237, R496 to R498, R549)
  | mma (t : BitVec 4) (f : BitVec 4) (g : BitVec 4) (a : BitVec 6) (b : BitVec 6)
  | mmas (t : BitVec 4) (f : BitVec 4) (g : BitVec 4) (a : BitVec 6) (b : BitVec 6)
  | mmag (t : BitVec 4) (g : BitVec 4) (a : BitVec 6) (b : BitVec 6)
  | mmaG (t : BitVec 4) (f : BitVec 4) (g : BitVec 4) (a : BitVec 6) (b : BitVec 6)
  | mmasG (t : BitVec 4) (f : BitVec 4) (g : BitVec 4) (a : BitVec 6) (b : BitVec 6)
  | mmagG (t : BitVec 4) (g : BitVec 4) (a : BitVec 6) (b : BitVec 6)
  | tld (t : BitVec 4) (f : BitVec 4) (s : BitVec 4) (a : BitVec 6) (b : BitVec 6)
  | tst (t : BitVec 4) (f : BitVec 4) (s : BitVec 4) (a : BitVec 6) (b : BitVec 6)
  | tzero (t : BitVec 4) (f : BitVec 4)
  | mwait (n : BitVec 4)
  -- Engines, pod and Vat (R241 to R245, R442 to R448, R502 to R504, R525 to R528, R553 to R556, R306)
  | cpy (a : BitVec 6) (c : BitVec 3) (s : BitVec 4) (d : BitVec 6)
  | cpym (a : BitVec 6) (c : BitVec 3) (s : BitVec 4) (d : BitVec 6)
  | coll (a : BitVec 6) (s : BitVec 4) (g : BitVec 4)
  | msfence (k : BitVec 16)
  | mswait (m : BitVec 6) (k : BitVec 16)
  | rway (a : BitVec 6) (c : BitVec 2) (k : BitVec 4)
  | vopen (a : BitVec 6) (d : BitVec 6)
  | vsend (a : BitVec 6) (h : BitVec 6) (s : BitVec 6)
  | jpost (a : BitVec 6) (p : BitVec 3) (d : BitVec 6)
  | vdrop (h : BitVec 6) (d : BitVec 6)
  -- Groups, barriers, pool and queues (R51, R59, R476 to R478, R312, R516)
  | gjoin (g : BitVec 4)
  | gleave (g : BitVec 4)
  | garrive (g : BitVec 1) (v : BitVec 1) (b : BitVec 6) (n : BitVec 4) (s : BitVec 4) (d : BitVec 6)
  | gridarr (n : BitVec 5) (e : BitVec 6) (d : BitVec 6)
  | racq (d : BitVec 3)
  | qpush (d : BitVec 3) (q : BitVec 6) (v : BitVec 6)
  | qpop (d : BitVec 3) (q : BitVec 6) (v : BitVec 6)
  -- Transactions (R195 to R211, R543 to R548)
  | tbegin (o : BitVec 16)
  | tabort (c : BitVec 8)
  | telse (o : BitVec 16)
  | tstat (d : BitVec 6)
  -- System, shadow and prefix words (R539, R438 to R440, R335 to R338, R397)
  | sread (r : BitVec 8) (d : BitVec 6)
  | swrite (r : BitVec 8) (a : BitVec 6)
  | cflush (a : BitVec 7) (m : BitVec 1) (s : BitVec 4) (c : BitVec 3)
  | pathrd (s : BitVec 8) (i : BitVec 8) (d : BitVec 6)
  | pathwr (s : BitVec 8) (i : BitVec 8) (a : BitVec 6)
  | ext (k : BitVec 4) (p : BitVec 20)
  -- Events (their operands are what the outside of the machine supplies)
  /-- A held asynchronous trap is taken at the wave's next instruction boundary (R331). -/
  | asyncTrapEntry (wave : Nat)
  /-- A halt broadcast reaches a wave, which takes SIBLING_HALT after its skid (R327). -/
  | siblingHalt (wave skid : Nat)
  /-- The sequencer starts the next queued matrix instruction (R231). -/
  | matrixStart (core : Nat)
  /-- A matrix instruction completes into its tile and the wave's outstanding count falls (R231). -/
  | matrixComplete (core : Nat)
  /-- A tile load completes and releases instructions that name the tile (R236). -/
  | tldComplete (wave tile : Nat) (data : List Word)
  /-- The copy engine starts a command once earlier stores of its stream are performed (R176). -/
  | copyCommandStart (core : Nat) (data : List Byte)
  /-- A copy command completes in chain order, writing its stamp and subtracting from PENDING (R243). -/
  | copyCompletion (core code : Nat)
  /-- A change to a watched line reaches the wave's stack and wakes or aborts it (R207). -/
  | wake (wave : Nat)
  /-- A scratch access arrives at the owning core and is checked against the window control byte (R112). -/
  | scratchAccessArrival (access : Nat)
  /-- A miss coalesces into or creates a fault-buffer entry, or sets the dropped-entry flag (R127). -/
  | secondLevelTlbMiss (stack context : Nat) (va : Dword) (kind : Nat) (waiter : Option Nat)
  /-- Home receives a shared read request for a line (R144). -/
  | rds (line : Nat) (req : Requester)
  /-- Home receives a read with ownership (R144). -/
  | rdx (line : Nat) (req : Requester)
  /-- Home receives an ownership upgrade request (R145). -/
  | upg (line : Nat) (req : Requester)
  /-- Owner forwards data to a requester and keeps the line as O (R144). -/
  | fwds (line stack : Nat)
  /-- Owner forwards data to a requester and invalidates its copy (R144). -/
  | fwdx (line stack : Nat)
  /-- Holder invalidates its copy and answers ACK (R143). -/
  | inv (line stack : Nat)
  /-- Holder writes back if dirty, invalidates, and answers ACK (R142). -/
  | binv (line stack : Nat)
  /-- Requester receives the line with its granted state (R144). -/
  | data (line : Nat) (req : Requester) (lease : Option (Bool × Nat × List Byte))
  /-- Home receives a dirty line returned (R145). -/
  | wb (line stack : Nat)
  /-- Home receives a holder's acknowledgement (R143). -/
  | ack (line stack : Nat)
  /-- Requester learns that every ACK for its request was collected (R144). -/
  | cmp (line : Nat) (req : Requester)
  /-- Holder of a write lease returns the line and ends its lease (R150). -/
  | leaseRecall (stack line : Nat)
  /-- Home receives a lease given up by eviction (R149). -/
  | leaseRelease (line package : Nat) (dirty : List (Nat × Byte)) (poison : Bool := false)
  /-- Home collects a region switch write-back for the record's milestone (R153). -/
  | regionWriteback (region source : Nat) (milestone : Dword) (dirty : List (Nat × Byte)) (last : Bool)
  /-- A switch routes a flit, and the others that arrive in its cycle, each from its input port, on minimal or deflecting outputs (R253). -/
  | flitRoute (flit : Flit) (inPort : Nat) (free : BitVec 24) (others : List (Flit × Nat) := [])
  /-- Destination checks a reassembled packet and accepts it with ACK or refuses it with NACK (R255). -/
  | packetArrival (packet : Packet)
  /-- Source receives ACK and drops its kept copy (R255). -/
  | packetAck (tag : Nat)
  /-- Source receives NACK and schedules a resend (R255). -/
  | packetNack (tag : Nat) (bufferFull : Bool)
  /-- No answer within the resend time, or the NACK back-off ends, and the packet is resent (R255). -/
  | resendTimeout (tag : Nat)
  /-- An arrived packet commits at its home in flow order or on arrival (R181). -/
  | packetCommit (src tag : Nat)
  /-- A tap holding the token emits up to four queued records and passes the token on (R260). -/
  | tokenArrival (last : Dword) (epoch : BitVec 16)
  /-- A tap receives a record, forwards it the first time, and applies records in milestone order (R263). -/
  | recordReceive (record : Record)
  /-- A fetched missing record arrives from an upstream replay window and is applied with held ones (R265). -/
  | recordGapFetch (fetch : GapFetch)
  /-- The master, once all taps have applied through L, emits a new token with EPOCH + 1 (R268). -/
  | tokenRecovery (seen applied : List (Nat × Dword))
  /-- A package silent or in pass-through for the limit is declared lost by a RING LOST record (R269). -/
  | lostLimitExpiry (package : Nat) (passing : Option Nat := none)
  /-- A named package enqueues the launch's card when it applies the record (R315). -/
  | recordLaunch (descriptor : List Byte)
  /-- A class-0 chunk reaches a combining session and is folded once all inputs have delivered (R275). -/
  | combineChunk (session index port : Nat) (elems : List Word)
  /-- A session input silent for 20 µs is reported to its wayside processor (R278). -/
  | sessionInputTimeout (session port index : Nat)
  /-- An overdue or unreachable member is dropped and a RING DONE record posted (R282). -/
  | memberOverdue (collective package index : Nat)
  /-- A collective completes, subtracting its bytes from PENDING as a release (R447). -/
  | collectiveCompletion (collective : Nat) (result : List Byte)
  /-- The Vat decides on a row at its first packet and writes the sender's status word (R290). -/
  | vatArrival (row : VatRow)
  /-- An accepted row's packets are all present and it is folded or held, unblocking higher positions (R292). -/
  | vatRowComplete (src row : Nat)
  /-- Holder's RDC renews held leases once time P has passed (R149). -/
  | leaseRenewal (incoming : Option (Nat × List Nat) := none)
  /-- A slot's deadline fires: missing positions are substituted and the slot goes to release (R293). -/
  | vatDeadline (slot : Nat)
  /-- The dispatcher re-reads an untracked word condition every 5 µs (R305). -/
  | cardConditionPoll (words : List (Nat × Nat × Word))
  /-- The sequencer injects a self-test product into each slab at the set interval (R238). -/
  | selfTestInjection (core : Nat) (mismatch : Option (Nat × Bool))
  /-- A matrix instruction running past the hang limit starts a slab reset (R246). -/
  | matrixHang (core : Nat)
  /-- At reset step 5, lost instructions and tiles are cleared and MATRIX_RESET raised (R248). -/
  | slabResetDone (core : Nat) (found : List (Nat × Nat × Bool))
  /-- SECDED detects an error: corrected errors are logged, uncorrectable lines poisoned (R339). -/
  | eccError (unit stack inst : Nat) (loc : Dword) (uncorrectable : Bool)
  /-- Every N cycles a scheduler samples a wave's lowest valid path (R360). -/
  | pcSample (core sched : Nat)
  /-- A fabric link fails and traffic routes around it (R282). -/
  | linkLoss (port : Nat)
  /-- Reset starts boot: firmware verify, memory training, binding and wayside verification (R384). -/
  | packageReset (boot : BootReport)
  /-- A junction at 100 °C forces point 0; at 110 °C the package stops (R389). -/
  | junctionTemperature (celsius : Nat)
  /-- Every 10 µs the base die compares power with PCAP and steps the DVFS point (R388). -/
  | powerMeasurement (watts : Nat)
  /-- The driver selects a DVFS point and issue pauses 30 µs (R387). -/
  | dvfsPointSelect (point : Nat)
  /-- The debugger lets a halted path run (R354). -/
  | debugResume (wave path : Nat)
  /-- The debugger lets a halted path issue one instruction and halts it again (R354). -/
  | debugStep (wave path : Nat)
  /-- The debugger edits a fully halted wave, checked as ERET checks, setting MODIFIED (R356). -/
  | debugEdit (wave : Nat) (change : DebugChange)
  /-- Revoking debug rights disables breakpoints and releases halted paths (R350). -/
  | rightsRevoke (context : Nat)
  /-- A write of a TAG to TRIGGER latches the package's snapshot registers at once (R363). -/
  | triggerWrite (tag : Dword)
  /-- Arms a corrected-error report at the unit's next check (R343). -/
  | injectCorrected (unit stack inst : Nat)
  /-- Arms an uncorrectable report with its containment consequences (R343). -/
  | injectUncorrectable (unit stack inst : Nat)
  /-- Arms a transient self-test mismatch report (R343). -/
  | injectSelfTest (stack inst : Nat)
  /-- The host announces the newest command SEQ (R380). -/
  | doorbellWrite (value : Dword)
  /-- The host frees completion-ring room; held completions are written and CPLFULL may clear (R381). -/
  | dqheadWrite (value : Dword)
  /-- Rewrites completions from a CSEQ into the ring or sets GAP (R383). -/
  | dqreplayWrite (value : Dword)
  /-- The driver advances the fault queue read pointer and held records are written (R130). -/
  | fqrdWrite (context : Nat) (value : Dword)
  /-- The driver writes a context descriptor; FAULTQ or FAULTQLOG writes reset the queue pointers (R301). -/
  | contextDescriptorWrite (context : Nat) (bytes : List Byte)
  /-- A write of a sample or event ring BASE or LOG resets its WR and RD (R373). -/
  | ringBlockBaseWrite (context : Nat) (field : RingField) (value : Dword)
  /-- Writing 1 clears sticky bits of a region status word (R156). -/
  | regionStatusClear (region : Nat) (bits : Word)
  /-- Enables or disables the Ringway tap and marks token master (R267). -/
  | ringctlWrite (value : Dword) (package : Option Nat := none)
  /-- A bound table entry written by the driver governs instructions issued after it (R105). -/
  | boundTableWrite (index : Nat) (value : BitVec 128)
  /-- The adapter signals pending events on a vector at most once every 2 µs (R382). -/
  | msiXMessage (vector : Nat)
  /-- A host write to a configuration register without behaviour of its own stores the value if in range (R374). -/
  | registerWrite (offset size : Nat) (value : Dword)
  /-- A word whose opcode the map marks ILLEGAL_OP, or 0xFFFF_FFFF, raises ILLEGAL_OP precisely (R402). -/
  | illegalOp (w : Word)
  /-- A word with a legal opcode but a field value that its format, the map or its entry forbids raises ILLEGAL_FIELD precisely (R402). -/
  | illegalField (w : Word)
  /-- The driver loads a waymark image with milestone X into an out-of-step package and resumes it at X + 1 (R266). -/
  | outOfStepRecovery (milestone : Dword) (image : List (Nat × Byte))
  /-- Teardown of a context frees its Vat slots and removes its cards from the card store (R285). -/
  | contextTeardown (context : Nat)
  /-- A device write to host memory fails on the Flovor Link and is reported as STORE_IMPRECISE with SUB 1 (R330). -/
  | hostLinkError (wave : Nat) (pc addr : Dword) (lanes : Word)
  -- Instructions and events that carry no operand
  | nop
  | regang
  | ret
  | exit
  | bkpt
  | yield
  | opfence
  | rrel
  | tcommit
  | tretry
  | eret
  /-- A fault detected after issue writes a fault-log record and is delivered to a wave (R330). -/
  | asyncReport
  /-- A convoy whose waves have ended and whose work has completed retires and frees its resources (R49). -/
  | convoyRetire
  /-- A wave with no wake-table entry is woken 4 µs after it sleeps (R208). -/
  | timedWake
  /-- The owning core acknowledges a remote scratch store, lowering the remote-store count (R114). -/
  | remoteStoreAck
  /-- A path waiting 2 µs on a cross-package load reaches a blocking point (R316). -/
  | remoteLoadBlocking
  /-- A lease ends at the holder at T − 2 µs and its copy is dropped (R149). -/
  | leaseHolderExpiry
  /-- A write lease ends unrenewed at the home and the line reverts (R151). -/
  | leaseHomeExpiry
  /-- A tap that has not seen the token for TOKENWAIT tells the master (R268). -/
  | tokenwaitExpiry
  /-- A tap receiving STOP stops emitting and discards any token (R268). -/
  | tokenStop
  /-- A master without a token for 2 × TOKENWAIT is replaced (R268). -/
  | masterTimeout
  /-- Applies a waymark WRITE record at the replica (R271). -/
  | recordWrite
  /-- Applies a waymark ADD, optionally bounded, and returns old and fail to the originator (R272). -/
  | recordAdd
  /-- Applies a waymark compare-and-swap (R272). -/
  | recordCas
  /-- Applies a waymark maximum (R272). -/
  | recordMax
  /-- Applies a waymark OR (R272). -/
  | recordBitset
  /-- Invalidates named translations and waits for accesses using them before the next record (R124). -/
  | recordPte
  /-- Starts a region mode switch: stacks clean their copies and the home holds accesses (R153). -/
  | recordRegion
  /-- Latches every snapshot register of the package at that milestone (R363). -/
  | recordTrigger
  /-- Marks the context's writable granules copy-on-write for a checkpoint (R365). -/
  | recordSnap
  /-- Every package treats the named package as lost from this milestone (R269). -/
  | ringLost
  /-- A reset package rejoins the pod (R269). -/
  | ringJoin
  /-- A survivor's report of a collective's completed chunks; agreement when all have reported (R282). -/
  | ringDone
  /-- The released row and stamp are written and the slot is freed (R296). -/
  | vatReleaseDone
  /-- The dispatcher places the next convoy of the highest-priority eligible card (R310). -/
  | convoyPlacement
  /-- A quad mode change completes after 1,600 cycles (R26). -/
  | quadModeChangeDone
  /-- A chosen card unplaced for 50 µs reserves the cluster nearest to fitting (R311). -/
  | placementReservation
  /-- A higher-priority card unplaced for PREEMPTWAIT selects victims to evict (R317). -/
  | preemptwaitExpiry
  /-- After the drain, the convoy's state is written to a save slot and its cores are freed (R318). -/
  | evictionSave
  /-- A saved convoy is restored on free cores and its waves resumed (R320). -/
  | convoyRestore
  /-- A launch without progress for WATCHDOG ms has its part at the package ended (R314). -/
  | watchdogExpiry
  /-- The dispatcher writes a card's completion stamp once its convoys retired and accesses performed (R313). -/
  | cardCompletion
  /-- The checkpoint engine writes a marked granule to the own and buddy areas and unmarks it (R365). -/
  | checkpointGranuleWrite
  /-- A wayside processor that has finished its sessions loads the new image and resumes (R385). -/
  | waysideImageLoad
  /-- A package losing power passes Ringway light straight through (R267). -/
  | packagePowerLoss
  /-- The package reads the entry at EXPECT and accepts it or sets GAP (R380). -/
  | commandAccept
  /-- Host command that starts a launch at one or several packages (R315). -/
  | launch
  /-- Host command performing a package-local translation invalidation (R124). -/
  | inval
  /-- Host command for replay-all: frees entries, clears dropped flags, retries parked waves (R131). -/
  | replay
  /-- Host command ordering eviction of a context (R317). -/
  | evict
  /-- Host command posting a Ringway record of kind 5–10 (R378). -/
  | ringpost
  /-- Host command verifying and loading a wayside firmware image (R385). -/
  | fwload
  /-- Host command writing a signed attestation report (R386). -/
  | attest
  /-- Host command restoring a checkpointed step onto a matching shape (R368). -/
  | restore
  /-- Host command ordering a slab reset of one core (R246). -/
  | resetcore
  /-- Writing 1 to GAP resumes command reading (R380). -/
  | gapClear
  /-- The 30 µs pause of issue that a DVFS change causes ends and issue resumes (R387). -/
  | dvfsPauseEnd
  deriving DecidableEq, Repr

end Sys2Proof
end

