-- ==== Sys2Proof/Machine/State.lean ====
section
/-! DEFINITION. The state of one package (R15) as plain data, and its value after reset. A value for which the spec gives no reset
value is named in log 1 (DESIGN CHOICE). -/

namespace Sys2Proof.Machine

/-- Why a step stops. -/
inductive Fault where
  /-- Raised by every meaning of an encoded instruction when the issue cursor names no live path of a placed wave: an instruction
  is always issued by a path (R36, R40), so the meaning is not defined there. No step of the machine reaches it. Safe. -/
  | noIssuingPath
  deriving DecidableEq, Repr

/-- Why an instruction has no meaning here. -/
inductive Refusal where
  /-- Raised by an arm of the dispatch whose instruction has no meaning yet. Safe. -/
  | notModelled (mnemonic : String)
  deriving DecidableEq, Repr

/-! ### Waves -/

/-- One bypass latch (R38, R66), with the lanes in which it holds undefined values (R7, R66). -/
structure Latch where
  valid : Bool
  tag : BitVec 4
  lanes : Lanes
  undef : Word := 0
  deriving DecidableEq, Repr

/-- Why a path is not ready (R73, R361): nothing, parked at REGANG, halted by debug, stalled at a joint instruction of a group,
or waiting with a stall reason. A wait names the epoch at which it last failed, so that it is tried again once
something has changed, and the streams it holds back in the wave's other paths (R467). The path notes since when it has waited. -/
inductive Hold where
  | none
  | regang
  | debug
  | joint (group : Nat) (i : Instr)
  | wait (reason epoch : Nat) (streams : BitVec 16)
  deriving DecidableEq, Repr

/-- One path-table entry with its latches (R38): an entry with mask zero is free. `readyAt` is the epoch since which it has been ready
(R73); `kept`: its next selection continues the chain in which an event has interrupted it (R68, R354); `entry`: the trampoline entry that the TRAMP at a
PC has got from another package (R344). -/
structure Path where
  mask : BitVec 8
  pc : Dword
  latches : Vector Latch 3
  hold : Hold
  readyAt : Nat
  kept : Bool
  skipBreak : Bool
  stepping : Bool
  waitSince : Nat
  waitedLong : Bool
  entry : Option (Dword × Dword) := none
  deriving DecidableEq, Repr

/-- One deferral entry (R38): bit 0 of the resume PC marks a merge entry (R39). -/
structure Deferred where
  mask : BitVec 4
  pc : Dword
  deriving DecidableEq, Repr

/-- Pending EXT state of a strand (R38, R70): bit k of `kinds` is KIND k pending, with its payload. -/
structure ExtState where
  kinds : BitVec 16
  payloads : Vector (BitVec 20) 16
  deriving DecidableEq, Repr

/-- A strand (R38). -/
structure Strand where
  live : BitVec 4
  active : BitVec 4
  depth : BitVec 3
  stack : Vector Deferred 4
  ext : ExtState
  deriving DecidableEq, Repr

/-- The divergence state of a wave (R38). -/
structure Div where
  paths : Vector Path 8
  strands : Vector Strand 8
  deriving DecidableEq, Repr

/-- A vector register: its tag and its lanes (R63), and which of its 128 bytes hold undefined values (R7, R59). -/
structure VReg where
  tag : BitVec 4
  lanes : Lanes
  undef : BitVec 128 := 0
  deriving DecidableEq, Repr

/-- The trap registers (R325). -/
structure TrapRegs where
  cause : Dword
  pc : Dword
  mask : Dword
  lanes : Dword
  addr : Dword
  skid : Dword
  deriving DecidableEq, Repr

/-- The kinds of place a transaction can watch (R197, R207). -/
inductive Space where
  | mem | scratch | waymark | vat | pool
  deriving DecidableEq, Repr

/-- A watched line, or a 64 KiB page in page mode: `owner` is the crew of a scratch or pool line, else 0. -/
structure Place where
  space : Space
  owner : Nat
  unit : Nat
  deriving DecidableEq, Repr

/-- A read-set entry (R199): whether another agent has written it since it was read (R201), and whether a wake-table entry watches
it (R208). -/
structure ReadEntry where
  place : Place
  changed : Bool
  tabled : Bool
  deriving DecidableEq, Repr

/-- A line of the write buffer (R196): where it lies, the level that wrote it, its effective address, the bytes written by
offset, and the CACHE attribute of its page (R121). -/
structure BufLine where
  place : Place
  level : Nat
  ea : Dword
  bytes : Table Byte
  cache : Nat := 0
  deriving DecidableEq, Repr

/-- A registered alternative (R205). -/
structure Alt where
  label : Dword
  taken : Bool
  deriving DecidableEq, Repr

/-- The transaction state of a wave (R196). -/
structure Txn where
  depth : BitVec 3
  start : Dword
  fails : Vector Dword 4
  alts : Vector (Option Alt) 4
  reads : List ReadEntry
  pageMode : Bool
  retained : Bool
  buffer : List BufLine
  cause : BitVec 4
  code : BitVec 8
  deriving DecidableEq, Repr

/-- A page a parked wave waits for: the 64 KiB page, its stack, and its fault-buffer entry, or none where it was dropped (R127,
R128). -/
structure PageWait where
  vpage : Nat
  stack : Nat
  entry : Option Nat
  deriving DecidableEq, Repr

/-- A wave parked on a translation fault (R126, R132, R134): the faulting path and instruction, the faulted lanes, the pages, and whether a replay has
come while its convoy drains for an eviction, which records it (R318). -/
structure Park where
  path : Nat
  pc : Dword
  lanes : Word
  pages : List PageWait
  replayed : Bool := false
  deriving DecidableEq, Repr

/-- A SIBLING_HALT that has reached a wave (R327): how many more instructions it may issue, how many it has, and what faulted. -/
structure Sibling where
  left : Nat
  used : Nat
  cause : BitVec 8
  pc : Dword
  crew : Nat
  slot : Nat
  arrived : Bool
  deriving DecidableEq, Repr

/-- A report on its way to a wave, or held by it (R330, R332): cause, SUB, address, issuing instruction, lanes, the issuing convoy, crew, slot
and wave (none: an access without an issuing wave), and what its record says of them (R334). -/
structure Report where
  cause : BitVec 8
  sub : BitVec 8
  addr : Dword
  pc : Dword
  lanes : Word
  convoy : Nat
  crew : Nat
  wave : Option Nat
  slot : Nat
  launch : Word
  index : Dword
  context : Nat
  cluster : Nat
  deriving DecidableEq, Repr

/-- What orders a wave's matrix operands after stores to scratch (R179), as epochs: its own stores before the last OPFENCE (`own`); those of agents of its
crew (`crew`) and of others (`wide`) before the last acquire that includes them, and before the last one that an OPFENCE has followed
(`crewDone`, `wideDone`). -/
structure Fences where
  own : Nat := 0
  crew : Nat := 0
  wide : Nat := 0
  crewDone : Nat := 0
  wideDone : Nat := 0
  deriving DecidableEq, Repr

/-- A resident or saved wave. Its key is 256 x convoy + 32 x crew + index. `named` lists the streams in which its accesses carry the horizon
(R185). `unwaited` lists the accumulator tiles of the matrix
instructions that no MWAIT of the wave has yet passed, oldest first (R180); `adding` is the packet of an addition to PENDING that must be performed
before the wave goes on (R214); `matSeq` counts its matrix instructions (R180); `joined`: the joint matrix instruction at which it is stalled has started and
waits for its queue, and whether its result is undefined (R229, R231); `tldData` holds what its tile loads have read, by tile, with the format (R236). -/
structure Wave where
  core : Nat
  slot : Nat
  div : Div
  inHandler : Bool
  shadow : Div
  vregs : Vector VReg 256
  sregs : Vector Dword 64
  pregs : Vector Word 8
  trap : TrapRegs
  faultstat : Dword
  groups : BitVec 16
  grant : Bool
  horizon : Dword
  named : BitVec 16
  remoteStores : BitVec 16
  outstanding : Nat
  unwaited : List Nat
  adding : Option Nat := none
  txn : Txn
  asleep : Bool
  sleptAt : Nat
  park : Option Park
  retry : Option Park
  heldReset : Option Dword
  heldSibling : Option Sibling
  heldReport : Option Report
  apertureDirty : BitVec 256
  registerDirty : BitVec 256
  fences : Fences := {}
  matSeq : Nat := 0
  joined : Option Bool := none
  tldData : Table (Nat × Table Word) := []
  tldTiles : BitVec 16
  ended : Bool
  deriving DecidableEq, Repr

/-! ### Convoys, crews and cores -/

/-- The fields of a context descriptor (R301). -/
structure Descriptor where
  root : Dword
  saveBase : Dword
  saveSlots : Nat
  slotSize : Nat
  bndBase : Nat
  bndCount : Nat
  faultqLog : Nat
  faultQuota : Nat
  cardQuota : Nat
  watchdog : Nat
  unordered : BitVec 16
  classmap : BitVec 32
  wmSize : Nat
  wmBase : Nat
  faultq : Dword
  handler : Dword
  trampBase : Dword
  spillBase : Dword
  gridPa : Dword
  gridVa : Dword
  deriving DecidableEq, Repr

/-- A job card (R303, R304). -/
structure Card where
  entry : Dword
  param : Dword
  stampAddr : Dword
  count : Nat
  stampVal : Word
  w0 : Dword
  w1 : Dword
  v0 : Word
  v1 : Word
  w0kind : Nat
  w1kind : Nat
  target : Nat
  prio : Nat
  bind : Nat
  gang : Bool
  scratch : Nat
  tiles : Nat
  ext : Nat
  regs : Nat
  waves : Nat
  crews : Nat
  deriving DecidableEq, Repr

/-- Where a convoy stands: on its cores, being evicted, or saved in a slot (R318 to R320). -/
inductive Residence where
  | placed
  | evicting
  | saved (slot : Nat)
  deriving DecidableEq, Repr

/-- A halt broadcast in progress in a convoy (R328): the waves it has not yet reached or that have not yet entered. -/
structure Halt where
  cause : BitVec 8
  pc : Dword
  crew : Nat
  slot : Nat
  waiting : List Nat
  deriving DecidableEq, Repr

/-- A convoy (R48 to R50, R302): its launch, card and index, the descriptor values it was placed with, its cores, and what the
dispatcher keeps of it. -/
structure Convoy where
  context : Nat
  launch : Word
  part : Nat
  card : Card
  index : Dword
  desc : Descriptor
  cluster : Nat
  position : Nat
  cores : List Nat
  prio : Nat
  age : Nat
  placedAt : Nat
  residence : Residence
  noEvictUntil : Nat
  chosenAt : Option Nat
  abandon : Bool
  edited : Bool
  saveWait : Bool
  halt : Option Halt
  deriving DecidableEq, Repr

/-- A tile register (R27, R62): its tag and its elements by row x 64 + column; an unlisted element is zero. -/
structure Tile where
  tag : BitVec 4
  elems : Table Word
  deriving DecidableEq, Repr

/-- A crew's share of its core (R55, R59, R110): scratch, window-control bytes, tiles and free extended blocks; the last store to each line of the
scratch by each agent: line, wave (none: another agent) and epoch (R179). Its key is 8 x convoy + crew. -/
structure Crew where
  scratchSize : Nat
  scratch : Table Byte
  windows : Table Byte
  tiles : Table Tile
  poolFree : Nat
  stores : List (Nat × Option Nat × Nat) := []
  deriving DecidableEq, Repr

/-- A matrix instruction in the sequencer (R231): what it was issued with, its operand bytes once it has started, its number among its wave's (R180), and
the rows and columns of its result that are undefined (R179). -/
structure MatrixOp where
  wave : Nat
  pc : Dword
  kind : Nat
  tile : Nat
  fa : Nat
  fb : Nat
  rows : Nat
  cols : Nat
  crewA : Nat
  crewB : Nat
  addrA : Nat
  addrB : Nat
  planeA : Nat
  planeB : Nat
  ta : Bool
  tb : Bool
  rnd : Nat
  ftz : Bool
  sat : Bool
  undefined : Bool
  started : Option (List Byte × List Byte × List Byte × List Byte)
  seq : Nat := 0
  freeRows : List Nat := []
  freeCols : List Nat := []
  deriving DecidableEq, Repr

/-- A command of a core's copy chain (R242, R243, R555). `kind` is 0 CPY, 1 CPYM, 2 VSEND. `done` counts the bytes that have been moved,
`moved` is set once all have, or once the Vat has decided on the row; `waiting` while it stands at a translation fault (R133);
`conflict` lists the destination bytes that are undefined, by offset and length (R177); `asked`: other packages have been asked for source bytes
(R245). -/
structure CopyCmd where
  kind : Nat
  wave : Nat
  convoy : Nat
  crew : Nat
  context : Nat
  pc : Dword
  scope : Nat
  stream : Nat
  src : Dword
  dst : Dword
  len : Nat
  stampAddr : Dword
  stampVal : Word
  barrier : Dword
  cls : Nat
  mask : BitVec 8
  row : Option VatRow
  peer : Nat
  done : Nat
  moved : Bool
  waiting : Bool
  conflict : List (Nat × Nat)
  asked : Bool := false
  deriving DecidableEq, Repr

/-- A code breakpoint (R351). -/
structure Breakpoint where
  addr : Dword
  cond : Dword
  deriving DecidableEq, Repr

/-- The latch chain an issue scheduler is in and when it last issued, its sample rotation and when it last sampled (R72, R74, R360). -/
structure Sched where
  last : Option (Nat × Nat)
  chain : Nat
  issuedAt : Nat
  rotation : Nat
  sampledAt : Nat
  deriving DecidableEq, Repr

/-- One core: its schedulers, its matrix sequencer, with the instructions that have completed and that no MWAIT has passed (R180), its copy chain, its slab's fenced sub-arrays, self-test pattern and reset (R238, R247), its
breakpoints, its TLB, its REGGATE counter and when that was last brought up to date (R34). -/
structure Core where
  scheds : Vector Sched 2
  queue : List MatrixOp
  running : Option MatrixOp
  finished : List MatrixOp := []
  runningSince : Nat
  chain : List CopyCmd
  accepted : Dword
  completed : Dword
  fenced : BitVec 4
  pattern : BitVec 4
  resetting : Bool
  breakpoints : Table Breakpoint
  tlb : List (Nat × Nat × Nat)
  gatedAt : Nat
  reggate : Dword
  deriving DecidableEq, Repr

/-- A quad's binding mode, 1 G1, 2 G2, 3 G4, and a change in progress with its end (R25, R26). -/
structure Quad where
  mode : Nat
  change : Option (Nat × Nat)
  deriving DecidableEq, Repr

/-! ### Memory, caches and translation -/

/-- A stack's copy of a line (R140, R152): its state (M, O, E, S as 3, 2, 1, 0), its bytes by offset, which of them are dirty, and,
for a line of another package, when its lease was asked for and the lease's term (R147, R149). -/
structure Copy where
  state : Nat
  bytes : Table Byte
  dirty : BitVec 128
  lease : Option (Nat × Nat)
  deriving DecidableEq, Repr

/-- A snoop-filter entry (R141): the stacks that may hold the line, its owner, and the order of its allocation. -/
structure Filter where
  holders : BitVec 4
  owner : Option Nat
  order : Nat
  deriving DecidableEq, Repr

/-- The request a home is serving for a line (R144): its kind (0 RDS, 1 RDX, 2 UPG, 3 the eviction of its filter entry), who
asked, the holders that have not yet acted on its message, those whose ACK the home has not received, the holder that forwards
the data, the state granted, the data on its way, whether DATA and CMP have reached the requester, when the request reached the home
(R149). -/
structure OpenReq where
  kind : Nat
  req : Requester
  orders : BitVec 4
  acks : BitVec 4
  forward : Option Nat
  granted : Nat
  data : Option (Table Byte)
  delivered : Bool
  complete : Bool
  since : Nat := 0
  deriving DecidableEq, Repr

/-- What the home does for a line: the request it serves, those that wait, each with when it came (R144, R149), and the write-backs in flight
by stack, with their dirty bytes and whether they still carry current data (R145). -/
structure HomeLine where
  openReq : Option OpenReq
  waiting : List (Nat × Requester × Nat)
  writeback : List (Nat × Table Byte × Bool)
  deriving DecidableEq, Repr

/-- A lease-table entry of a home stack (R148): its holders with the end of their leases, whether it is a write lease, and which holders the home
has asked to give it up (R150). -/
structure Lease where
  write : Bool
  holders : List (Nat × Nat)
  asked : List Nat := []
  deriving DecidableEq, Repr

/-- A fault-buffer entry (R127, R129): its context, page, first kind, number of waiters, and whether its record is still held. -/
structure FaultEntry where
  context : Nat
  vpage : Nat
  kind : Nat
  waiters : Nat
  deriving DecidableEq, Repr

/-- A fault record held in its stack for want of room (R130): its bytes as a number, its context, and its entry (none: DROPPED). -/
structure HeldRecord where
  context : Nat
  entry : Option Nat
  bits : BitVec 256
  deriving DecidableEq, Repr

/-- What each stack holds beside its caches: fault buffer, dropped flags, record sequence, held records, its second-level TLB
as context, page base, page bits, and entry, and its wake-overflow counter (R123, R128 to R130, R208). -/
structure Stack where
  faults : Table FaultEntry
  dropped : List Nat
  seq : Dword
  held : List HeldRecord
  tlb : List (Nat × Nat × Nat)
  wakeovf : Dword
  deriving DecidableEq, Repr

/-- A region switch in progress at its home (R153): the record's milestone, the new mode, the write-backs collected by global
stack index, as physical addresses and bytes, and the packages that have sent all of theirs. -/
structure Switch where
  milestone : Dword
  mode : Bool
  collected : List (Nat × List (Nat × Byte))
  ended : List Nat
  deriving DecidableEq, Repr

/-- A granule marked by a SNAP and not yet written (R365): its virtual page, where it lies, and its bytes as they stood when the SNAP was applied,
which is what is written for it (R366). -/
structure Granule where
  vpage : Nat
  base : Nat
  bytes : Table Byte
  deriving DecidableEq, Repr

/-! ### Outstanding accesses -/

/-- What an outstanding load writes when it returns (R493, R537, R236, R344): vector registers, a scalar register, an atomic's data, elements
of a tile, or the trampoline entry that the TRAMP of a path at a PC has asked for. -/
inductive LoadDest where
  | vector (reg : Nat) (pair : Bool) (tag : BitVec 4)
  | scalar (reg bytes : Nat) (signed : Bool)
  | atomic (reg : Nat) (pair : Bool)
  | tile (tile format : Nat)
  | entry (path : Nat) (pc : Dword)
  deriving DecidableEq, Repr

/-- A load or atomic of a wave that waits for another package (R494); `acquire` is the scope at which its return acquires, `spans` the bytes it
reads, by physical address and length (R165), `horizon` what its request carries (R185). -/
structure PendingLoad where
  wave : Nat
  path : Nat
  pc : Dword
  stream : Nat
  package : Nat
  lanes : Word
  addrs : List (Nat × Dword)
  dest : LoadDest
  since : Nat
  acquire : Option Nat
  spans : List (Nat × Nat) := []
  horizon : Dword := 0
  deriving DecidableEq, Repr

/-- A store or RED on its way to a peer crew's scratch (R112, R114): the line's writes by lane, the operation (0 store, else the
atomic's code plus 1), and whether it has arrived. -/
structure ScratchAccess where
  wave : Nat
  slot : Nat
  pc : Dword
  crew : Nat
  target : Nat
  stream : Nat
  op : Nat
  width : Nat
  float : Bool
  writes : List (Nat × Nat × Dword)
  arrived : Bool
  deriving DecidableEq, Repr

/-- A packet this package has sent: its state (0 sent, 1 arrived, 2 committed), when it was last sent, its NACK back-off in microseconds and
whether it waits for that, its wave
and instruction (R255, R181), the report that the loss of its destination raises (R269), the stack whose copy it writes back (R152), and
the convoy for which an engine has sent it (R313). -/
structure SentPacket where
  packet : Packet
  stage : Nat
  sentAt : Nat
  backoff : Nat
  backing : Bool
  wave : Option Nat
  pc : Dword
  loss : Option Report
  back : Option Nat := none
  convoy : Option Nat := none
  first : Nat := 0
  deriving DecidableEq, Repr

/-- A packet in this package's reorder buffer, with its stamp (R183, R256). -/
structure Arrival where
  packet : Packet
  stamp : Dword
  deriving DecidableEq, Repr

/-! ### Pod units -/

/-- A fabric port (R250, R251, R376); `share` counts the flits of class 1 that have left by it since the last one of class 2 (R257). -/
structure Port where
  enabled : Bool
  peer : Nat
  down : Bool
  flitsOut : Nat
  flitsIn : Nat
  nacks : Nat
  resends : Nat
  share : Nat := 0
  deriving DecidableEq, Repr

/-- A lease message that this package has sent, in class 0 (R149, R150, R151): to which package, of which line, its kind (0 renewal, 1 release,
2 reply to a recall or invalidation, 3 recall, 4 invalidation, 5 a write-back of a region switch and 6 the end of a stack's
write-backs, R153; 7 the grant of a read lease, 8 of a write lease, 9 data without a lease, R147), the bytes that it carries by
offset, the lines that it renews, the term that it grants in microseconds, the milestone of the record it answers. -/
structure LeaseMsg where
  package : Nat
  line : Nat
  kind : Nat
  dirty : List (Nat × Byte)
  lines : List Nat := []
  term : Nat := 0
  milestone : Dword := 0
  poison : Bool := false
  deriving DecidableEq, Repr

/-- The fabric switch and buffers of the package (R252 to R256): what it has sent, its reorder buffer, the packets that have arrived, the next
and the next expected sequence numbers of its flows, its ports, the flits it has routed with their outputs (24: its own
ingress), its answers to packets (source, tag, and 0 ACK, 1 NACK, 2 NACK for a full buffer), its lease messages, the packages
declared lost, the flits at its ingress whose packets are not complete, and when each package was last heard (R269). -/
structure Fabric where
  sent : List SentPacket
  arrivals : List Arrival
  arrived : List (Nat × Nat)
  nextSeq : Table Nat
  expected : Table Nat
  nextTag : Nat
  ports : Table Port
  routed : List (Flit × Nat)
  replies : List (Nat × Nat × Nat)
  leaseMail : List LeaseMsg
  lost : List Nat
  ingress : List Flit := []
  heard : Table Nat := []
  deriving DecidableEq, Repr

/-- A message a tap sends over the fabric or the ring (R265, R268): to the master that the token is missing, STOP to the taps, the answer to STOP with the
count of records seen and that of those applied, a token, a request to a tap for a missing record, and the answer to one. -/
inductive RingMsg where
  | missing
  | stop
  | count (seen applied : Dword)
  | token (last : Dword) (epoch : BitVec 16)
  | fetch (tap milestone : Nat)
  | answer (tap : Nat) (record : Option Record)
  deriving DecidableEq, Repr

/-- The package's Ringway tap (R259 to R269): the records queued by class, each with the convoy, crew and scratch offset of its RESULT if it
has one (R527); the results due, by milestone (R528); the milestones seen and applied; the token's epoch and when it was last
seen; the records that wait for lower ones, and the replay window (R265); a PTE record that waits for accesses (R124); what the
tap has sent; the tap that has taken the master's part (R268), and the other taps that the driver has marked master (R259); whether a token has gone
round, and whether this tap has sent STOP; when it has last told that the token is missing, and since when the master is the master; the
missing record that it fetches, with the taps it has tried (R265); its counters (R376). -/
structure Ring where
  queues : Vector (List (Record × Option (Nat × Nat × Nat))) 3
  results : List (Nat × Nat × Nat × Nat)
  stopped : Bool
  seen : Dword
  applied : Dword
  epoch : BitVec 16
  lastToken : Nat
  held : Table Record
  window : List Record
  waitingPte : Option (List (Nat × Nat))
  outOfStep : Bool
  emitted : List Record
  messages : List RingMsg
  master : Option Nat := none
  marked : List Nat := []
  begun : Bool := false
  stopSent : Bool := false
  toldAt : Nat := 0
  masterSince : Nat := 0
  fetching : Option (Nat × Nat) := none
  errors : Dword
  appliedCount : Dword
  gapFetches : Dword
  recoveries : Dword
  deriving DecidableEq, Repr

/-- A combining session of the switch table (R275): operator, format, inputs, output (25: local delivery), elements per chunk, the chunks in
flight by index and input, each with when its first contribution came (R278), the collective it serves, and the parts of contributions that are
not complete: index, input, number, elements. -/
structure Session where
  op : Nat
  fmt : Nat
  rsxn : Nat
  inputs : BitVec 25
  output : Nat
  perChunk : Nat
  chunks : Table (Table (List Word))
  began : Table Nat
  collective : Nat
  parts : List (Nat × Nat × Nat × List Word) := []
  deriving DecidableEq, Repr

/-- A member's DONE report (R282). -/
structure DoneReport where
  package : Nat
  count : Nat
  members : BitVec 128
  deriving DecidableEq, Repr

/-- A collective in flight at this package (R281, R446): the leader and its convoy, its descriptor's fields, whether it uses a session of this
package's switch and the chunks combined there, whether its bytes have been written; the schedule, the chunks that other members have delivered, the
destination bytes that are poisoned, how many chunks this package has sent, those that it has written, and how far it has come in the next one
(R133); since when it waits for a chunk (R282); what it has yet to tell of losses, 2 its status word and 1 the LOST bit (R284); whether its COLLID
has been used twice (R448); the parts of delivered chunks that are not complete, by index and number; the destination bytes that are undefined (R177), the losses it has survived with their AGREED (R283), the members that
this package has dropped, the DONE reports applied since (R282). -/
structure Collective where
  wave : Nat
  context : Nat
  convoy : Nat
  crew : Nat
  core : Nat
  pc : Dword
  collid : Nat
  kind : Nat
  op : Nat
  fmt : Nat
  rsxn : Nat
  members : BitVec 128
  len : Nat
  chunk : Nat
  src : Dword
  dst : Dword
  barrier : Dword
  status : Dword
  tile : Option Nat
  root : Nat
  stream : Nat
  cls : Nat
  session : Option Nat
  combined : Table (List Word)
  moved : Bool
  sched : Nat := 0
  got : Table (List Byte) := []
  bad : List Nat := []
  sent : Nat := 0
  done : List Nat := []
  part : Nat := 0
  since : Nat := 0
  owed : Nat := 0
  reused : Bool := false
  pieces : List (Nat × Nat × List Byte) := []
  conflict : List (Nat × Nat)
  undefined : Bool
  stopped : Bool
  waiting : Bool
  lost : List (Nat × Nat)
  dropped : List Nat
  reports : List DoneReport
  deriving DecidableEq, Repr

/-- A row held or incomplete at a Vat slot (R290, R292). -/
structure HeldRow where
  row : Nat
  position : Nat
  src : Nat
  complete : Bool
  pages : Nat
  elems : List Word
  poison : Bool
  deriving DecidableEq, Repr

/-- A Vat slot (R285 to R298): state 0 FREE, 1 OPEN, 2 READY, 3 RELEASING, 4 DROPPING. `forced`: its deadline has fired in an order queue
(R295). `written` counts the bytes of its row that have been released; `waiting` while its release stands at a translation fault
(R296). -/
structure VatSlot where
  generation : BitVec 20
  state : Nat
  context : Nat
  desc : Descriptor
  experts : List Nat
  weights : List Word
  len : Nat
  outfmt : Bool
  infmt : Bool
  renorm : Bool
  inOrder : Bool
  ordq : Nat
  seq : Word
  dst : Dword
  stampAddr : Dword
  deadline : Nat
  arrivedMask : BitVec 8
  foldedMask : BitVec 8
  subMask : BitVec 8
  byDeadline : Bool
  dropped : Bool
  acc : List Word
  held : List HeldRow
  forced : Bool
  written : Nat
  waiting : Bool
  poison : Bool
  stamped : Bool := false
  deriving DecidableEq, Repr

/-- The Vat (R285, R299): the slots in use or once used, free pages, the arrival counters, NEXT of the order queues, and the decisions told to
senders on other packages, by package and row. -/
structure Vat where
  slots : Table VatSlot
  freePages : Nat
  late : Word
  rejected : Word
  duplicate : Word
  refused : Word
  queueNext : Table Word
  answers : List (Nat × Nat × Nat)
  deriving DecidableEq, Repr

/-! ### Dispatcher -/

/-- A card in the card store (R305 to R309): its launch, queue (none: the package queue), age, conditions that have held or whose
word's read stands at a translation fault (R305), and the next convoy of its range to place. `gate` lists the earlier stores and atomics of the posting wave that are not yet performed (R307): packets
by tag (kind 0), accesses to peer scratch by id (kind 1). -/
structure StoredCard where
  launch : Word
  context : Nat
  card : Card
  part : Nat
  queue : Option Nat
  age : Nat
  held0 : Bool
  held1 : Bool
  failed0 : Bool
  failed1 : Bool
  next : Nat
  last : Nat
  ready : List (Nat × Nat)
  gate : List (Nat × Nat)
  chosenAt : Option Nat
  deriving DecidableEq, Repr

/-- A launch's part at this package (R313 to R315): its card and its convoys by number, what has retired, whom to tell; the
waves of its retired convoys, with their slots, clusters and convoy indices, which a late report names (R330). -/
structure Part where
  launch : Word
  context : Nat
  card : Card
  rank : Nat
  total : Nat
  placed : Nat
  retired : Nat
  hostSeq : Option Dword
  hostLaunch : Bool
  uids : List Nat
  progressAt : Nat
  waiting : Bool
  gone : List (Nat × Nat × Nat × Dword) := []
  deriving DecidableEq, Repr

/-- The dispatcher (R305 to R320): `nextAt` is when it may place again, `reserved` the clusters that it keeps for candidates (R311), `left` the grid
pages of the contexts whose cards have left the store and whose RELEASE word 31 has yet to be advanced for it (R309). -/
structure Dispatcher where
  cards : Table StoredCard
  nextCard : Nat
  posted : Nat
  nextAt : Nat
  reserved : List (Nat × Nat)
  left : List Dword
  parts : Table Part
  nextPart : Nat
  deriving DecidableEq, Repr

/-! ### Contexts, host and observation -/

/-- A context's state at this package (R301, R312, R349, R359, R373). -/
structure Context where
  desc : Descriptor
  grid : Table Nat
  saveUsed : List Nat
  rights : Bool
  modified : Bool
  log2n : Nat
  sampBase : Dword
  sampLog : Nat
  sampWr : Dword
  sampRd : Dword
  sampDrop : Word
  evBase : Dword
  evLog : Nat
  evWr : Dword
  evRd : Dword
  evDrop : Word
  fqWr : Dword
  fqRd : Dword
  ringRecords : Nat
  deriving DecidableEq, Repr

/-- A command the package has accepted and not completed (R378, R380); `gate` lists the accesses that it waits for (R124): packets by tag (kind
0), accesses to peer scratch (kind 1), loads (kind 2), transactions that hold stores (kind 3). -/
structure Command where
  seq : Dword
  op : Nat
  context : Nat
  arg : Dword
  payload : List Byte
  started : Bool
  gate : List (Nat × Nat)
  deriving DecidableEq, Repr

/-- A completion (R381). -/
structure Completion where
  cseq : Dword
  seq : Dword
  launch : Word
  status : Nat
  result : Dword
  deriving DecidableEq, Repr

/-- The host queues of the package (R379 to R383). -/
structure HostQ where
  cqBase : Dword
  cqLog : Nat
  doorbell : Dword
  lastAcc : Dword
  gap : Bool
  cplFull : Bool
  dqBase : Dword
  dqLog : Nat
  dqHead : Dword
  lastCseq : Dword
  commands : List Command
  heldCpl : List Completion
  written : List Completion
  deriving DecidableEq, Repr

/-- An MSI-X vector (R382): an event waits to be told, and when the vector last sent. -/
structure Msi where
  pending : Bool
  sent : Nat
  lastSent : Option Nat
  deriving DecidableEq, Repr

/-- A record of the fault log (R334), its fields packed as the table lays them out. -/
structure FaultRecord where
  bits : BitVec 512
  deriving DecidableEq, Repr

/-- A record of the error log (R342). -/
structure ErrorRecord where
  bits : BitVec 256
  deriving DecidableEq, Repr

/-- The fault and error logs (R334, R342). -/
structure Logs where
  faults : List FaultRecord
  faultSeq : Dword
  faultLost : Dword
  errors : List ErrorRecord
  errorSeq : Dword
  reports : List Report
  deriving DecidableEq, Repr

/-- Snapshot copies (R362, R374, R376). -/
structure Snapshot where
  clock : Dword
  milestone : Dword
  tag : Dword
  count : Dword
  counters : Table Dword
  regions : Table Word
  deriving DecidableEq, Repr

/-- The checkpoint engine (R364 to R367). -/
structure Checkpoint where
  context : Nat
  step : Dword
  milestone : Dword
  granules : List Granule
  written : Nat
  waymark : List (Nat × Byte)
  busy : Bool
  done : Bool
  taken : Dword := 0
  deriving DecidableEq, Repr

/-- Package settings (R377). -/
structure Settings where
  leaseterm : Nat
  selftest : Nat
  hanglimit : Nat
  preemptwait : Nat
  tokenwait : Nat
  lostlimit : Nat
  tapEn : Bool
  master : Bool
  ckptBase : Dword
  buddyBase : Dword
  ringOrder : Vector Byte 128
  deriving DecidableEq, Repr

/-- Power and clocking (R387 to R389): the operating point and the one selected, PCAP, the end of a pause of issue, whether issue cycles are idled, the
measurements below 90% of PCAP in a row, and whether the package has stopped. -/
structure Power where
  point : Nat
  selected : Nat
  pcap : Nat
  paused : Option Nat
  idle : Bool
  below : Nat
  stopped : Bool
  deriving DecidableEq, Repr

/-- What is fused and flashed in a part (R18, R384, R385): bad front ends and halves by 136 x stack + site, the rollback counter,
revoked customer keys, the wayside images in flash, the base-die firmware. -/
structure Fuses where
  badFront : List Nat
  badWest : List Nat
  badEast : List Nat
  rollback : Nat
  enrolled : BitVec 4
  revoked : BitVec 4
  firmware : List Byte
  flash : List (List Byte)
  deriving DecidableEq, Repr

/-- The registers of an RV64GCV core (R279): the program counter, the integer, floating-point and vector registers, and the control and status registers in
use. The spec gives no vector length: a vector register is a number (DESIGN CHOICE, log 98). -/
structure RvCore where
  pc : Dword := 0
  x : Vector Dword 32 := Vector.replicate 32 0
  f : Vector Dword 32 := Vector.replicate 32 0
  v : Vector Nat 32 := Vector.replicate 32 0
  csr : Table Dword := []
  deriving DecidableEq, Repr

/-- A wayside processor (R279, R280, R385): its image (none: stopped), an image waiting to be loaded, its core, and its 512 KiB of local memory. What its
firmware does is what R281 to R284 state, in steps of the collectives (DESIGN CHOICE,
log 98). -/
structure Wayside where
  image : Option (List Byte)
  next : Option (List Byte)
  core : RvCore := {}
  store : Table Byte := []
  deriving DecidableEq, Repr

/-- Which agent moves next, and with what (DESIGN CHOICE, log 4): an issue scheduler of a core, an event of the opcode table, the passing of
time, the eviction of a cached line, or a store of the host to its own memory. -/
inductive Turn where
  | issue (core sched : Nat)
  | event (i : Instr)
  | elapse (cycles : Nat)
  | evictLine (stack line : Nat)
  | hostStore (addr : Nat) (bytes : List Byte)
  deriving DecidableEq, Repr

/-- Which path's instruction is being executed: the wave's key and the path-table index. -/
structure Cursor where
  wave : Nat
  path : Nat
  deriving DecidableEq, Repr

/-- The state of one package; `modes` holds the granules of other packages that REGION records have made hardware-coherent (R139, R153). -/
structure State where
  cur : Cursor
  agenda : List Turn
  draws : Nat
  epoch : Nat
  nextUid : Nat
  nextId : Nat
  clock : Nat
  pkg : Nat
  bootState : Nat
  failStage : Nat
  fuses : Fuses
  binding : Table Word
  waysides : Vector Wayside 6
  settings : Settings
  power : Power
  mem : List Host.Cell
  waymark : List Host.Cell
  poisoned : List Nat
  l1 : Table (Table Byte)
  copies : Table Copy
  filters : Table Filter
  home : Table HomeLine
  leases : Table Lease
  regions : Table Word
  modes : Table Bool
  switches : Table Switch
  perStack : Vector Stack 4
  contexts : Table Context
  convoys : Table Convoy
  crews : Table Crew
  waves : Table Wave
  cores : Table Core
  quads : Table Quad
  loads : Table PendingLoad
  scratchOps : Table ScratchAccess
  bound : Table (BitVec 128)
  inject : Table (BitVec 3)
  fabric : Fabric
  ring : Ring
  sessions : Table Session
  collectives : Table Collective
  vat : Vat
  disp : Dispatcher
  hostq : HostQ
  msi : Vector Msi 6
  logs : Logs
  snapshot : Snapshot
  ckpt : Checkpoint
  deriving DecidableEq, Repr

/-! ### Values after reset -/

/-- A latch that holds nothing. -/
def Latch.empty : Latch := { valid := false, tag := 0, lanes := Vector.replicate 32 0 }

/-- A free path-table entry. -/
def Path.free : Path :=
  { mask := 0, pc := 0, latches := Vector.replicate 3 Latch.empty, hold := .none, readyAt := 0, kept := false, skipBreak := false,
    stepping := false, waitSince := 0, waitedLong := false }

/-- An empty deferral entry. -/
def Deferred.empty : Deferred := { mask := 0, pc := 0 }

/-- No EXT pending. -/
def ExtState.none : ExtState := { kinds := 0, payloads := Vector.replicate 16 0 }

/-- A strand with all four lanes live and active, and an empty stack (R57). -/
def Strand.start : Strand :=
  { live := 15, active := 15, depth := 0, stack := Vector.replicate 4 Deferred.empty, ext := ExtState.none }

/-- One path at `pc` with every strand, all lanes active (R57, R321). -/
def Div.start (pc : Dword) : Div :=
  { paths := (Vector.replicate 8 Path.free).set 0 { Path.free with mask := 0xFF, pc := pc },
    strands := Vector.replicate 8 Strand.start }

/-- A vector register of zeros, tag RAW (R57). -/
def VReg.zero : VReg := { tag := 0, lanes := Vector.replicate 32 0 }

/-- The trap registers before the first entry (R539). -/
def TrapRegs.zero : TrapRegs := { cause := 0, pc := 0, mask := 0, lanes := 0, addr := 0, skid := 0 }

/-- No transaction (R196; DESIGN CHOICE, log 1). -/
def Txn.none : Txn :=
  { depth := 0, start := 0, fails := Vector.replicate 4 0, alts := Vector.replicate 4 Option.none, reads := [],
    pageMode := false, retained := false, buffer := [], cause := 0, code := 0 }

/-- A wave at its start on a core and slot, with no launch values placed (R57). -/
def Wave.start (core slot : Nat) (pc : Dword) : Wave :=
  { core := core, slot := slot, div := Div.start pc, inHandler := false, shadow := Div.start 0,
    vregs := Vector.replicate 256 VReg.zero, sregs := Vector.replicate 64 0, pregs := Vector.replicate 8 0,
    trap := TrapRegs.zero, faultstat := 0, groups := 1, grant := false, horizon := 0, named := 0, remoteStores := 0, outstanding := 0, unwaited := [],
    txn := Txn.none, asleep := false, sleptAt := 0, park := none, retry := none, heldReset := none, heldSibling := none,
    heldReport := none, apertureDirty := 0, registerDirty := 0, tldTiles := 0, ended := false }

/-- A descriptor of zeros, but for the values that R301 and R257 give at creation. -/
def Descriptor.initial : Descriptor :=
  { root := 0, saveBase := 0, saveSlots := 0, slotSize := 0, bndBase := 0, bndCount := 0, faultqLog := 7, faultQuota := 8,
    cardQuota := 1, watchdog := 0, unordered := 0, classmap := 0x55555555, wmSize := 0, wmBase := 0, faultq := 0,
    handler := 0, trampBase := 0, spillBase := 0, gridPa := 0, gridVa := 0 }

/-- A context that the driver has not written (R301, R349, R359, R373; DESIGN CHOICE, log 1). -/
def Context.initial : Context :=
  { desc := Descriptor.initial, grid := [], saveUsed := [], rights := false, modified := false, log2n := 0,
    sampBase := 0, sampLog := 7, sampWr := 0, sampRd := 0, sampDrop := 0, evBase := 0, evLog := 7, evWr := 0, evRd := 0,
    evDrop := 0, fqWr := 0, fqRd := 0, ringRecords := 0 }

/-- A scheduler that has selected nothing. -/
def Sched.initial : Sched := { last := none, chain := 0, issuedAt := 0, rotation := 0, sampledAt := 0 }

/-- A core after reset. -/
def Core.initial : Core :=
  { scheds := Vector.replicate 2 Sched.initial, queue := [], running := none, runningSince := 0, chain := [], accepted := 0,
    completed := 0, fenced := 0, pattern := 0, resetting := false, breakpoints := [], tlb := [], reggate := 0, gatedAt := 0 }

/-- A quad in G1 (DESIGN CHOICE, log 1). -/
def Quad.initial : Quad := { mode := 1, change := none }

/-- A stack after reset: its fault buffer and second-level TLB are empty. -/
def Stack.initial : Stack := { faults := [], dropped := [], seq := 0, held := [], tlb := [], wakeovf := 0 }

/-- A home line that is idle. -/
def HomeLine.idle : HomeLine := { openReq := none, waiting := [], writeback := [] }

/-- A port with nothing counted (DESIGN CHOICE, log 1). -/
def Port.initial : Port :=
  { enabled := false, peer := 0, down := false, flitsOut := 0, flitsIn := 0, nacks := 0, resends := 0 }

/-- The fabric after reset. -/
def Fabric.initial : Fabric :=
  { sent := [], arrivals := [], arrived := [], nextSeq := [], expected := [], nextTag := 0, ports := [], routed := [], replies := [],
    leaseMail := [], lost := [] }

/-- The Ringway tap after reset: the applied milestone is 0 (R260). -/
def Ring.initial : Ring :=
  { queues := Vector.replicate 3 [], results := [], stopped := false, seen := 0, applied := 0, epoch := 0, lastToken := 0,
    held := [], window := [], waitingPte := none, outOfStep := false, emitted := [], messages := [],
    errors := 0, appliedCount := 0, gapFetches := 0, recoveries := 0 }

/-- A free slot of the Vat (DESIGN CHOICE, log 1). -/
def VatSlot.free : VatSlot :=
  { generation := 0, state := 0, context := 0, desc := Descriptor.initial, experts := [], weights := [], len := 0,
    outfmt := false, infmt := false, renorm := false, inOrder := false, ordq := 0, seq := 0, dst := 0, stampAddr := 0,
    deadline := 0, arrivedMask := 0, foldedMask := 0, subMask := 0, byDeadline := false, dropped := false, acc := [],
    held := [], forced := false, written := 0, waiting := false, poison := false }

/-- The Vat after reset: every slot and page is free (R285). -/
def Vat.initial : Vat :=
  { slots := [], freePages := Config.vatPages, late := 0, rejected := 0, duplicate := 0, refused := 0, queueNext := [],
    answers := [] }

/-- The dispatcher after reset: no card, none posted (R308). -/
def Dispatcher.initial : Dispatcher :=
  { cards := [], nextCard := 0, posted := 0, nextAt := 0, reserved := [], left := [], parts := [], nextPart := 0 }

/-- The host queues after reset (R381; DESIGN CHOICE, log 1). -/
def HostQ.initial : HostQ :=
  { cqBase := 0, cqLog := 4, doorbell := 0, lastAcc := 0, gap := false, cplFull := false, dqBase := 0,
    dqLog := 4, dqHead := 0, lastCseq := 0, commands := [], heldCpl := [], written := [] }

/-- The logs after reset: empty (R376). -/
def Logs.initial : Logs :=
  { faults := [], faultSeq := 0, faultLost := 0, errors := [], errorSeq := 0, reports := [] }

/-- The package settings at reset (R377). -/
def Settings.initial : Settings :=
  { leaseterm := 50, selftest := 1000, hanglimit := 1048576, preemptwait := 50, tokenwait := 20, lostlimit := 100,
    tapEn := false, master := false, ckptBase := 0, buddyBase := 0, ringOrder := Vector.replicate 128 0xFF }

/-- The package right after reset: booting (R384), its settings at their reset values (R377), nothing placed. -/
def State.reset : State :=
  { cur := { wave := 0, path := 0 }, agenda := [], draws := 0, epoch := 0, nextUid := 0, nextId := 0, clock := 0, pkg := 0,
    bootState := 0, failStage := 0,
    fuses := { badFront := [], badWest := [], badEast := [], rollback := 0, enrolled := 0, revoked := 0, firmware := [],
               flash := [] },
    binding := [], waysides := Vector.replicate 6 { image := none, next := none }, settings := Settings.initial,
    power := { point := 1, selected := 1, pcap := 2800, paused := none, idle := false, below := 0, stopped := false },
    mem := [], waymark := [], poisoned := [], l1 := [], copies := [], filters := [], home := [], leases := [], regions := [], modes := [],
    switches := [], perStack := Vector.replicate 4 Stack.initial, contexts := [], convoys := [], crews := [], waves := [],
    cores := [], quads := [], loads := [], scratchOps := [], bound := [], inject := [], fabric := Fabric.initial,
    ring := Ring.initial, sessions := [], collectives := [], vat := Vat.initial, disp := Dispatcher.initial,
    hostq := HostQ.initial, msi := Vector.replicate 6 { pending := false, sent := 0, lastSent := none },
    logs := Logs.initial,
    snapshot := { clock := 0, milestone := 0, tag := 0, count := 0, counters := [], regions := [] },
    ckpt := { context := 0, step := 0, milestone := 0, granules := [], written := 0, waymark := [], busy := false,
              done := false } }

end Sys2Proof.Machine
end

