-- ==== Sys2Proof/Machine/Ops.lean ====
section
/-! DEFINITION. The named operations over waves, registers, masks, logs and convoys; taking a trap, and the return from one. -/

namespace Sys2Proof.Machine

/-! ### Plain helpers -/

/-- Element `i` of a vector, or `d` outside it. -/
def vget {α : Type} {n : Nat} (v : Vector α n) (i : Nat) (d : α) : α := (v[i]?).getD d

/-- A register's 32 lanes from a function of the lane. -/
def lanesOf (f : Nat → Word) : Lanes := ⟨((List.range 32).map f).toArray, by simp⟩

/-- Lane `L` of a register's lanes. -/
def lane (v : Lanes) (L : Nat) : Word := vget v L 0

/-- The 32-bit mask whose bit `L` is `f L`. -/
def maskOf (f : Nat → Bool) : Word :=
  (List.range 32).foldl (fun m L => if f L then m ||| (1#32 <<< L) else m) 0

/-- The lowest lane of a mask, or 0 for an empty one. -/
def lowestLane (m : Word) : Nat := ((List.range 32).find? fun L => m.getLsbD L).getD 0

/-- The set bits of a mask of `n` bits, ascending. -/
def bitsSet {n : Nat} (m : BitVec n) : List Nat := (List.range n).filter fun i => m.getLsbD i

/-- A number made of fields placed at bit positions. -/
def pack (fields : List (Nat × Nat)) : Nat := fields.foldl (fun a f => a + f.2 * 2 ^ f.1) 0

/-- Changes every entry of a table. -/
def tmap {α : Type} (t : Table α) (f : Nat → α → α) : Table α := t.map fun e => (e.1, f e.1 e.2)

/-- Replaces the first element that satisfies `p`. -/
def replaceFirst {α : Type} (p : α → Bool) (f : α → α) : List α → List α
  | [] => []
  | x :: t => if p x then f x :: t else x :: replaceFirst p f t

/-- Removes the first element that satisfies `p`. -/
def dropFirst {α : Type} (p : α → Bool) : List α → List α
  | [] => []
  | x :: t => if p x then t else x :: dropFirst p t

/-! ### Keys and lookups -/

/-- The key of a wave. -/
def waveKey (convoy crew index : Nat) : Nat := 256 * convoy + 32 * crew + index

/-- The convoy of a wave key. -/
def keyConvoy (k : Nat) : Nat := k / 256

/-- The crew number of a wave key. -/
def keyCrew (k : Nat) : Nat := k / 32 % 8

/-- The wave index of a wave key. -/
def keyIndex (k : Nat) : Nat := k % 32

/-- The key of a crew. -/
def crewKey (convoy crew : Nat) : Nat := 8 * convoy + crew

/-- The crew key of a wave key. -/
def keyCrewKey (k : Nat) : Nat := k / 32

/-- A core's state; an unlisted core is as after reset. -/
def State.core (s : State) (c : Nat) : Core := tgetD s.cores c Core.initial

/-- Sets a core's state. -/
def State.setCore (s : State) (c : Nat) (x : Core) : State := { s with cores := tset Core.initial s.cores c x }

/-- A context's state; an unlisted context is as after reset. -/
def State.context (s : State) (c : Nat) : Context := tgetD s.contexts c Context.initial

/-- Sets a context's state. -/
def State.setContext (s : State) (c : Nat) (x : Context) : State :=
  { s with contexts := tset Context.initial s.contexts c x }

/-- Sets a wave's state. -/
def State.setWave (s : State) (k : Nat) (w : Wave) : State := { s with waves := tput s.waves k w }

/-- Changes a wave that is there. -/
def State.modWave (s : State) (k : Nat) (f : Wave → Wave) : State := { s with waves := tmod s.waves k f }

/-- Sets a crew's state. -/
def State.setCrew (s : State) (k : Nat) (x : Crew) : State := { s with crews := tput s.crews k x }

/-- Sets a convoy's state. -/
def State.setConvoy (s : State) (k : Nat) (x : Convoy) : State := { s with convoys := tput s.convoys k x }

/-- A stack's state. -/
def State.stack (s : State) (k : Nat) : Stack := vget s.perStack k Stack.initial

/-- Sets a stack's state. -/
def State.setStack (s : State) (k : Nat) (x : Stack) : State := { s with perStack := s.perStack.setIfInBounds k x }

/-- The stack of a core (R21). -/
def coreStack (c : Nat) : Nat := c / 128

/-- The cluster of a core (R21). -/
def coreCluster (c : Nat) : Nat := c / 8

/-- The quad of a core (R25). -/
def coreQuad (c : Nat) : Nat := c / 4

/-- A quad's mode state. -/
def State.quad (s : State) (q : Nat) : Quad := tgetD s.quads q Quad.initial

/-- Rows and columns of a tile in a binding mode (R27). -/
def tileRows (bind : Nat) : Nat := if bind == 1 then 32 else 64

/-- Columns of a tile in a binding mode (R27). -/
def tileCols (bind : Nat) : Nat := if bind == 3 then 64 else 32

/-- The crew, or an empty one where none is placed. -/
def State.crew (s : State) (k : Nat) : Crew :=
  tgetD s.crews k { scratchSize := 0, scratch := [], windows := [], tiles := [], poolFree := 0 }

/-! ### Masks of a wave -/

/-- A path of a wave. -/
def Div.path (d : Div) (p : Nat) : Path := vget d.paths p Path.free

/-- A strand of a wave. -/
def Div.strand (d : Div) (k : Nat) : Strand := vget d.strands k Strand.start

/-- Sets a path. -/
def Div.setPath (d : Div) (p : Nat) (x : Path) : Div := { d with paths := d.paths.setIfInBounds p x }

/-- Sets a strand. -/
def Div.setStrand (d : Div) (k : Nat) (x : Strand) : Div := { d with strands := d.strands.setIfInBounds k x }

/-- The entries of the path table that are in use (R38). -/
def Div.valid (d : Div) : List Nat := (List.range 8).filter fun p => (d.path p).mask != 0

/-- The lanes active in the strands of a path, without an EXT predicate (R40). -/
def Div.activeLanes (d : Div) (p : Nat) : Word :=
  maskOf fun L => (d.path p).mask.getLsbD (L / 4) && (d.strand (L / 4)).active.getLsbD (L % 4)

/-- The live lanes of a wave (R38). -/
def Div.liveLanes (d : Div) : Word := maskOf fun L => (d.strand (L / 4)).live.getLsbD (L % 4)

/-- The lanes active in their strands, over every path (R325). -/
def Div.allActive (d : Div) : Word :=
  maskOf fun L => d.valid.any (fun p => (d.path p).mask.getLsbD (L / 4)) && (d.strand (L / 4)).active.getLsbD (L % 4)

/-- The pending EXT state of a path: that of its lowest strand (R70; DEDUCED, log 12). -/
def Div.ext (d : Div) (p : Nat) : ExtState :=
  match (List.range 8).find? fun k => (d.path p).mask.getLsbD k with
  | some k => (d.strand k).ext
  | none => ExtState.none

/-- Clears the pending EXT state of a path's strands (R70). -/
def Div.clearExt (d : Div) (p : Nat) : Div :=
  { d with strands := (d.strands.mapIdx fun k x => if (d.path p).mask.getLsbD k then { x with ext := ExtState.none } else x) }

/-! ### Registers -/

/-- A scalar register; s0 reads zero (R58). -/
def Wave.sreg (w : Wave) (n : Nat) : Dword := if n = 0 then 0 else vget w.sregs n 0

/-- Writes a scalar register; a write to s0 is discarded (R58). -/
def Wave.setSreg (w : Wave) (n : Nat) (x : Dword) : Wave :=
  if n = 0 then w else { w with sregs := w.sregs.setIfInBounds n x }

/-- A predicate; p0 reads all-ones (R58). -/
def Wave.preg (w : Wave) (n : Nat) : Word := if n = 0 then 0xFFFFFFFF else vget w.pregs n 0

/-- Writes a predicate; a write to p0 is discarded (R58). -/
def Wave.setPreg (w : Wave) (n : Nat) (x : Word) : Wave :=
  if n = 0 then w else { w with pregs := w.pregs.setIfInBounds n x }

/-- A vector register. -/
def Wave.vreg (w : Wave) (n : Nat) : VReg := vget w.vregs n VReg.zero

/-- Writes the whole of a vector register. -/
def Wave.setVreg (w : Wave) (n : Nat) (x : VReg) : Wave := { w with vregs := w.vregs.setIfInBounds n x }

/-- The bytes of the lanes of a mask. -/
def laneBytes (m : Word) : BitVec 128 :=
  (List.range 32).foldl (fun (b : BitVec 128) L => if m.getLsbD L then b ||| (15#128 <<< (4 * L)) else b) 0

/-- The bits of a lane that lie in the bytes of a mask. -/
def byteBits (m : BitVec 128) (L : Nat) : Word :=
  (List.range 4).foldl (fun (b : Word) i => if m.getLsbD (4 * L + i) then b ||| (0xFF#32 <<< (8 * i)) else b) 0

/-- A register's lanes as a read finds them: each undefined byte has some value, which may differ from read to read (R7). -/
def VReg.read (r : VReg) (draws site : Nat) : Lanes :=
  if r.undef == 0 then r.lanes else lanesOf fun L =>
    (lane r.lanes L &&& ~~~byteBits r.undef L) ||| (Config.freeWord draws site L &&& byteBits r.undef L)

/-- A latch's lanes as a read finds them: each undefined lane has some value, which may differ from read to read (R7, R66). -/
def Latch.read (l : Latch) (draws site : Nat) : Lanes :=
  if l.undef == 0 then l.lanes else lanesOf fun L => if l.undef.getLsbD L then Config.freeWord draws site L else lane l.lanes L

/-- The lanes of `old` with those of `mask` replaced from `new` (R40). -/
def mergeLanes (mask : Word) (old new : Lanes) : Lanes :=
  lanesOf fun L => if mask.getLsbD L then lane new L else lane old L

/-- Writes a vector register in the lanes of a mask and sets its tag (R40, R64). -/
def Wave.writeV (w : Wave) (n : Nat) (mask : Word) (tag : BitVec 4) (v : Lanes) : Wave :=
  let old := w.vreg n
  let w := w.setVreg n { tag := tag, lanes := mergeLanes mask old.lanes v,
                         undef := if old.undef == 0 then 0 else old.undef &&& ~~~laneBytes mask }
  { w with registerDirty := w.registerDirty ||| (1#256 <<< n) }

/-- The register lies in the wave's window (R56). -/
def Wave.inWindow (w : Wave) (regs n : Nat) : Bool := if n < 128 then decide (n < regs) else w.grant

/-- Pushes a result into a path's latches (R66), undefined in the lanes of a mask. -/
def Path.push (p : Path) (tag : BitVec 4) (v : Lanes) (undef : Word) : Path :=
  { p with latches := ⟨#[{ valid := true, tag := tag, lanes := v, undef := undef }, vget p.latches 0 Latch.empty, vget p.latches 1 Latch.empty], by simp⟩ }

/-- Invalidates a path's latches (R68). -/
def Path.dropLatches (p : Path) : Path :=
  { p with latches := p.latches.map fun l => { l with valid := false } }

/-! ### Logs, completions and signals -/

/-- Signals an MSI-X vector: the next message of the vector covers the event (R382). -/
def signal (s : State) (vec : Nat) : State :=
  { s with msi := s.msi.setIfInBounds vec { vget s.msi vec { pending := false, sent := 0, lastSent := none } with pending := true } }

/-- What a fault-log record says (R334). -/
structure FaultInfo where
  pc : Dword
  addr : Dword
  launch : Word
  convoy : Dword
  context : Nat
  cause : Nat
  sub : Nat
  slot : Nat
  crew : Nat
  cluster : Nat
  exited : Bool
  delivered : Bool
  nested : Bool
  ended : Bool
  lanes : Word
  deriving DecidableEq, Repr

/-- The fields of a record that nothing has set. -/
def FaultInfo.blank : FaultInfo :=
  { pc := 0, addr := 0, launch := 0, convoy := 0, context := 0, cause := 0, sub := 0, slot := 0, crew := 0, cluster := 0,
    exited := false, delivered := false, nested := false, ended := false, lanes := 0 }

/-- Writes a fault-log record, or counts it as lost where the log is full (R334). -/
def logFault (s : State) (f : FaultInfo) : State :=
  if s.logs.faults.length < Config.faultLogEntries then
    let r : FaultRecord := { bits := BitVec.ofNat 512 (pack [(448, s.logs.faultSeq.toNat), (384, s.clock % 2 ^ 64),
      (320, f.pc.toNat), (256, f.addr.toNat), (224, f.launch.toNat), (192, f.convoy.toNat % 2 ^ 32), (180, f.context % 4096),
      (172, f.cause % 256), (164, f.sub % 256), (159, f.slot % 32), (156, f.crew % 8), (150, f.cluster % 64),
      (147, f.exited.toNat), (146, f.delivered.toNat), (145, f.nested.toNat), (144, f.ended.toNat), (112, f.lanes.toNat)]) }
    signal { s with logs := { s.logs with faults := s.logs.faults ++ [r], faultSeq := s.logs.faultSeq + 1 } } 2
  else { s with logs := { s.logs with faultLost := s.logs.faultLost + 1 } }

/-- Writes an error-log record; the ring overwrites its oldest (R342). KINDs 1, 3 and 4 signal vector 3 (R382). -/
def logError (s : State) (loc : Dword) (kind unit stack core subarray pattern : Nat) (injected : Bool) (context : Nat) : State :=
  let r : ErrorRecord := { bits := BitVec.ofNat 256 (pack [(192, s.logs.errorSeq.toNat), (128, s.clock % 2 ^ 64),
    (64, loc.toNat), (56, kind), (48, unit), (46, stack), (39, core % 128), (37, subarray % 4), (33, pattern % 16),
    (32, injected.toNat), (20, context % 4096)]) }
  let kept := if s.logs.errors.length < Config.errorLogEntries then s.logs.errors else s.logs.errors.tail
  let s := { s with logs := { s.logs with errors := kept ++ [r], errorSeq := s.logs.errorSeq + 1 } }
  if kind == 1 || kind == 3 || kind == 4 then signal s 3 else s

/-- The key of a detector in the table of INJECT registers (R374). -/
def injectKey (unit stack inst : Nat) : Nat := 512 * unit + 128 * stack + inst

/-- The bits armed in a detector's INJECT register (R343). -/
def armed (s : State) (unit stack inst : Nat) : BitVec 3 := tgetD s.inject (injectKey unit stack inst) 0

/-- A bit of an INJECT register clears. -/
def disarm (s : State) (unit stack inst bit : Nat) : State :=
  { s with inject := tset 0 s.inject (injectKey unit stack inst) (armed s unit stack inst &&& ~~~(1#3 <<< bit)) }

/-- The next check of a detector (R343): what is armed for it is logged as injected, and clears; with it, whether the check reports an uncorrectable
error. Nothing armed, nothing changes. -/
def checkUnit (s : State) (unit stack inst : Nat) (loc : Dword) (context : Nat) : State × Bool :=
  let a := armed s unit stack inst
  let one (s : State) (bit ctx : Nat) : State := if a.getLsbD bit then logError (disarm s unit stack inst bit) loc bit unit stack inst 0 0 true ctx else s
  (one (one s 0 0) 1 context, a.getLsbD 1)

/-! ### Watched lines -/

/-- The entry watches the line: by line, or by the 64 KiB page that holds it in page mode (R199). -/
def watches (pageMode : Bool) (e : Place) (line : Place) : Bool :=
  e.space == line.space && e.owner == line.owner &&
  (if pageMode then e.unit == line.unit / 512 else e.unit == line.unit)

/-- A write to a line by an agent other than the wave `writer` changes it for every wave that watches it (R201). -/
def markChanged (s : State) (writer : Option Nat) (line : Place) : State :=
  let touch (w : Wave) (e : ReadEntry) : ReadEntry :=
    if watches w.txn.pageMode e.place line then { e with changed := true } else e
  { s with waves := tmap s.waves (fun k w =>
      if writer == some k || w.txn.reads.isEmpty then w
      else { w with txn := { w.txn with reads := w.txn.reads.map (touch w) } }) }

/-- The line of a crew's extended pool (R219). -/
def poolPlace (crew : Nat) : Place := { space := .pool, owner := crew, unit := 0 }

/-! ### The end of a wave, a convoy and a launch's part -/

/-- Notes that a launch's part has made progress (R314). -/
def progress (s : State) (part : Nat) : State :=
  { s with disp := { s.disp with parts := tmod s.disp.parts part fun p => { p with progressAt := s.clock } } }

/-- Returns a wave's extended block to its crew's pool (R59, R219). -/
def returnGrant (s : State) (k : Nat) : State :=
  match tget s.waves k with
  | none => s
  | some w =>
    if w.grant then
      let s := s.setWave k { w with grant := false }
      let s := { s with crews := tmod s.crews (keyCrewKey k) fun c => { c with poolFree := c.poolFree + 1 } }
      markChanged s (some k) (poolPlace (keyCrewKey k))
    else s

/-- A wave no longer counts in the halt in progress; the halt is over when none is left (R328). -/
def leaveHalt (s : State) (k : Nat) : State :=
  { s with convoys := tmod s.convoys (keyConvoy k) fun c =>
      match c.halt with
      | none => c
      | some h =>
        let rest := h.waiting.filter (· != k)
        { c with halt := if rest.isEmpty then none else some { h with waiting := rest } } }

/-- A wave ends (R47): it leaves every group, returns its grant, and frees its path table; its shadow and held traps go. -/
def endWave (s : State) (k : Nat) : State :=
  let s := returnGrant s k
  let s := { s with waves := tmod s.waves k fun w => { w with
    ended := true, groups := 0, div := { w.div with paths := Vector.replicate 8 Path.free }, inHandler := false,
    heldReset := none, heldSibling := none, heldReport := none, park := none, retry := none, asleep := false,
    txn := { Txn.none with cause := w.txn.cause, code := w.txn.code } } }
  let s := leaveHalt s k
  match tget s.convoys (keyConvoy k) with
  | none => s
  | some c => progress s c.part

/-- A crew's register partition (R55). -/
def Card.regBytes (c : Card) : Nat := (c.waves * c.regs * kib + c.ext * 16 * kib + 64 * kib - 1) / (64 * kib) * (64 * kib)

/-- The crews that reside on a core, by the cards of their convoys. -/
def residents (s : State) (core : Nat) : List Card :=
  (s.convoys.filter fun e => e.2.cores.contains core && (e.2.residence == .placed || e.2.residence == .evicting)).map fun e => e.2.card

/-- Brings a core's REGGATE counter up to date (R34): for each cycle that has passed, and each 64 KiB bank of the core's register partition (R32, R55),
it may have counted one; how many it has counted depends on the values in the registers (R33) and is a free value (DESIGN CHOICE, log 61). -/
def countGate (s : State) (core : Nat) : State :=
  let x := s.core core
  let most := ((residents s core).map Card.regBytes).sum / (64 * kib) * (s.clock - x.gatedAt)
  let n := if most == 0 then 0 else (Config.freeDword s.draws (1000 + core)).toNat % (most + 1)
  { (s.setCore core { x with reggate := x.reggate + BitVec.ofNat 64 n, gatedAt := s.clock }) with draws := s.draws + 1 }

/-- Brings the REGGATE counters of some cores up to date, before a convoy comes to them or leaves them. -/
def countGatesOf (s : State) (cores : List Nat) : State := cores.foldl countGate s

/-- Removes a convoy with its waves and crews from the machine, and frees the save slot it may hold. The commands that it had on copy chains
leave them (DEDUCED, log 41). -/
def removeConvoy (s : State) (v : Nat) : State :=
  let s := match tget s.convoys v with
    | some c => match c.residence with
      | .saved slot =>
        let x := s.context c.context
        s.setContext c.context { x with saveUsed := x.saveUsed.filter (· != slot) }
      | _ => countGatesOf s c.cores
    | none => s
  { s with
    convoys := tdel s.convoys v
    crews := s.crews.filter fun e => e.1 / 8 != v
    waves := s.waves.filter fun e => keyConvoy e.1 != v
    loads := s.loads.filter fun e => keyConvoy e.2.wave != v
    scratchOps := s.scratchOps.filter fun e => keyConvoy e.2.wave != v && e.2.target / 8 != v
    collectives := s.collectives.filter fun e => e.2.convoy != v
    cores := tmap s.cores fun _ c => { c with
      queue := c.queue.filter fun o => keyConvoy o.wave != v
      chain := c.chain.filter fun x => x.convoy != v
      completed := c.completed + BitVec.ofNat 64 (c.chain.filter fun x => x.convoy == v).length } }

/-- Posts a completion: it is written to the ring, or held where the ring is full (R381). The bytes are written by the host unit. The spec gives
RESULT no content: it is a free value. -/
def postCompletion (s : State) (seq : Dword) (launch : Word) (status : Nat) : State :=
  let q := s.hostq
  let c : Completion := { cseq := 0, seq := seq, launch := launch, status := status, result := Config.freeDword s.draws 670 }
  let held := q.heldCpl ++ [c]
  let full := decide (256 ≤ held.length)
  let rest := if seq = 0 then q.commands else q.commands.filter fun c => c.seq != seq
  let s' := { s with hostq := { q with heldCpl := held, commands := rest, cplFull := q.cplFull || full }, draws := s.draws + 1 }
  if full && !q.cplFull then signal s' 5 else s'

/-- Ends a launch's part at this package (R314): its convoys are removed, its cards discarded, no stamp is written; a host
launch completes with ENDED (R381). -/
def endPart (s : State) (part : Nat) : State :=
  match tget s.disp.parts part with
  | none => s
  | some p =>
    let s := (s.convoys.filter fun e => e.2.part == part).foldl (fun s e => removeConvoy s e.1) s
    let gone := s.disp.cards.filter fun e => e.2.part == part
    let s := { s with disp := { s.disp with
      cards := s.disp.cards.filter fun e => e.2.part != part
      left := s.disp.left ++ gone.map fun e => (s.context e.2.context).desc.gridPa
      parts := tdel s.disp.parts part } }
    if p.hostLaunch then postCompletion s (p.hostSeq.getD 0) p.launch 4 else s

/-- The fault-log fields of a wave (R334). -/
def waveInfo (s : State) (k : Nat) : FaultInfo :=
  match tget s.waves k, tget s.convoys (keyConvoy k) with
  | some w, some c => { FaultInfo.blank with
      launch := c.launch, convoy := c.index, context := c.context, slot := w.slot, crew := keyCrew k, cluster := c.cluster }
  | _, _ => FaultInfo.blank

/-- A wave is ended alone by containment (R340, R341): its record says so, and its convoy's ABANDON bit stays set. -/
def containWave (s : State) (k : Nat) (pc addr : Dword) (lanes : Word) : State :=
  let s := logFault s { waveInfo s k with pc := pc, addr := addr, cause := 0x0B, ended := true, lanes := lanes }
  let s := { s with convoys := tmod s.convoys (keyConvoy k) fun c => { c with abandon := true } }
  endWave s k

/-! ### Transactions: discarding an attempt -/

/-- Cause codes of the transaction status (R209). -/
def txCause : String → BitVec 4
  | "EXPLICIT" => 1 | "CONFLICT" => 2 | "READ_OVERFLOW" => 3 | "WRITE_OVERFLOW" => 4 | "UNTRACKABLE" => 5
  | "UNSUPPORTED" => 6 | "FAULT" => 7 | "TRAP" => 8 | "WOKEN" => 9 | "SPURIOUS" => 10 | _ => 0

/-- A change to a read-set line has happened (R201). -/
def Txn.hit (t : Txn) : Bool := t.reads.any (·.changed)

/-- The fail label of a level, 1 to 4 (R196). -/
def Txn.fail (t : Txn) (d : Nat) : Dword := vget t.fails (d - 1) 0

/-- Aborts every level of the attempt (R204): the read set is kept and RETAINED is set. -/
def Txn.abortAll (t : Txn) (cause : BitVec 4) : Txn :=
  { t with depth := 0, buffer := [], retained := true, cause := cause, alts := Vector.replicate 4 Option.none }

/-- Aborts the attempt of a wave, which continues at FAIL[1] (R204): the wave has one path. Its pending EXT goes (DEDUCED, log 19), but for
a trap, which saves it (R71, R550). -/
def abortAttempt (w : Wave) (p : Nat) (cause : BitVec 4) : Wave :=
  let target := w.txn.fail 1
  let d := if cause == txCause "TRAP" then w.div else w.div.clearExt p
  let hold := if (d.path p).hold == .debug then Hold.debug else Hold.none
  { w with txn := w.txn.abortAll cause, div := d.setPath p { d.path p with pc := target, hold := hold } }

/-! ### Taking a trap -/

/-- What a precise trap says (R325, R326). -/
structure Trap where
  cause : Nat
  sub : Nat
  addr : Dword
  lanes : Option Word
  nextPc : Bool
  deriving DecidableEq, Repr

/-- A trap whose saved PC is the trapping instruction, with no detail. -/
def Trap.mk' (cause : Nat) (addr : Dword) : Trap := { cause := cause, sub := 0, addr := addr, lanes := none, nextPc := false }

/-- The causes whose trap halts the convoy (R326, R327). -/
def causeHalts (cause : Nat) : Bool :=
  (0x01 ≤ cause && cause ≤ 0x08) || cause == 0x0A || cause == 0x0F || cause == 0x10 || cause == 0x11 || cause == 0x13

/-- The path of a wave that its scheduler has selected last keeps its latches over an event that interrupts it: a trap, a pre-emption, a debug halt
(R68, R354; DEDUCED, log 21). -/
def keepChain (s : State) (k : Nat) (w : Wave) : Wave :=
  match (vget (s.core w.core).scheds (w.slot % 2) Sched.initial).last with
  | some (j, p) => if j == k then { w with div := w.div.setPath p { w.div.path p with kept := true } } else w
  | none => w

/-- The change of a wave's paths at trap entry and at ERET is no selection (R68): no path of the wave is the last selected. -/
def forgetLast (s : State) (k : Nat) (w : Wave) : State :=
  let c := s.core w.core
  let forget (x : Sched) : Sched := if x.last.any fun l => l.1 == k then { x with last := none, chain := 0 } else x
  s.setCore w.core { c with scheds := c.scheds.map forget }

/-- Moves the divergence state into the shadow and restarts the wave at the handler as one path with every lane enabled
(R321): holds are released, a sleeping or parked wave wakes, an open transaction is gone, and a SIBLING_HALT within its skid is held (R332). -/
def enterHandler (w : Wave) (handler : Dword) (regs : TrapRegs) (epoch : Nat) : Wave :=
  let quiet : Div := { w.div with paths := w.div.paths.map fun p =>
    { p with hold := .none, waitedLong := false, stepping := false } }
  let start := Div.start handler
  { w with shadow := quiet, div := start.setPath 0 { start.path 0 with readyAt := epoch }, inHandler := true, trap := regs,
           asleep := false, park := none, retry := none, heldSibling := w.heldSibling.map fun h => { h with left := 0 }, txn := { w.txn with reads := if w.asleep then [] else w.txn.reads } }

/-- Sends a halt broadcast to every other wave of the convoy that has not ended (R327); each reaches its wave by SIBLING_HALT. -/
def broadcastHalt (s : State) (k : Nat) (cause : Nat) (pc : Dword) (slot : Nat) : State :=
  let v := keyConvoy k
  match tget s.convoys v with
  | none => s
  | some c =>
    if c.halt.isSome then s else
    let others := (s.waves.filter fun e => keyConvoy e.1 == v && e.1 != k && !e.2.ended).map (·.1)
    if others.isEmpty then s else
    s.setConvoy v { c with halt := some { cause := BitVec.ofNat 8 cause, pc := pc, crew := keyCrew k, slot := slot, waiting := others } }

/-- Takes a precise trap of path `p` of wave `k` (R321 to R328). With no handler, or in the handler, it ends the convoy (R324). An
open transaction has been aborted before: `saved` is the PC that the shadow keeps for the trapping path. -/
def takeTrap (s : State) (k p : Nat) (t : Trap) (trapPc saved : Dword) : State :=
  match tget s.waves k, tget s.convoys (keyConvoy k) with
  | some w, some c =>
    let lanes := t.lanes.getD (w.div.activeLanes p)
    if c.desc.handler = 0 || w.inHandler then
      let s := logFault s { waveInfo s k with
        pc := trapPc, addr := t.addr, cause := t.cause, sub := t.sub, ended := true,
        nested := c.desc.handler != 0 && w.inHandler, lanes := lanes }
      endPart (removeConvoy s (keyConvoy k)) c.part
    else
      let regs : TrapRegs := {
        cause := BitVec.ofNat 64 (pack [(24, t.sub % 256), (12, p), (0, t.cause)])
        pc := trapPc
        mask := BitVec.ofNat 64 (pack [(32, w.div.liveLanes.toNat), (0, w.div.allActive.toNat)])
        lanes := lanes.setWidth 64
        addr := t.addr
        skid := 0 }
      let w := { w with div := w.div.setPath p { w.div.path p with pc := saved, kept := true }, heldSibling := none }
      let s := leaveHalt (s.setWave k (enterHandler w c.desc.handler regs s.epoch)) k
      if causeHalts t.cause then broadcastHalt s k t.cause trapPc w.slot else s
  | _, _ => s

/-- Takes an asynchronous trap of a wave (R331, R325): no path traps, and each path's saved PC is its own next instruction. A wave that enters
its handler so counts no more in a halt in progress (R328). -/
def takeAsync (s : State) (k : Nat) (cause sub : Nat) (pc addr skid : Dword) (lanes : Word) : State :=
  match tget s.waves k, tget s.convoys (keyConvoy k) with
  | some w, some c =>
    let w := if w.txn.depth = 0 then w else abortAttempt w (w.div.valid.headD 0) (txCause "TRAP")
    if c.desc.handler = 0 then
      let s := logFault s { waveInfo s k with pc := pc, addr := addr, cause := cause, sub := sub, ended := true, lanes := lanes }
      endPart (removeConvoy s (keyConvoy k)) c.part
    else
      let regs : TrapRegs := {
        cause := BitVec.ofNat 64 (pack [(24, sub % 256), (15, 1), (0, cause)])
        pc := pc
        mask := BitVec.ofNat 64 (pack [(32, w.div.liveLanes.toNat), (0, w.div.allActive.toNat)])
        lanes := lanes.setWidth 64
        addr := addr
        skid := skid }
      leaveHalt (forgetLast (s.setWave k (enterHandler (keepChain s k w) c.desc.handler regs s.epoch)) k w) k
  | _, _ => s

/-! ### Resuming strands, splitting paths, returning from the handler -/

/-- Pops every empty entry from the top of a strand's stack (R45).
This is done where an instruction that exposes an empty entry has run (DEDUCED, log 74). -/
def Strand.popEmpty : Nat → Strand → Strand
  | 0, x => x
  | n + 1, x =>
    let top := vget x.stack (x.depth.toNat - 1) Deferred.empty
    if x.depth ≠ 0 && top.mask == 0 then
      Strand.popEmpty n { x with depth := x.depth - 1, stack := x.stack.setIfInBounds (x.depth.toNat - 1) Deferred.empty }
    else x

/-- A strand whose active mask is empty resumes from its stack (R47): its new state and its PC, or none where it is dead. -/
def Strand.resume (x : Strand) : Strand × Option Dword :=
  let x := Strand.popEmpty 4 x
  if x.depth = 0 then (x, none) else
  let i := x.depth.toNat - 1
  let top := vget x.stack i Deferred.empty
  let y := Strand.popEmpty 4 { x with depth := x.depth - 1, active := top.mask, stack := x.stack.setIfInBounds i Deferred.empty }
  if top.pc.getLsbD 0 then (y, some ((top.pc &&& ~~~3#64) + 4)) else (y, some top.pc)

/-- The lowest free path-table entry (R42). -/
def Div.freeEntry (d : Div) : Nat := ((List.range 8).find? fun p => (d.path p).mask == 0).getD 7

/-- The distinct PCs of a list, ascending. -/
def sortedPcs (l : List Dword) : List Dword :=
  (l.foldl (fun acc x => if acc.contains x then acc else
    (acc.filter fun y => decide (y.toNat < x.toNat)) ++ [x] ++ (acc.filter fun y => decide (x.toNat < y.toNat))) [])

/-- Splits a path whose strands leave with the next PCs given (R42): the entry keeps those at `fall`, or the group with the lowest
PC where none is there; each other group takes the lowest free entry, in ascending order of PC. A strand with no next PC
has left the path. The latches of the parts are invalid where `lost` holds. -/
def Div.split (d : Div) (p : Nat) (next : List (Nat × Dword)) (fall : Dword) (lost : Bool) (stamp : Nat) : Div :=
  let group (pc : Dword) : BitVec 8 := next.foldl (fun m e => if e.2 == pc then m ||| (1#8 <<< e.1) else m) 0
  let pcs := sortedPcs (next.map (·.2))
  match pcs with
  | [] => d.setPath p Path.free
  | low :: _ =>
    let keep := if pcs.contains fall then fall else low
    let others := pcs.filter (· != keep)
    let base := { d.path p with mask := group keep, pc := keep, hold := .none, readyAt := stamp, kept := false, waitedLong := false, skipBreak := false }
    let base := if lost || !others.isEmpty then base.dropLatches else base
    others.foldl (fun d pc => d.setPath d.freeEntry { Path.free with mask := group pc, pc := pc, readyAt := stamp }) (d.setPath p base)

/-- The lanes of a strand within a wave's lane mask. -/
def strandLanes (m : Word) (k : Nat) : BitVec 4 := m.extractLsb' (4 * k) 4

/-- The shadow with the lanes whose live bit was cleared ended: gone from the active mask and from every deferral entry (R337). -/
def Strand.endDead (x : Strand) : Strand :=
  { x with active := x.active &&& x.live, stack := x.stack.map fun e => { e with mask := e.mask &&& x.live } }

/-- The masks of a strand's deferral entries below its depth. -/
def Strand.entries (x : Strand) : List Deferred := (List.range (min x.depth.toNat 4)).map fun j => vget x.stack j Deferred.empty

/-- The masks of the list are pairwise disjoint. -/
def disjointMasks {n : Nat} : List (BitVec n) → Bool
  | [] => true
  | m :: t => (t.all fun x => m &&& x == 0) && disjointMasks t

/-- A strand of the shadow is consistent (R337). -/
def Strand.ok (x : Strand) : Bool :=
  let es := x.entries
  decide (x.depth.toNat ≤ 4) && decide ((bitsSet x.ext.kinds).length ≤ 3) &&
  (x.live == 0 || ((x.active &&& ~~~x.live) == 0 && (x.active != 0 || es.any fun e => e.mask != 0))) &&
  (es.all fun e => (e.mask &&& ~~~x.live) == 0) &&
  disjointMasks ((x.active :: es.map (·.mask)).filter (· != 0))

/-- The divergence state passes ERET's checks, its ended lanes removed (R337). -/
def Div.ok (d : Div) : Bool :=
  let masks := (List.range 8).map fun p => (d.path p).mask
  let live : BitVec 8 := (List.range 8).foldl (fun m k => if (d.strand k).live != 0 then m ||| (1#8 <<< k) else m) 0
  disjointMasks (masks.filter (· != 0)) && masks.foldl (· ||| ·) 0 == live && (List.range 8).all fun k => (d.strand k).ok

/-- Resumes a restored path: its strands pop empty entries, and those with no active lane resume from their stacks (R337, R47). A strand that
resumes so changes its path's active masks 'as after EXIT', and the path loses its latches as at an EXIT, although R68 says that ERET
invalidates none (DESIGN CHOICE, log 79). -/
def Div.resumePath (d : Div) (p stamp : Nat) : Div :=
  let ks := bitsSet (d.path p).mask
  let fall := (d.path p).pc
  let d := ks.foldl (fun d k => d.setStrand k (Strand.popEmpty 4 (d.strand k))) d
  if ks.all fun k => (d.strand k).active != 0 then d else
  let step := ks.foldl (fun (a : Div × List (Nat × Dword)) k =>
    let x := a.1.strand k
    if x.active != 0 then (a.1, a.2 ++ [(k, fall)])
    else
      let r := x.resume
      (a.1.setStrand k r.1, match r.2 with | some pc => a.2 ++ [(k, pc)] | none => a.2)) (d, [])
  step.1.split p step.2 fall true stamp

/-- ERET restores the shadow as the wave's state (R337): the ended lanes removed, every path at its saved PC with its latches (R68). A
path that stands at the TRAPPC of a code breakpoint's trap skips the check of its first instruction (R354). -/
def restoreShadow (w : Wave) (stamp : Nat) : Wave :=
  let d : Div := { w.shadow with strands := w.shadow.strands.map Strand.endDead }
  let skip (x : Path) : Bool := w.trap.cause.toNat % 256 == 0x0D && w.trap.addr != 0xFF && x.pc == w.trap.pc
  let back (x : Path) : Path := { x with readyAt := stamp, skipBreak := skip x }
  let d := d.valid.foldl (fun d p => (d.setPath p (back (d.path p))).resumePath p stamp) d
  { w with div := d, inHandler := false }

end Sys2Proof.Machine
end

