-- ==== Sys2Proof/Machine/Bytes.lean ====
section
/-! DEFINITION. Byte tables: reading and writing runs of bytes, little-endian (R1), and the physical layout of memory (R116 to
R119). -/

namespace Sys2Proof.Machine

/-- A list without repeats, in the order of first occurrence. -/
def dedup {α : Type} [DecidableEq α] (l : List α) : List α :=
  l.foldl (fun a x => if a.contains x then a else a ++ [x]) []

/-- The `n` bytes of a number, least significant first (R1). -/
def bytesOf (n v : Nat) : List Byte := (List.range n).map fun i => BitVec.ofNat 8 (v / 2 ^ (8 * i))

/-- A list cut into numbered parts of `n`. -/
def partsOf {α : Type} (n : Nat) (l : List α) : List (Nat × List α) :=
  (List.range ((l.length + n - 1) / n)).map fun k => (k, (l.drop (k * n)).take n)

/-- The first `count` numbered parts put together. -/
def joinParts {α : Type} (count : Nat) (l : List (Nat × List α)) : List α :=
  (List.range count).flatMap fun k => ((l.find? fun e => e.1 == k).map (·.2)).getD []

/-- One bit of a CRC-32C (PRESUMED, log 94). -/
def crcBit (c : Word) : Word := if c.getLsbD 0 then (c >>> 1) ^^^ 0x82F63B78 else c >>> 1

/-- One byte of a CRC-32C. -/
def crcByte (c : Word) (b : Byte) : Word := (List.range 8).foldl (fun c _ => crcBit c) (c ^^^ b.setWidth 32)

/-- The CRC-32C of bytes (R252, R261; PRESUMED, log 94). -/
def crc32c (bs : List Byte) : Word := ~~~ (bs.foldl crcByte 0xFFFFFFFF)

/-- The number that bytes hold, least significant first (R1). -/
def leNat : List Byte → Nat
  | [] => 0
  | b :: t => b.toNat + 256 * leNat t

/-- One byte of a byte table; an unlisted byte is zero (DESIGN CHOICE, log 2). -/
def byteAt (t : Table Byte) (a : Nat) : Byte := tgetD t a 0

/-- `n` bytes from an address. -/
def readRun (t : Table Byte) (a n : Nat) : List Byte := (List.range n).map fun i => byteAt t (a + i)

/-- The number in `n` bytes at an address. -/
def readNat (t : Table Byte) (a n : Nat) : Nat := leNat (readRun t a n)

/-- Writes one byte, keeping the canonical form. -/
def setByte (t : Table Byte) (a : Nat) (b : Byte) : Table Byte := tset 0 t a b

/-- Writes bytes at ascending addresses. -/
def writeRun (t : Table Byte) (a : Nat) : List Byte → Table Byte
  | [] => t
  | b :: r => writeRun (setByte t a b) (a + 1) r

/-- Writes bytes at the addresses they name. -/
def writeCells (t : Table Byte) (cells : List (Nat × Byte)) : Table Byte :=
  cells.foldl (fun t e => setByte t e.1 e.2) t

/-- The canonical form of a package's memory: addresses rise strictly and no listed byte is zero. -/
abbrev Memory.wf (m : List Host.Cell) : Bool := canonical (0 : Byte) m

/-! ### Physical addresses -/

/-- The package of a global physical address (R116). -/
def paPkg (a : Nat) : Nat := a / 2 ^ 52 % 256

/-- The region kind of a global physical address (R116). -/
def paRegion (a : Nat) : Nat := a / 2 ^ 48 % 16

/-- The offset of a global physical address (R116). -/
def paOffset (a : Nat) : Nat := a % 2 ^ 48

/-- A global physical address from its parts. -/
def mkPa (pkg region off : Nat) : Nat := pkg * 2 ^ 52 + region * 2 ^ 48 + off

/-- The offset exists in its region (R117). -/
def offsetOk (region off : Nat) : Bool :=
  if region == 0 then decide (off < 0x18000000000)
  else if region == 1 then decide (off < 2 ^ 35) && decide (off % 2 ^ 33 < 0x180000000)
  else if region == 2 then decide (off < 2 ^ 24)
  else if region == 3 then decide (off < 2 ^ 20)
  else region == 8

/-- The line of an address: 128 bytes (R139). -/
def lineOf (a : Nat) : Nat := a / 128

/-- The home stack of a global physical address (R118, R119); other regions live on the base die and are given stack 0. -/
def homeStack (a : Nat) : Nat :=
  let o := paOffset a
  if paRegion a == 0 then (o / 2 ^ 12 % 4) ^^^ (o / 2 ^ 20 % 4)
  else if paRegion a == 1 then o / 2 ^ 33 % 4
  else 0

/-- The channel of far memory within its home stack (R118). -/
def channelOf (a : Nat) : Nat := paOffset a / 512 % 8

/-- The package's number of a far-memory channel (R118). -/
def packageChannel (a : Nat) : Nat := 8 * homeStack a + channelOf a

/-- The region number of far or near memory (R374). -/
def regionNumber (a : Nat) : Nat :=
  let o := paOffset a
  if paRegion a == 1 then 24576 + 96 * (o / 2 ^ 33 % 4) + o % 2 ^ 33 / 2 ^ 26 else o / 2 ^ 26

/-- The region is far or near memory, which has a mode (R139). -/
def hasMode (a : Nat) : Bool := paRegion a == 0 || paRegion a == 1

/-- A region's status word at this package (R156). -/
def regionWord (s : State) (n : Nat) : Word := tgetD s.regions n 0

/-- The location is in a hardware-coherent region of this package (R139). -/
def coherentHere (s : State) (a : Nat) : Bool :=
  paPkg a == s.pkg && hasMode a && (regionWord s (regionNumber a)).getLsbD 0

/-- The waymark window of a context holds `n` bytes at offset `o` (R270, R559). -/
def inWaymark (size o n : Nat) : Bool := decide (o + n ≤ size)

end Sys2Proof.Machine
end

