-- ==== Sys2Proof/WellFormed.lean ====
section
/-! DEFINITION. The field values an instruction may hold (R392, R393, R402): what its format, the opcode map and its entry
permit. A decoded instruction that fails these checks raises ILLEGAL_FIELD when it runs; none depends on the state. -/

namespace Sys2Proof

/-- An operand select that R394 does not reserve. -/
def selOk (a : BitVec 8) : Bool := !(0xEC ≤ a.toNat && a.toNat ≤ 0xFB)

/-- The select names a vector register. -/
def selIsVec (a : BitVec 8) : Bool := a.toNat < 0x80

/-- The select names a latch. -/
def selIsLatch (a : BitVec 8) : Bool := 0xFC ≤ a.toNat && a.toNat ≤ 0xFE

/-- An operand select of a scalar instruction (R395, R531): no vector register and no per-lane identity. -/
def scalarSelOk (a : BitVec 8) : Bool :=
  selOk a && !selIsVec a && !(a.toNat == 0xE0 || a.toNat == 0xE1 || a.toNat == 0xE2 || a.toNat == 0xE6)

/-- The lane select of SRDL (R538): a scalar, a constant, a uniform identity or the EXT immediate. -/
def laneSelOk (b : BitVec 8) : Bool := scalarSelOk b && !selIsLatch b

/-- The address fields of format M (R392): under AM = 0 a register pair, under AM = 1 a scalar register. -/
def adrOk (m : BitVec 1) (a : BitVec 7) : Bool := if m == 1 then a.toNat < 64 else a.toNat ≤ 126

/-- SCOPE 6 and 7 are reserved (R135). -/
def scopeOk (c : BitVec 3) : Bool := c.toNat ≤ 5

/-- Elements of one lane in the format of a tag code (R451). -/
def elemsOf (code : Nat) : Nat :=
  if code == 2 || code == 3 || code == 6 || code == 7 then 2
  else if code == 8 || code == 9 || code == 0xA || code == 0xB then 4
  else if code == 0xC || code == 0xD || code == 0xE then 8
  else 1

/-- The code names an integer format (R63). -/
def codeIsInt (code : Nat) : Bool := (4 ≤ code && code ≤ 9) || code == 0xD || code == 0xF

/-- The format pairs of CVT (R450). -/
def cvtPairOk (r s : Nat) : Bool :=
  r != 0 && s != 0 &&
  !(r == 0xF && !(s == 1 || s == 4 || s == 5)) &&
  !(s == 0xF && !(r == 1 || r == 4 || r == 5)) &&
  !(r == 0xE && codeIsInt s) && !(s == 0xE && codeIsInt r)

/-- Registers of the source group of CVT (R451). -/
def cvtSrcRegs (r s : Nat) : Nat := if s == 0xF then 2 else if r == 0xF then 1 else max 1 (elemsOf r / elemsOf s)

/-- Registers of the destination group of CVT (R451). -/
def cvtDstRegs (r s : Nat) : Nat := if r == 0xF then 2 else if s == 0xF then 1 else max 1 (elemsOf s / elemsOf r)

/-- The fields of CVT (R67, R450, R451). With source code 0xF an untagged A is one 64-bit element and a latch is refused. -/
def cvtOk (w : BitVec 1) (d : BitVec 7) (a : BitVec 8) (r s : Nat) : Bool :=
  let src := cvtSrcRegs r s
  let dst := cvtDstRegs r s
  selOk a && cvtPairOk r s && !(w == 1 && 1 < dst) && d.toNat + dst ≤ 128 &&
  (if selIsVec a then a.toNat + src ≤ 128
   else src ≤ 1 || (s == 0xF && !selIsLatch a))

/-- The code is a wide format of QCVT and QUNP (R512). -/
def wideCode (c : Nat) : Bool := 1 ≤ c && c ≤ 3

/-- The code is a compact container of QCVT and QUNP (R512). -/
def compactCode (c : Nat) : Bool := c == 0xA || c == 0xB || c == 8 || c == 0xC || c == 0xD || c == 0xE

/-- The fields of QCVT (R512, R513). -/
def qcvtOk (w : BitVec 1) (d : BitVec 7) (a : BitVec 8) (r s : Nat) : Bool :=
  compactCode r && wideCode s && w == 0 && selIsVec a && d.toNat ≤ 126 && a.toNat + elemsOf r / elemsOf s ≤ 128

/-- The fields of QUNP (R512, R513). -/
def qunpOk (w : BitVec 1) (d : BitVec 7) (a : BitVec 8) (r s : Nat) : Bool :=
  wideCode r && compactCode s && w == 0 && selIsVec a && a.toNat ≤ 126 && d.toNat + elemsOf s / elemsOf r ≤ 128

/-- The operand format pairs of MMA (R93). -/
def mmaPairOk (f g : Nat) : Bool :=
  (f == 0 && g == 0) || (f == 1 && g == 1) || ((f == 2 || f == 3) && (g == 2 || g == 3)) || (f == 4 && g == 4) ||
  ((f == 5 || f == 7) && (g == 5 || g == 7)) || (f == 6 && g == 6)

/-- The fields of MMAS (R496, R223). -/
def mmasOk (f g : BitVec 4) (a b : BitVec 6) : Bool :=
  ((f == 8 && g == 8) || (f == 9 && g == 9)) && a != 63 && b != 63

/-- The fields of MMAG (R496, R223). -/
def mmagOk (g : BitVec 4) (a b : BitVec 6) : Bool :=
  (g == 5 || g == 7 || g == 9) && a != 63 && !(g == 9 && b == 63)

/-- The system register numbers of R409. -/
def sysRegOk (r : BitVec 8) : Bool :=
  r.toNat ≤ 5 || [0x08, 0x09, 0x0A, 0x10, 0x11, 0x12, 0x18, 0x19, 0x1A, 0x20, 0x21, 0x28, 0x29].contains r.toNat

/-- The fields and indexes of the shadow that PATHRD and PATHWR name (R336). -/
def shadowFieldOk (sel index : Nat) : Bool :=
  (sel ≤ 4 && index < 8) || ((sel == 5 || sel == 6) && index < 32) || (sel == 7 && index < 8) ||
  (sel == 8 && index < 128) || (sel == 9 && index < 24)

/-- Two operand selects that no entry narrows. -/
def ab (a b : BitVec 8) : Bool := selOk a && selOk b

/-- Two scalar operand selects. -/
def sab (a b : BitVec 8) : Bool := scalarSelOk a && scalarSelOk b

/-- A load of format M (R136, R392). -/
def ldOk (a : BitVec 7) (m : BitVec 1) (c : BitVec 3) (o : BitVec 2) : Bool := adrOk m a && scopeOk c && o.toNat ≤ 1

/-- A store of format M, or a RED (R136, R518). -/
def stOk (a : BitVec 7) (m : BitVec 1) (c : BitVec 3) (o : BitVec 2) : Bool :=
  adrOk m a && scopeOk c && (o == 0 || o == 2)

/-- An ATOM (R426). -/
def atomOk (a : BitVec 7) (m : BitVec 1) (c : BitVec 3) : Bool := adrOk m a && scopeOk c

/-- A scalar load (R537). -/
def sldOk (c : BitVec 3) (o : BitVec 2) : Bool := scopeOk c && o.toNat ≤ 1

/-- A scalar store (R537). -/
def sstOk (c : BitVec 3) (o : BitVec 2) : Bool := scopeOk c && (o == 0 || o == 2)

/-- The field values of an instruction are ones its format, the opcode map and its entry permit. -/
def fieldsOk : Instr → Bool
  | .nop => true
  | .br _ => true
  | .brc _ m _ => 1 ≤ m.toNat && m.toNat ≤ 4
  | .brd _ _ => true
  | .brdNot _ _ => true
  | .brx _ => true
  | .call _ => true
  | .callIndirect _ => true
  | .rejoin _ => true
  | .regang => true
  | .ret => true
  | .exit => true
  | .trap _ => true
  | .bkpt => true
  | .yield => true
  | .tramp _ => true
  | .tool0 _ => true
  | .tool1 _ => true
  | .tool2 _ => true
  | .sadd _ a b => sab a b
  | .ssub _ a b => sab a b
  | .smul _ a b => sab a b
  | .sand _ a b => sab a b
  | .sor _ a b => sab a b
  | .sxor _ a b => sab a b
  | .sshl _ a b => sab a b
  | .sshr _ a b => sab a b
  | .ssar _ a b => sab a b
  | .smov _ a => scalarSelOk a
  | .smovi _ _ => true
  | .scmp c _ _ a b => sab a b && c.toNat ≤ 9
  | .sldN8 _ _ _ c o => sldOk c o
  | .sldI8 _ _ _ c o => sldOk c o
  | .sldN16 _ _ _ c o => sldOk c o
  | .sldI16 _ _ _ c o => sldOk c o
  | .sldN32 _ _ _ c o => sldOk c o
  | .sldI32 _ _ _ c o => sldOk c o
  | .sldN64 _ _ _ c o => sldOk c o
  | .sstN8 _ _ _ c o => sstOk c o
  | .sstN16 _ _ _ c o => sstOk c o
  | .sstN32 _ _ _ c o => sstOk c o
  | .sstN64 _ _ _ c o => sstOk c o
  | .and _ _ a b => ab a b
  | .or _ _ a b => ab a b
  | .xor _ _ a b => ab a b
  | .not _ _ a => selOk a
  | .shl _ _ a b => ab a b
  | .shr _ _ a b => ab a b
  | .sar _ _ a b => ab a b
  | .bfeN32 _ _ a b => ab a b
  | .bfeI32 _ _ a b => ab a b
  | .bfi _ _ a b => ab a b
  | .clz _ _ a => selOk a
  | .popc _ _ a => selOk a
  | .iadd _ _ a b => ab a b
  | .isub _ _ a b => ab a b
  | .iaddsI32 _ _ a b => ab a b
  | .iaddsN32 _ _ a b => ab a b
  | .isubsI32 _ _ a b => ab a b
  | .isubsN32 _ _ a b => ab a b
  | .imul _ _ a b => ab a b
  | .imulhI32 _ _ a b => ab a b
  | .imulhN32 _ _ a b => ab a b
  | .imad _ _ a b => ab a b
  | .iminI32 _ _ a b => ab a b
  | .iminN32 _ _ a b => ab a b
  | .imaxI32 _ _ a b => ab a b
  | .imaxN32 _ _ a b => ab a b
  | .iabs _ _ a => selOk a
  | .icmpI32 c _ _ a b => ab a b && c.toNat ≤ 5
  | .icmpN32 c _ _ a b => ab a b && c.toNat ≤ 5
  | .lea w d a b => ab a b && w == 0 && d != 127 && a != 127
  | .mov _ _ a r t => selOk a && (r == 1 || t == 0)
  | .movi _ _ _ => true
  | .sel _ _ a b => ab a b
  | .shfl _ _ a b => ab a b && (selIsVec a || selIsLatch a)
  | .vote _ _ b => b.toNat ≤ 4
  | .redl _ _ a b => (selIsVec a || selIsLatch a) && b.toNat ≤ 10
  | .srdl _ a b => (selIsVec a || selIsLatch a) && laneSelOk b
  | .fadd _ _ a b => ab a b
  | .fsub _ _ a b => ab a b
  | .fmul _ _ a b => ab a b
  | .ffma _ _ a b => ab a b
  | .fmin _ _ a b => ab a b
  | .fmax _ _ a b => ab a b
  | .fabs _ _ a => selOk a
  | .fneg _ _ a => selOk a
  | .fclamp _ _ a b => ab a b
  | .fcmp c _ _ a b => ab a b && (c.toNat ≤ 5 || c == 10 || c == 11)
  | .fexp2 _ _ a => selOk a
  | .flog2 _ _ a => selOk a
  | .frcp _ _ a => selOk a
  | .frsq _ _ a => selOk a
  | .fsqrt _ _ a => selOk a
  | .ftanh _ _ a => selOk a
  | .hadd2F16 _ _ a b => ab a b
  | .hadd2Bf16 _ _ a b => ab a b
  | .hmul2F16 _ _ a b => ab a b
  | .hmul2Bf16 _ _ a b => ab a b
  | .hfma2F16 _ _ a b => ab a b
  | .hfma2Bf16 _ _ a b => ab a b
  | .cvt w d a r s => cvtOk w d a r.toNat s.toNat
  | .qcvt w d a r s => qcvtOk w d a r.toNat s.toNat
  | .qunp w d a r s => qunpOk w d a r.toNat s.toNat
  | .ldB32 _ a m _ c o => ldOk a m c o
  | .ldF32 _ a m _ c o => ldOk a m c o
  | .ldI32 _ a m _ c o => ldOk a m c o
  | .ldN32 _ a m _ c o => ldOk a m c o
  | .ldF16 _ a m _ c o => ldOk a m c o
  | .ldBf16 _ a m _ c o => ldOk a m c o
  | .ldE4m3 _ a m _ c o => ldOk a m c o
  | .ldI64 d a m _ c o => ldOk a m c o && d != 127
  | .loadReturn .. => true
  | .stB32 _ a m _ c o => stOk a m c o
  | .stI64 d a m _ c o => stOk a m c o && d != 127
  | .fence _ c k => scopeOk c && k != 0
  | .wldN32 _ a m _ o => adrOk m a && o.toNat ≤ 1
  | .wldN64 d a m _ o => adrOk m a && o.toNat ≤ 1 && d != 127
  | .pref a m _ c => adrOk m a && scopeOk c
  | .atomAdd _ a m _ c _ => atomOk a m c
  | .atomSmin _ a m _ c _ => atomOk a m c
  | .atomSmax _ a m _ c _ => atomOk a m c
  | .atomUmin _ a m _ c _ => atomOk a m c
  | .atomUmax _ a m _ c _ => atomOk a m c
  | .atomAnd _ a m _ c _ => atomOk a m c
  | .atomOr _ a m _ c _ => atomOk a m c
  | .atomXor _ a m _ c _ => atomOk a m c
  | .atomExch _ a m _ c _ => atomOk a m c
  | .atomCas d a m _ c _ => atomOk a m c && d != 127
  | .redAdd _ a m _ c o => stOk a m c o
  | .redSmin _ a m _ c o => stOk a m c o
  | .redSmax _ a m _ c o => stOk a m c o
  | .redUmin _ a m _ c o => stOk a m c o
  | .redUmax _ a m _ c o => stOk a m c o
  | .redAnd _ a m _ c o => stOk a m c o
  | .redOr _ a m _ c o => stOk a m c o
  | .redXor _ a m _ c o => stOk a m c o
  | .mma _ f g _ _ => mmaPairOk f.toNat g.toNat
  | .mmas _ f g a b => mmasOk f g a b
  | .mmag _ g a b => mmagOk g a b
  | .mmaG _ f g _ _ => mmaPairOk f.toNat g.toNat
  | .mmasG _ f g a b => mmasOk f g a b
  | .mmagG _ g a b => mmagOk g a b
  | .tld _ f _ _ _ => f.toNat ≤ 6
  | .tst _ f _ _ _ => f.toNat ≤ 6
  | .tzero _ f => f == 0 || f == 5
  | .opfence => true
  | .mwait _ => true
  | .cpy _ c _ _ => scopeOk c
  | .cpym _ c _ _ => scopeOk c
  | .coll _ _ _ => true
  | .msfence k => k != 0
  | .mswait _ k => k != 0
  | .rway _ c k => c.toNat ≤ 2 && k.toNat ≤ 4
  | .vopen _ _ => true
  | .vsend _ _ _ => true
  | .jpost a p _ => a != 0 && p != 0
  | .vdrop _ _ => true
  | .gjoin g => g != 0
  | .gleave g => g != 0
  | .garrive g _ _ n _ _ => g == 1 || n == 0
  | .gridarr n _ _ => n.toNat ≤ 30
  | .racq d => d != 0
  | .rrel => true
  | .qpush d _ _ => d != 0
  | .qpop d _ v => d != 0 && v != 0
  | .tbegin _ => true
  | .tcommit => true
  | .tabort _ => true
  | .tretry => true
  | .telse _ => true
  | .tstat d => d != 0
  | .sread r _ => sysRegOk r
  | .swrite r _ => sysRegOk r
  | .cflush a m _ c => adrOk m a && scopeOk c
  | .pathrd s i _ => shadowFieldOk s.toNat i.toNat
  | .pathwr s i _ => shadowFieldOk s.toNat i.toNat
  | .eret => true
  | .ext k _ => k.toNat ≤ 6
  | .asyncTrapEntry .. => true
  | .siblingHalt .. => true
  | .asyncReport .. => true
  | .convoyRetire .. => true
  | .matrixStart .. => true
  | .matrixComplete .. => true
  | .tldComplete .. => true
  | .copyCommandStart .. => true
  | .copyCompletion .. => true
  | .wake .. => true
  | .timedWake .. => true
  | .scratchAccessArrival .. => true
  | .remoteStoreAck .. => true
  | .secondLevelTlbMiss .. => true
  | .remoteLoadBlocking .. => true
  | .rds .. => true
  | .rdx .. => true
  | .upg .. => true
  | .fwds .. => true
  | .fwdx .. => true
  | .inv .. => true
  | .binv .. => true
  | .data .. => true
  | .wb .. => true
  | .ack .. => true
  | .cmp .. => true
  | .leaseRenewal .. => true
  | .leaseHolderExpiry .. => true
  | .leaseHomeExpiry .. => true
  | .leaseRecall .. => true
  | .leaseRelease .. => true
  | .regionWriteback .. => true
  | .flitRoute .. => true
  | .packetArrival .. => true
  | .packetAck .. => true
  | .packetNack .. => true
  | .resendTimeout .. => true
  | .packetCommit .. => true
  | .tokenArrival .. => true
  | .recordReceive .. => true
  | .recordGapFetch .. => true
  | .tokenwaitExpiry .. => true
  | .tokenStop .. => true
  | .tokenRecovery .. => true
  | .masterTimeout .. => true
  | .lostLimitExpiry .. => true
  | .recordWrite .. => true
  | .recordAdd .. => true
  | .recordCas .. => true
  | .recordMax .. => true
  | .recordBitset .. => true
  | .recordLaunch .. => true
  | .recordPte .. => true
  | .recordRegion .. => true
  | .recordTrigger .. => true
  | .recordSnap .. => true
  | .ringLost .. => true
  | .ringJoin .. => true
  | .ringDone .. => true
  | .combineChunk .. => true
  | .sessionInputTimeout .. => true
  | .memberOverdue .. => true
  | .collectiveCompletion .. => true
  | .vatArrival .. => true
  | .vatRowComplete .. => true
  | .vatDeadline .. => true
  | .vatReleaseDone .. => true
  | .cardConditionPoll .. => true
  | .convoyPlacement .. => true
  | .quadModeChangeDone .. => true
  | .placementReservation .. => true
  | .preemptwaitExpiry .. => true
  | .evictionSave .. => true
  | .convoyRestore .. => true
  | .watchdogExpiry .. => true
  | .cardCompletion .. => true
  | .selfTestInjection .. => true
  | .matrixHang .. => true
  | .slabResetDone .. => true
  | .eccError .. => true
  | .pcSample .. => true
  | .checkpointGranuleWrite .. => true
  | .waysideImageLoad .. => true
  | .linkLoss .. => true
  | .packageReset .. => true
  | .packagePowerLoss .. => true
  | .junctionTemperature .. => true
  | .powerMeasurement .. => true
  | .dvfsPointSelect .. => true
  | .debugResume .. => true
  | .debugStep .. => true
  | .debugEdit .. => true
  | .rightsRevoke .. => true
  | .triggerWrite .. => true
  | .injectCorrected .. => true
  | .injectUncorrectable .. => true
  | .injectSelfTest .. => true
  | .doorbellWrite .. => true
  | .commandAccept .. => true
  | .launch .. => true
  | .inval .. => true
  | .replay .. => true
  | .evict .. => true
  | .ringpost .. => true
  | .fwload .. => true
  | .attest .. => true
  | .restore .. => true
  | .resetcore .. => true
  | .gapClear .. => true
  | .dqheadWrite .. => true
  | .dqreplayWrite .. => true
  | .fqrdWrite .. => true
  | .contextDescriptorWrite .. => true
  | .ringBlockBaseWrite .. => true
  | .regionStatusClear .. => true
  | .ringctlWrite .. => true
  | .boundTableWrite .. => true
  | .msiXMessage .. => true
  | .registerWrite .. => true
  | .illegalOp .. => false
  | .illegalField .. => false
  | .outOfStepRecovery .. => true
  | .contextTeardown .. => true
  | .dvfsPauseEnd .. => true
  | .hostLinkError .. => true

/-- The instruction is one that some program may run without raising ILLEGAL_FIELD or ILLEGAL_OP for its word (R402). -/
abbrev WellFormed (i : Instr) : Prop := fieldsOk i = true

end Sys2Proof
end

