-- ==== Sys2Proof/Machine/Float.lean ====
section
/-! DEFINITION. The number formats and their arithmetic (R76 to R91): values as exact dyadic numbers, one rounding per result, the
overflow table, FTZ, NaN and zero rules, and the q4n codebook. -/

namespace Sys2Proof.Machine

/-! ### Values and formats -/

/-- A float value: NaN, an infinity, or (-1)^neg x m x 2^e exactly; m = 0 is a zero of that sign (R76 to R78). -/
inductive FVal where
  | nan
  | inf (neg : Bool)
  | fin (neg : Bool) (m : Nat) (e : Int)
  deriving DecidableEq, Repr

/-- The floating-point formats (R76). -/
inductive FFmt where
  | f32 | f16 | bf16 | e5m2 | e4m3 | e2m1
  deriving DecidableEq, Repr

/-- Fraction bits (R76). -/
def FFmt.frac : FFmt → Nat
  | .f32 => 23 | .f16 => 10 | .bf16 => 7 | .e5m2 => 2 | .e4m3 => 3 | .e2m1 => 1

/-- Exponent bits (R76). -/
def FFmt.expo : FFmt → Nat
  | .f32 => 8 | .f16 => 5 | .bf16 => 8 | .e5m2 => 5 | .e4m3 => 4 | .e2m1 => 2

/-- Exponent bias (R76). -/
def FFmt.bias : FFmt → Nat
  | .f32 => 127 | .f16 => 15 | .bf16 => 127 | .e5m2 => 15 | .e4m3 => 7 | .e2m1 => 1

/-- The format has infinities (R77). -/
def FFmt.hasInf : FFmt → Bool
  | .e4m3 => false | .e2m1 => false | _ => true

/-- The width of a format in bits. -/
def FFmt.width (f : FFmt) : Nat := 1 + f.expo + f.frac

/-- The code of an infinity under the sign bit (R77): exponent all ones, fraction zero. -/
def FFmt.infCode (f : FFmt) : Nat := (2 ^ f.expo - 1) * 2 ^ f.frac

/-- The code of the largest finite value under the sign bit (R76). -/
def FFmt.maxCode (f : FFmt) : Nat :=
  match f with
  | .e4m3 => 0x7E
  | .e2m1 => 7
  | f => f.infCode - 1

/-- The canonical NaN (R77); fe2m1 has none, and a NaN becomes +0 there (R91). -/
def FFmt.nanCode : FFmt → Nat
  | .f32 => 0x7FC00000 | .f16 => 0x7E00 | .bf16 => 0x7FC0 | .e5m2 => 0x7E | .e4m3 => 0x7F | .e2m1 => 0

/-- The exponent of the least fraction bit of the subnormals (R76). -/
def FFmt.emin (f : FFmt) : Int := 1 - (f.bias : Int) - f.frac

/-- FTZ acts on the format (R88). -/
def FFmt.flushes : FFmt → Bool
  | .f32 => true | .f16 => true | .bf16 => true | _ => false

/-- The sign bit of a format. -/
def FFmt.signBit (f : FFmt) : Nat := 2 ^ (f.expo + f.frac)

/-- The value that an encoding has (R76, R77). -/
def decodeF (f : FFmt) (x : Nat) : FVal :=
  let neg := x / f.signBit % 2 == 1
  let mag := x % f.signBit
  let e := mag / 2 ^ f.frac
  let m := mag % 2 ^ f.frac
  if f.hasInf && f.infCode ≤ mag then (if mag == f.infCode then .inf neg else .nan)
  else if f == .e4m3 && mag == 0x7F then .nan
  else if e == 0 then .fin neg m f.emin
  else .fin neg (2 ^ f.frac + m) (f.emin + (e - 1 : Nat))

/-- The value of a binary32 word. -/
def f32Val (x : Word) : FVal := decodeF .f32 x.toNat

/-! ### Rounding -/

/-- `m x 2^e` as a number of units `2^q`, rounded in a mode (R86): 0 RNE, 1 RZ, 2 RD, 3 RU. -/
def roundUnits (mode : Nat) (neg : Bool) (m : Nat) (e q : Int) : Nat :=
  if q ≤ e then m * 2 ^ (e - q).toNat
  else
    let d := 2 ^ (q - e).toNat
    let n := m / d
    let r := m % d
    if r == 0 then n
    else if mode == 0 then (if d < 2 * r || (2 * r == d && n % 2 == 1) then n + 1 else n)
    else if (mode == 2 && neg) || (mode == 3 && !neg) then n + 1
    else n

/-- The code of an infinity, or of what stands for one, without .sat: fe4m3 has NaN, fe2m1 its largest value (R87). -/
def FFmt.over (f : FFmt) (neg : Bool) : Nat :=
  match f with
  | .e4m3 => f.nanCode
  | .e2m1 => f.maxCode + (if neg then f.signBit else 0)
  | f => f.infCode + (if neg then f.signBit else 0)

/-- A result that overflows (R87). -/
def overflowF (f : FFmt) (mode : Nat) (sat neg : Bool) : Nat :=
  let largest := f.maxCode + (if neg then f.signBit else 0)
  if sat || mode == 1 || (mode == 2 && !neg) || (mode == 3 && neg) then largest else f.over neg

/-- The code, under the sign bit, of a non-zero magnitude rounded with unbounded exponent. -/
def magCode (f : FFmt) (mode : Nat) (neg : Bool) (m : Nat) (e : Int) : Nat :=
  let q : Int := max (Nat.log2 m + e - f.frac) f.emin
  (q - f.emin).toNat * 2 ^ f.frac + roundUnits mode neg m e q

/-- rnd(x, f) as an encoding (R86, R87, R89): one rounding in the mode, the overflow table, .sat, the canonical NaN. -/
def encodeF (f : FFmt) (mode : Nat) (sat : Bool) : FVal → Nat
  | .nan => f.nanCode
  | .inf neg =>
    if f.hasInf && !sat then f.infCode + (if neg then f.signBit else 0) else overflowF f mode sat neg
  | .fin neg m e =>
    let sign := if neg then f.signBit else 0
    if m == 0 then sign
    else
      let c := magCode f mode neg m e
      if f.maxCode < c then overflowF f mode sat neg else c + sign

/-- The encoding is subnormal (R76). -/
def isSubnormal (f : FFmt) (x : Nat) : Bool :=
  let mag := x % f.signBit
  mag != 0 && mag < 2 ^ f.frac

/-- FTZ on an encoding: a subnormal becomes a zero of its sign (R88). -/
def flushF (f : FFmt) (ftz : Bool) (x : Nat) : Nat :=
  if ftz && f.flushes && isSubnormal f x then x - x % f.signBit else x

/-- The value of an operand as read: FTZ flushes a subnormal (R88). -/
def readF (f : FFmt) (ftz : Bool) (x : Nat) : FVal := decodeF f (flushF f ftz x)

/-- A result as written: rounded once, then flushed (R86, R88). -/
def writeF (f : FFmt) (mode : Nat) (sat ftz : Bool) (v : FVal) : Nat := flushF f ftz (encodeF f mode sat v)

/-! ### Exact operations -/

/-- The value is NaN. -/
def FVal.isNan : FVal → Bool
  | .nan => true
  | _ => false

/-- The value with its sign changed; NaN stays NaN. -/
def FVal.neg : FVal → FVal
  | .nan => .nan
  | .inf n => .inf (!n)
  | .fin n m e => .fin (!n) m e

/-- The value with its sign cleared. -/
def FVal.abs : FVal → FVal
  | .nan => .nan
  | .inf _ => .inf false
  | .fin _ m e => .fin false m e

/-- The sign of a value. -/
def FVal.sign : FVal → Bool
  | .nan => false
  | .inf n => n
  | .fin n _ _ => n

/-- The signed number of units `2^q` in a finite value, for `q` at or below its exponent. -/
def units (neg : Bool) (m : Nat) (e q : Int) : Int :=
  let u : Int := (m * 2 ^ (e - q).toNat : Nat)
  if neg then -u else u

/-- The finite value of a number of units, the zero having the sign given. -/
def ofUnits (u : Int) (q : Int) (zeroNeg : Bool) : FVal :=
  if u == 0 then .fin zeroNeg 0 q else .fin (decide (u < 0)) u.natAbs q

/-- The exact sum (R89, R90): inf - inf is NaN; an exact zero sum is +0, and -0 in RD; two zeros of one sign keep it. Two zeros of
opposite signs sum as an exact zero sum does (DEDUCED, log 18). -/
def FVal.add (mode : Nat) : FVal → FVal → FVal
  | .nan, _ => .nan
  | _, .nan => .nan
  | .inf a, .inf b => if a == b then .inf a else .nan
  | .inf a, _ => .inf a
  | _, .inf b => .inf b
  | .fin a m e, .fin b n g =>
    if m == 0 && n == 0 && a == b then .fin a 0 e
    else
      let q := min e g
      ofUnits (units a m e q + units b n g q) q (mode == 2)

/-- The exact product (R89, R90): 0 x inf is NaN; the signs combine. -/
def FVal.mul : FVal → FVal → FVal
  | .nan, _ => .nan
  | _, .nan => .nan
  | .inf a, .inf b => .inf (a != b)
  | .inf a, .fin b m _ => if m == 0 then .nan else .inf (a != b)
  | .fin a m _, .inf b => if m == 0 then .nan else .inf (a != b)
  | .fin a m e, .fin b n g => .fin (a != b) (m * n) (e + g)

/-- The value times a power of two. -/
def FVal.scale (k : Int) : FVal → FVal
  | .fin a m e => .fin a m (e + k)
  | v => v

/-- x < y for values that are not NaN; the two zeros are equal. -/
def FVal.lt : FVal → FVal → Bool
  | .nan, _ => false
  | _, .nan => false
  | .inf a, .inf b => a && !b
  | .inf a, _ => a
  | _, .inf b => !b
  | .fin a m e, .fin b n g =>
    let q := min e g
    decide (units a m e q < units b n g q)

/-- x = y for values that are not NaN. -/
def FVal.eq (x y : FVal) : Bool := !x.isNan && !y.isNan && !x.lt y && !y.lt x

/-- The smaller of two values (R472): NaN if either is NaN, and -0 below +0. -/
def FVal.min (x y : FVal) : FVal :=
  if x.isNan || y.isNan then .nan
  else if x.lt y then x else if y.lt x then y
  else if x.sign then x else y

/-- The larger of two values (R472). -/
def FVal.max (x y : FVal) : FVal :=
  if x.isNan || y.isNan then .nan
  else if x.lt y then y else if y.lt x then x
  else if x.sign then y else x

/-- An integer as an exact value; zero is +0. -/
def ofInt (i : Int) : FVal := .fin (decide (i < 0)) i.natAbs 0

/-- rne32 of an integer (R10, R395). -/
def rne32Int (i : Int) : Word := BitVec.ofNat 32 (encodeF .f32 0 false (ofInt i))

/-- A value rounded to an integer in a mode, and clamped to a range (R91): NaN gives 0, an infinity saturates. -/
def toIntSat (mode : Nat) (lo hi : Int) : FVal → Int
  | .nan => 0
  | .inf neg => if neg then lo else hi
  | .fin neg m e =>
    let u : Int := roundUnits mode neg m e 0
    let i := if neg then -u else u
    max lo (min hi i)

/-! ### The q4n codebook (R80) -/

/-- The levels of q4n in 256ths (R80). -/
def q4nLevels : List Int :=
  [-256, -178, -133, -99, -70, -45, -22, 0, 19, 39, 61, 86, 114, 148, 192, 256]

/-- The level of a q4n code, exactly (R80): code 7 is +0. -/
def q4nVal (code : Nat) : FVal := ofUnits (q4nLevels.getD code 0) (-8) false

/-- Twice the midpoints between neighbouring levels, in 256ths. -/
def q4nMids : List Int := (List.range 15).map fun i => q4nLevels.getD i 0 + q4nLevels.getD (i + 1) 0

/-- The nearest q4n code (R91): a tie goes to the even code, values beyond the ends to code 0 or 15, NaN to code 7. -/
def q4nCode (v : FVal) : Nat :=
  match v with
  | .nan => 7
  | v =>
    (List.range 15).foldl (fun code i =>
      let mid := ofUnits (q4nMids.getD i 0) (-9) false
      if mid.lt v || (mid.eq v && i % 2 == 1) then i + 1 else code) 0

/-! ### Element formats by tag code (R63) -/

/-- What an element holds: a float value or an integer. -/
inductive Elem where
  | real (v : FVal)
  | int (i : Int)
  deriving DecidableEq, Repr

/-- The float format of a tag code. -/
def codeFmt (code : Nat) : Option FFmt :=
  if code == 1 then some .f32 else if code == 2 then some .f16 else if code == 3 then some .bf16
  else if code == 0xA then some .e4m3 else if code == 0xB then some .e5m2 else if code == 0xC then some .e2m1 else none

/-- Bits of one element of a tag code (R63). -/
def codeBits (code : Nat) : Nat := if code == 0xF then 64 else 32 / elemsOf code

/-- The integer format of the code is signed (R79); the 64-bit code is read as i64 (R450). -/
def codeSigned (code : Nat) : Bool := code == 4 || code == 6 || code == 8 || code == 0xD || code == 0xF

/-- The least value of an integer format. -/
def codeMin (code : Nat) : Int := if codeSigned code then -(2 ^ (codeBits code - 1) : Nat) else 0

/-- The greatest value of an integer format. -/
def codeMax (code : Nat) : Int :=
  if codeSigned code then (2 ^ (codeBits code - 1) - 1 : Nat) else (2 ^ codeBits code - 1 : Nat)

/-- A number of `n` bits read as two's complement. -/
def signedNat (n x : Nat) : Int := if 2 * x < 2 ^ n then x else (x : Int) - (2 ^ n : Nat)

/-- An integer as `n` bits of two's complement. -/
def wrapNat (n : Nat) (i : Int) : Nat := (i % (2 ^ n : Nat)).toNat

/-- An element's content, by its code (R63, R76 to R80). -/
def readElem (code : Nat) (ftz : Bool) (x : Nat) : Elem :=
  match codeFmt code with
  | some f => .real (readF f ftz x)
  | none =>
    if code == 0xE then .real (q4nVal x)
    else .int (if codeSigned code then signedNat (codeBits code) x else x)

/-- An element converted to a code and encoded (R91, R452). -/
def writeElem (code : Nat) (mode : Nat) (sat ftz : Bool) (v : Elem) : Nat :=
  match codeFmt code with
  | some f => writeF f mode sat ftz (match v with | .real x => x | .int i => ofInt i)
  | none =>
    match v with
    | .real x => if code == 0xE then q4nCode x else wrapNat (codeBits code) (toIntSat mode (codeMin code) (codeMax code) x)
    | .int i => wrapNat (codeBits code) (if sat then max (codeMin code) (min (codeMax code) i) else i)

/-- The value of an element of a tagged block, before its scale (R81): the block's tag selects the format. -/
def taggedVal (tg8 : Bool) (tag x : Nat) : FVal :=
  if tg8 then
    if tag == 0 then decodeF .e4m3 x
    else if tag == 1 then decodeF .e5m2 x
    else if tag == 2 then (ofInt (signedNat 8 x)).scale (-6)
    else .fin false 0 0
  else
    if tag == 0 then decodeF .e2m1 x
    else if tag == 1 then (ofInt (signedNat 4 x)).scale (-2)
    else if tag == 2 then q4nVal x
    else .fin false 0 0

/-- The value of an element of a tagged block with its E8 scale (R81, R82): a zero block is +0, a NaN block NaN. -/
def scaledVal (tg8 : Bool) (tag e x : Nat) : FVal :=
  if tag == 3 then .fin false 0 0
  else if e == 0xFF then .nan
  else (taggedVal tg8 tag x).scale ((e : Int) - 127)

/-- Element `j` of a lane, in a format of `k` elements. -/
def elemOf (code : Nat) (w : Word) (j : Nat) : Nat := w.toNat / 2 ^ (codeBits code * j) % 2 ^ codeBits code

/-- A lane from its elements. -/
def laneOfElems (code : Nat) (f : Nat → Nat) : Word :=
  BitVec.ofNat 32 ((List.range (elemsOf code)).foldl (fun a j => a + f j % 2 ^ codeBits code * 2 ^ (codeBits code * j)) 0)

end Sys2Proof.Machine
end

