-- ==== Sys2Proof/Decode.lean ====
section
/-! DEFINITION. The decoder and the encoder, from the formats of R392 and the opcode map of R401. The decoder is total: a word
with an opcode the map does not assign reads as ILLEGAL_OP, and a word with a legal opcode that no row of the table
matches reads as ILLEGAL_FIELD (R402). Field values that the instruction's entry forbids are refused by `WellFormed`, when
the instruction runs. -/

namespace Sys2Proof

/-- The `len` bits of `x` that begin at bit `lo`, as a number (R1). -/
def bits (x lo len : Nat) : Nat := x / 2 ^ lo % 2 ^ len

/-- The field of `len` bits at bit `lo` of the word `x` (R1). -/
def field (x lo len : Nat) : BitVec len := BitVec.ofNat len (x / 2 ^ lo)

/-- A field placed at bit `lo` of a word. -/
def at_ {n : Nat} (v : BitVec n) (lo : Nat) : Nat := v.toNat * 2 ^ lo

/-- The fields of a word in format A with two sources. -/
def readA (x : Nat) (mk : BitVec 1 → BitVec 7 → BitVec 8 → BitVec 8 → Instr) : Instr :=
  mk (field x 23 1) (field x 16 7) (field x 8 8) (field x 0 8)

/-- A word in format A with two sources, its opcode and fixed bits `base`. -/
def wordA (base : Nat) (w : BitVec 1) (d : BitVec 7) (a : BitVec 8) (b : BitVec 8) : Nat :=
  base + at_ w 23 + at_ d 16 + at_ a 8 + at_ b 0

/-- The fields of a word in format A with one source. -/
def readA1 (x : Nat) (mk : BitVec 1 → BitVec 7 → BitVec 8 → Instr) : Instr :=
  mk (field x 23 1) (field x 16 7) (field x 8 8)

/-- A word in format A with one source, its opcode and fixed bits `base`. -/
def wordA1 (base : Nat) (w : BitVec 1) (d : BitVec 7) (a : BitVec 8) : Nat :=
  base + at_ w 23 + at_ d 16 + at_ a 8

/-- The fields of a word in format S. -/
def readS (x : Nat) (mk : BitVec 6 → BitVec 8 → BitVec 8 → Instr) : Instr :=
  mk (field x 16 6) (field x 8 8) (field x 0 8)

/-- A word in format S, its opcode and fixed bits `base`. -/
def wordS (base : Nat) (d : BitVec 6) (a : BitVec 8) (b : BitVec 8) : Nat :=
  base + at_ d 16 + at_ a 8 + at_ b 0

/-- The fields of a word in format P. -/
def readP (x : Nat) (mk : BitVec 4 → BitVec 3 → BitVec 1 → BitVec 8 → BitVec 8 → Instr) : Instr :=
  mk (field x 20 4) (field x 17 3) (field x 16 1) (field x 8 8) (field x 0 8)

/-- A word in format P, its opcode and fixed bits `base`. -/
def wordP (base : Nat) (c : BitVec 4) (p : BitVec 3) (m : BitVec 1) (a : BitVec 8) (b : BitVec 8) : Nat :=
  base + at_ c 20 + at_ p 17 + at_ m 16 + at_ a 8 + at_ b 0

/-- The fields of a word in format M, scalar memory. -/
def readSM (x : Nat) (mk : BitVec 6 → BitVec 6 → BitVec 4 → BitVec 3 → BitVec 2 → Instr) : Instr :=
  mk (field x 17 6) (field x 10 6) (field x 5 4) (field x 2 3) (field x 0 2)

/-- A word in format M, scalar memory, its opcode and fixed bits `base`. -/
def wordSM (base : Nat) (d : BitVec 6) (a : BitVec 6) (s : BitVec 4) (c : BitVec 3) (o : BitVec 2) : Nat :=
  base + at_ d 17 + at_ a 10 + at_ s 5 + at_ c 2 + at_ o 0

/-- The fields of a word in format M. -/
def readM (x : Nat) (mk : BitVec 7 → BitVec 7 → BitVec 1 → BitVec 4 → BitVec 3 → BitVec 2 → Instr) : Instr :=
  mk (field x 17 7) (field x 10 7) (field x 9 1) (field x 5 4) (field x 2 3) (field x 0 2)

/-- A word in format M, its opcode and fixed bits `base`. -/
def wordM (base : Nat) (d : BitVec 7) (a : BitVec 7) (m : BitVec 1) (s : BitVec 4) (c : BitVec 3) (o : BitVec 2) : Nat :=
  base + at_ d 17 + at_ a 10 + at_ m 9 + at_ s 5 + at_ c 2 + at_ o 0

/-- The fields of a word in format T. -/
def readT (x : Nat) (mk : BitVec 4 → BitVec 4 → BitVec 4 → BitVec 6 → BitVec 6 → Instr) : Instr :=
  mk (field x 20 4) (field x 16 4) (field x 12 4) (field x 6 6) (field x 0 6)

/-- A word in format T, its opcode and fixed bits `base`. -/
def wordT (base : Nat) (t : BitVec 4) (f : BitVec 4) (g : BitVec 4) (a : BitVec 6) (b : BitVec 6) : Nat :=
  base + at_ t 20 + at_ f 16 + at_ g 12 + at_ a 6 + at_ b 0

/-- Opcodes 0x00 to 0x0F (R401). -/
def decode0 (w : Word) (x : Nat) : Instr :=
  match bits x 24 4 with
  | 0x0 => if bits x 0 24 == 0 then .nop else .illegalField w
  | 0x1 => if bits x 18 6 == 0 then .br (field x 0 18) else .illegalField w
  | 0x2 => .brc (field x 21 3) (field x 18 3) (field x 0 18)
  | 0x3 =>
    if bits x 18 3 == 0 then .brd (field x 21 3) (field x 0 18)
    else if bits x 18 3 == 3 then .brdNot (field x 21 3) (field x 0 18)
    else .illegalField w
  | 0x4 => if bits x 22 2 == 0 && bits x 0 16 == 0 then .brx (field x 16 6) else .illegalField w
  | 0x5 => if bits x 18 6 == 0 then .call (field x 0 18) else .illegalField w
  | 0x6 => if bits x 18 6 == 0 then .rejoin (field x 0 18) else .illegalField w
  | 0x7 => if bits x 0 24 == 0 then .regang else .illegalField w
  | 0x8 => if bits x 22 2 == 0 && bits x 0 16 == 0 then .callIndirect (field x 16 6) else .illegalField w
  | 0x9 => if bits x 0 24 == 0 then .ret else .illegalField w
  | 0xA => if bits x 0 24 == 0 then .exit else .illegalField w
  | 0xB => .trap (field x 0 24)
  | 0xC => if bits x 0 24 == 0 then .bkpt else .illegalField w
  | 0xD => if bits x 0 24 == 0 then .yield else .illegalField w
  | _ => .illegalOp w

/-- Opcodes 0x10 to 0x1F (R401). -/
def decode1 (w : Word) (x : Nat) : Instr :=
  match bits x 24 4 with
  | 0xC => if bits x 20 4 == 0 then .tramp (field x 0 20) else .illegalField w
  | 0xD => .tool0 (field x 0 24)
  | 0xE => .tool1 (field x 0 24)
  | 0xF => .tool2 (field x 0 24)
  | _ => .illegalOp w

/-- Opcodes 0x20 to 0x2F (R401). -/
def decode2 (w : Word) (x : Nat) : Instr :=
  match bits x 24 4 with
  | 0x0 => if bits x 22 2 == 0 then readS x .sadd else .illegalField w
  | 0x1 => if bits x 22 2 == 0 then readS x .ssub else .illegalField w
  | 0x2 => if bits x 22 2 == 0 then readS x .smul else .illegalField w
  | 0x3 => if bits x 22 2 == 0 then readS x .sand else .illegalField w
  | 0x4 => if bits x 22 2 == 0 then readS x .sor else .illegalField w
  | 0x5 => if bits x 22 2 == 0 then readS x .sxor else .illegalField w
  | 0x6 => if bits x 22 2 == 0 then readS x .sshl else .illegalField w
  | 0x7 => if bits x 22 2 == 0 then readS x .sshr else .illegalField w
  | 0x8 => if bits x 22 2 == 0 then readS x .ssar else .illegalField w
  | 0x9 => if bits x 22 2 == 0 && bits x 0 8 == 192 then .smov (field x 16 6) (field x 8 8) else .illegalField w
  | 0xA => if bits x 22 2 == 0 then .smovi (field x 16 6) (field x 0 16) else .illegalField w
  | 0xB => readP x .scmp
  | _ => .illegalOp w

/-- Opcodes 0x30 to 0x3F (R401). -/
def decode3 (w : Word) (x : Nat) : Instr :=
  match bits x 24 4 with
  | 0x0 => if bits x 23 1 == 0 && bits x 16 1 == 0 && bits x 9 1 == 1 then readSM x .sldN8 else .illegalField w
  | 0x1 => if bits x 23 1 == 0 && bits x 16 1 == 0 && bits x 9 1 == 1 then readSM x .sldI8 else .illegalField w
  | 0x2 => if bits x 23 1 == 0 && bits x 16 1 == 0 && bits x 9 1 == 1 then readSM x .sldN16 else .illegalField w
  | 0x3 => if bits x 23 1 == 0 && bits x 16 1 == 0 && bits x 9 1 == 1 then readSM x .sldI16 else .illegalField w
  | 0x4 => if bits x 23 1 == 0 && bits x 16 1 == 0 && bits x 9 1 == 1 then readSM x .sldN32 else .illegalField w
  | 0x5 => if bits x 23 1 == 0 && bits x 16 1 == 0 && bits x 9 1 == 1 then readSM x .sldI32 else .illegalField w
  | 0x6 => if bits x 23 1 == 0 && bits x 16 1 == 0 && bits x 9 1 == 1 then readSM x .sldN64 else .illegalField w
  | 0x7 => if bits x 23 1 == 0 && bits x 16 1 == 0 && bits x 9 1 == 1 then readSM x .sstN8 else .illegalField w
  | 0x8 => if bits x 23 1 == 0 && bits x 16 1 == 0 && bits x 9 1 == 1 then readSM x .sstN16 else .illegalField w
  | 0x9 => if bits x 23 1 == 0 && bits x 16 1 == 0 && bits x 9 1 == 1 then readSM x .sstN32 else .illegalField w
  | 0xA => if bits x 23 1 == 0 && bits x 16 1 == 0 && bits x 9 1 == 1 then readSM x .sstN64 else .illegalField w
  | _ => .illegalOp w

/-- Opcodes 0x40 to 0x4F (R401). -/
def decode4 (w : Word) (x : Nat) : Instr :=
  match bits x 24 4 with
  | 0x0 => readA x .and
  | 0x1 => readA x .or
  | 0x2 => readA x .xor
  | 0x3 => if bits x 0 8 == 192 then readA1 x .not else .illegalField w
  | 0x4 => readA x .shl
  | 0x5 => readA x .shr
  | 0x6 => readA x .sar
  | 0x7 => readA x .bfeN32
  | 0x8 => readA x .bfeI32
  | 0x9 => readA x .bfi
  | 0xA => if bits x 0 8 == 192 then readA1 x .clz else .illegalField w
  | 0xB => if bits x 0 8 == 192 then readA1 x .popc else .illegalField w
  | 0xC => readA x .iadd
  | 0xD => readA x .isub
  | 0xE => readA x .iaddsI32
  | 0xF => readA x .iaddsN32
  | _ => .illegalOp w

/-- Opcodes 0x50 to 0x5F (R401). -/
def decode5 (w : Word) (x : Nat) : Instr :=
  match bits x 24 4 with
  | 0x0 => readA x .isubsI32
  | 0x1 => readA x .isubsN32
  | 0x2 => readA x .imul
  | 0x3 => readA x .imulhI32
  | 0x4 => readA x .imulhN32
  | 0x5 => readA x .imad
  | 0x6 => readA x .iminI32
  | 0x7 => readA x .iminN32
  | 0x8 => readA x .imaxI32
  | 0x9 => readA x .imaxN32
  | 0xA => if bits x 0 8 == 192 then readA1 x .iabs else .illegalField w
  | 0xB => readP x .icmpI32
  | 0xC => readP x .icmpN32
  | 0xD => readA x .lea
  | _ => .illegalOp w

/-- Opcodes 0x60 to 0x6F (R401). -/
def decode6 (w : Word) (x : Nat) : Instr :=
  match bits x 24 4 with
  | 0x0 =>
    if bits x 5 3 == 0 then .mov (field x 23 1) (field x 16 7) (field x 8 8) (field x 4 1) (field x 0 4)
    else .illegalField w
  | 0x1 => .movi (field x 23 1) (field x 16 7) (field x 0 16)
  | 0x2 => readA x .sel
  | 0x3 => readA x .shfl
  | 0x4 =>
    if bits x 22 2 == 0 && bits x 11 5 == 0 then .vote (field x 16 6) (field x 8 3) (field x 0 8)
    else .illegalField w
  | 0x5 => if bits x 22 1 == 0 then .redl (field x 23 1) (field x 16 6) (field x 8 8) (field x 0 8) else .illegalField w
  | 0x6 => if bits x 22 2 == 0 then readS x .srdl else .illegalField w
  | 0x8 => readA x .fadd
  | 0x9 => readA x .fsub
  | 0xA => readA x .fmul
  | 0xB => readA x .ffma
  | 0xC => readA x .fmin
  | 0xD => readA x .fmax
  | 0xE => if bits x 0 8 == 192 then readA1 x .fabs else .illegalField w
  | 0xF => if bits x 0 8 == 192 then readA1 x .fneg else .illegalField w
  | _ => .illegalOp w

/-- Opcodes 0x70 to 0x7F (R401). -/
def decode7 (w : Word) (x : Nat) : Instr :=
  match bits x 24 4 with
  | 0x0 => readA x .fclamp
  | 0x1 => readP x .fcmp
  | 0x2 => if bits x 0 8 == 192 then readA1 x .fexp2 else .illegalField w
  | 0x3 => if bits x 0 8 == 192 then readA1 x .flog2 else .illegalField w
  | 0x4 => if bits x 0 8 == 192 then readA1 x .frcp else .illegalField w
  | 0x5 => if bits x 0 8 == 192 then readA1 x .frsq else .illegalField w
  | 0x6 => if bits x 0 8 == 192 then readA1 x .fsqrt else .illegalField w
  | 0x7 => if bits x 0 8 == 192 then readA1 x .ftanh else .illegalField w
  | 0x8 => readA x .hadd2F16
  | 0x9 => readA x .hadd2Bf16
  | 0xA => readA x .hmul2F16
  | 0xB => readA x .hmul2Bf16
  | 0xC => readA x .hfma2F16
  | 0xD => readA x .hfma2Bf16
  | _ => .illegalOp w

/-- Opcodes 0x90 to 0x9F (R401). -/
def decode9 (w : Word) (x : Nat) : Instr :=
  match bits x 24 4 with
  | 0x0 => .cvt (field x 23 1) (field x 16 7) (field x 8 8) (field x 4 4) (field x 0 4)
  | 0x1 => .qcvt (field x 23 1) (field x 16 7) (field x 8 8) (field x 4 4) (field x 0 4)
  | 0x2 => .qunp (field x 23 1) (field x 16 7) (field x 8 8) (field x 4 4) (field x 0 4)
  | _ => .illegalOp w

/-- Opcodes 0xA0 to 0xAF (R401). -/
def decodeA (w : Word) (x : Nat) : Instr :=
  match bits x 24 4 with
  | 0x0 => readM x .ldB32
  | 0x1 => readM x .ldF32
  | 0x2 => readM x .ldI32
  | 0x3 => readM x .ldN32
  | 0x4 => readM x .ldF16
  | 0x5 => readM x .ldBf16
  | 0x6 => readM x .ldE4m3
  | 0x7 => readM x .ldI64
  | 0x8 => readM x .stB32
  | 0x9 => readM x .stI64
  | 0xA => if bits x 20 4 == 0 then .fence (field x 19 1) (field x 16 3) (field x 0 16) else .illegalField w
  | 0xB =>
    if bits x 2 3 == 4 then .wldN32 (field x 17 7) (field x 10 7) (field x 9 1) (field x 5 4) (field x 0 2)
    else .illegalField w
  | 0xC =>
    if bits x 2 3 == 4 then .wldN64 (field x 17 7) (field x 10 7) (field x 9 1) (field x 5 4) (field x 0 2)
    else .illegalField w
  | 0xD =>
    if bits x 17 7 == 0 && bits x 0 2 == 0 then .pref (field x 10 7) (field x 9 1) (field x 5 4) (field x 2 3)
    else .illegalField w
  | 0xE => readM x .atomAdd
  | 0xF => readM x .atomSmin
  | _ => .illegalOp w

/-- Opcodes 0xB0 to 0xBF (R401). -/
def decodeB (w : Word) (x : Nat) : Instr :=
  match bits x 24 4 with
  | 0x0 => readM x .atomSmax
  | 0x1 => readM x .atomUmin
  | 0x2 => readM x .atomUmax
  | 0x3 => readM x .atomAnd
  | 0x4 => readM x .atomOr
  | 0x5 => readM x .atomXor
  | 0x6 => readM x .atomExch
  | 0x7 => readM x .atomCas
  | 0x8 => readM x .redAdd
  | 0x9 => readM x .redSmin
  | 0xA => readM x .redSmax
  | 0xB => readM x .redUmin
  | 0xC => readM x .redUmax
  | 0xD => readM x .redAnd
  | 0xE => readM x .redOr
  | 0xF => readM x .redXor
  | _ => .illegalOp w

/-- Opcodes 0xC0 to 0xCF (R401). -/
def decodeC (w : Word) (x : Nat) : Instr :=
  match bits x 24 4 with
  | 0x0 => readT x .mma
  | 0x1 => readT x .mmas
  | 0x2 => if bits x 16 4 == 7 then .mmag (field x 20 4) (field x 12 4) (field x 6 6) (field x 0 6) else .illegalField w
  | 0x4 => readT x .mmaG
  | 0x5 => readT x .mmasG
  | 0x6 =>
    if bits x 16 4 == 7 then .mmagG (field x 20 4) (field x 12 4) (field x 6 6) (field x 0 6)
    else .illegalField w
  | 0x8 => readT x .tld
  | 0x9 => readT x .tst
  | 0xA => if bits x 0 16 == 0 then .tzero (field x 20 4) (field x 16 4) else .illegalField w
  | 0xC => if bits x 0 24 == 0 then .opfence else .illegalField w
  | 0xD => if bits x 20 4 == 0 && bits x 0 16 == 0 then .mwait (field x 16 4) else .illegalField w
  | _ => .illegalOp w

/-- Opcodes 0xD0 to 0xDF (R401). -/
def decodeD (w : Word) (x : Nat) : Instr :=
  match bits x 24 4 with
  | 0x0 =>
    if bits x 22 2 == 0 && bits x 15 1 == 0 && bits x 6 2 == 0 then .cpy (field x 16 6) (field x 12 3) (field x 8 4) (field x 0 6)
    else .illegalField w
  | 0x1 =>
    if bits x 22 2 == 0 && bits x 15 1 == 0 && bits x 6 2 == 0 then .cpym (field x 16 6) (field x 12 3) (field x 8 4) (field x 0 6)
    else .illegalField w
  | 0x2 =>
    if bits x 22 2 == 0 && bits x 0 8 == 0 then .coll (field x 16 6) (field x 12 4) (field x 8 4)
    else .illegalField w
  | 0x3 => if bits x 16 8 == 0 then .msfence (field x 0 16) else .illegalField w
  | 0x4 => if bits x 22 2 == 0 then .mswait (field x 16 6) (field x 0 16) else .illegalField w
  | 0x5 =>
    if bits x 22 2 == 0 && bits x 12 2 == 0 && bits x 0 8 == 0 then .rway (field x 16 6) (field x 14 2) (field x 8 4)
    else .illegalField w
  | 0x6 => if bits x 22 2 == 0 && bits x 6 10 == 0 then .vopen (field x 16 6) (field x 0 6) else .illegalField w
  | 0x7 =>
    if bits x 22 2 == 0 && bits x 14 2 == 0 && bits x 6 2 == 0 then .vsend (field x 16 6) (field x 8 6) (field x 0 6)
    else .illegalField w
  | 0x8 =>
    if bits x 22 2 == 0 && bits x 11 5 == 0 && bits x 6 2 == 0 then .jpost (field x 16 6) (field x 8 3) (field x 0 6)
    else .illegalField w
  | 0x9 => if bits x 22 2 == 0 && bits x 6 10 == 0 then .vdrop (field x 16 6) (field x 0 6) else .illegalField w
  | _ => .illegalOp w

/-- Opcodes 0xE0 to 0xEF (R401). -/
def decodeE (w : Word) (x : Nat) : Instr :=
  match bits x 24 4 with
  | 0x0 => if bits x 20 4 == 0 && bits x 0 16 == 0 then .gjoin (field x 16 4) else .illegalField w
  | 0x1 => if bits x 20 4 == 0 && bits x 0 16 == 0 then .gleave (field x 16 4) else .illegalField w
  | 0x2 =>
    if bits x 6 2 == 0 then .garrive (field x 23 1) (field x 22 1) (field x 16 6) (field x 12 4) (field x 8 4) (field x 0 6)
    else .illegalField w
  | 0x3 =>
    if bits x 21 3 == 0 && bits x 14 2 == 0 && bits x 6 2 == 0 then .gridarr (field x 16 5) (field x 8 6) (field x 0 6)
    else .illegalField w
  | 0x4 => if bits x 19 5 == 0 && bits x 0 16 == 0 then .racq (field x 16 3) else .illegalField w
  | 0x5 => if bits x 0 24 == 0 then .rrel else .illegalField w
  | 0x6 =>
    if bits x 19 5 == 0 && bits x 14 2 == 0 && bits x 6 2 == 0 then .qpush (field x 16 3) (field x 8 6) (field x 0 6)
    else .illegalField w
  | 0x7 =>
    if bits x 19 5 == 0 && bits x 14 2 == 0 && bits x 6 2 == 0 then .qpop (field x 16 3) (field x 8 6) (field x 0 6)
    else .illegalField w
  | 0x8 => if bits x 16 8 == 0 then .tbegin (field x 0 16) else .illegalField w
  | 0x9 => if bits x 0 24 == 0 then .tcommit else .illegalField w
  | 0xA => if bits x 0 16 == 0 then .tabort (field x 16 8) else .illegalField w
  | 0xB => if bits x 0 24 == 0 then .tretry else .illegalField w
  | 0xC => if bits x 16 8 == 0 then .telse (field x 0 16) else .illegalField w
  | 0xD => if bits x 22 2 == 0 && bits x 0 16 == 0 then .tstat (field x 16 6) else .illegalField w
  | _ => .illegalOp w

/-- Opcodes 0xF0 to 0xFF (R401). -/
def decodeF (w : Word) (x : Nat) : Instr :=
  match bits x 24 4 with
  | 0x0 => if bits x 6 10 == 0 then .sread (field x 16 8) (field x 0 6) else .illegalField w
  | 0x1 => if bits x 6 10 == 0 then .swrite (field x 16 8) (field x 0 6) else .illegalField w
  | 0x2 =>
    if bits x 17 7 == 0 && bits x 0 2 == 0 then .cflush (field x 10 7) (field x 9 1) (field x 5 4) (field x 2 3)
    else .illegalField w
  | 0x4 => if bits x 6 2 == 0 then .pathrd (field x 16 8) (field x 8 8) (field x 0 6) else .illegalField w
  | 0x5 => if bits x 6 2 == 0 then .pathwr (field x 16 8) (field x 8 8) (field x 0 6) else .illegalField w
  | 0x6 => if bits x 0 24 == 0 then .eret else .illegalField w
  | 0xE => .ext (field x 20 4) (field x 0 20)
  | _ => .illegalOp w

/-- The instruction that a word holds (R390, R401, R402). -/
def decode (w : Word) : Instr :=
  match bits w.toNat 28 4 with
  | 0x0 => decode0 w w.toNat
  | 0x1 => decode1 w w.toNat
  | 0x2 => decode2 w w.toNat
  | 0x3 => decode3 w w.toNat
  | 0x4 => decode4 w w.toNat
  | 0x5 => decode5 w w.toNat
  | 0x6 => decode6 w w.toNat
  | 0x7 => decode7 w w.toNat
  | 0x9 => decode9 w w.toNat
  | 0xA => decodeA w w.toNat
  | 0xB => decodeB w w.toNat
  | 0xC => decodeC w w.toNat
  | 0xD => decodeD w w.toNat
  | 0xE => decodeE w w.toNat
  | 0xF => decodeF w w.toNat
  | _ => .illegalOp w

/-- The word of four bytes at ascending addresses: an instruction is one little-endian word (R390). -/
def wordOfBytes (b0 b1 b2 b3 : Byte) : Word := b3 ++ b2 ++ b1 ++ b0

/-- The word of an encoded instruction as a number, by the tables of R392 and R401; an event has none. -/
def encodeNat : Instr → Option Nat
  | .nop => some (0x00000000)
  | .br o => some (0x01000000 + at_ o 0)
  | .brc p m o => some (0x02000000 + at_ p 21 + at_ m 18 + at_ o 0)
  | .brd p o => some (0x03000000 + at_ p 21 + at_ o 0)
  | .brdNot p o => some (0x030C0000 + at_ p 21 + at_ o 0)
  | .brx a => some (0x04000000 + at_ a 16)
  | .call o => some (0x05000000 + at_ o 0)
  | .callIndirect a => some (0x08000000 + at_ a 16)
  | .rejoin o => some (0x06000000 + at_ o 0)
  | .regang => some (0x07000000)
  | .ret => some (0x09000000)
  | .exit => some (0x0A000000)
  | .trap n => some (0x0B000000 + at_ n 0)
  | .bkpt => some (0x0C000000)
  | .yield => some (0x0D000000)
  | .tramp n => some (0x1C000000 + at_ n 0)
  | .tool0 n => some (0x1D000000 + at_ n 0)
  | .tool1 n => some (0x1E000000 + at_ n 0)
  | .tool2 n => some (0x1F000000 + at_ n 0)
  | .sadd d a b => some (wordS 0x20000000 d a b)
  | .ssub d a b => some (wordS 0x21000000 d a b)
  | .smul d a b => some (wordS 0x22000000 d a b)
  | .sand d a b => some (wordS 0x23000000 d a b)
  | .sor d a b => some (wordS 0x24000000 d a b)
  | .sxor d a b => some (wordS 0x25000000 d a b)
  | .sshl d a b => some (wordS 0x26000000 d a b)
  | .sshr d a b => some (wordS 0x27000000 d a b)
  | .ssar d a b => some (wordS 0x28000000 d a b)
  | .smov d a => some (0x290000C0 + at_ d 16 + at_ a 8)
  | .smovi d i => some (0x2A000000 + at_ d 16 + at_ i 0)
  | .scmp c p m a b => some (wordP 0x2B000000 c p m a b)
  | .sldN8 d a s c o => some (wordSM 0x30000200 d a s c o)
  | .sldI8 d a s c o => some (wordSM 0x31000200 d a s c o)
  | .sldN16 d a s c o => some (wordSM 0x32000200 d a s c o)
  | .sldI16 d a s c o => some (wordSM 0x33000200 d a s c o)
  | .sldN32 d a s c o => some (wordSM 0x34000200 d a s c o)
  | .sldI32 d a s c o => some (wordSM 0x35000200 d a s c o)
  | .sldN64 d a s c o => some (wordSM 0x36000200 d a s c o)
  | .sstN8 d a s c o => some (wordSM 0x37000200 d a s c o)
  | .sstN16 d a s c o => some (wordSM 0x38000200 d a s c o)
  | .sstN32 d a s c o => some (wordSM 0x39000200 d a s c o)
  | .sstN64 d a s c o => some (wordSM 0x3A000200 d a s c o)
  | .and w d a b => some (wordA 0x40000000 w d a b)
  | .or w d a b => some (wordA 0x41000000 w d a b)
  | .xor w d a b => some (wordA 0x42000000 w d a b)
  | .not w d a => some (wordA1 0x430000C0 w d a)
  | .shl w d a b => some (wordA 0x44000000 w d a b)
  | .shr w d a b => some (wordA 0x45000000 w d a b)
  | .sar w d a b => some (wordA 0x46000000 w d a b)
  | .bfeN32 w d a b => some (wordA 0x47000000 w d a b)
  | .bfeI32 w d a b => some (wordA 0x48000000 w d a b)
  | .bfi w d a b => some (wordA 0x49000000 w d a b)
  | .clz w d a => some (wordA1 0x4A0000C0 w d a)
  | .popc w d a => some (wordA1 0x4B0000C0 w d a)
  | .iadd w d a b => some (wordA 0x4C000000 w d a b)
  | .isub w d a b => some (wordA 0x4D000000 w d a b)
  | .iaddsI32 w d a b => some (wordA 0x4E000000 w d a b)
  | .iaddsN32 w d a b => some (wordA 0x4F000000 w d a b)
  | .isubsI32 w d a b => some (wordA 0x50000000 w d a b)
  | .isubsN32 w d a b => some (wordA 0x51000000 w d a b)
  | .imul w d a b => some (wordA 0x52000000 w d a b)
  | .imulhI32 w d a b => some (wordA 0x53000000 w d a b)
  | .imulhN32 w d a b => some (wordA 0x54000000 w d a b)
  | .imad w d a b => some (wordA 0x55000000 w d a b)
  | .iminI32 w d a b => some (wordA 0x56000000 w d a b)
  | .iminN32 w d a b => some (wordA 0x57000000 w d a b)
  | .imaxI32 w d a b => some (wordA 0x58000000 w d a b)
  | .imaxN32 w d a b => some (wordA 0x59000000 w d a b)
  | .iabs w d a => some (wordA1 0x5A0000C0 w d a)
  | .icmpI32 c p m a b => some (wordP 0x5B000000 c p m a b)
  | .icmpN32 c p m a b => some (wordP 0x5C000000 c p m a b)
  | .lea w d a b => some (wordA 0x5D000000 w d a b)
  | .mov w d a r t => some (0x60000000 + at_ w 23 + at_ d 16 + at_ a 8 + at_ r 4 + at_ t 0)
  | .movi w d i => some (0x61000000 + at_ w 23 + at_ d 16 + at_ i 0)
  | .sel w d a b => some (wordA 0x62000000 w d a b)
  | .shfl w d a b => some (wordA 0x63000000 w d a b)
  | .vote d p b => some (0x64000000 + at_ d 16 + at_ p 8 + at_ b 0)
  | .redl w d a b => some (0x65000000 + at_ w 23 + at_ d 16 + at_ a 8 + at_ b 0)
  | .srdl d a b => some (wordS 0x66000000 d a b)
  | .fadd w d a b => some (wordA 0x68000000 w d a b)
  | .fsub w d a b => some (wordA 0x69000000 w d a b)
  | .fmul w d a b => some (wordA 0x6A000000 w d a b)
  | .ffma w d a b => some (wordA 0x6B000000 w d a b)
  | .fmin w d a b => some (wordA 0x6C000000 w d a b)
  | .fmax w d a b => some (wordA 0x6D000000 w d a b)
  | .fabs w d a => some (wordA1 0x6E0000C0 w d a)
  | .fneg w d a => some (wordA1 0x6F0000C0 w d a)
  | .fclamp w d a b => some (wordA 0x70000000 w d a b)
  | .fcmp c p m a b => some (wordP 0x71000000 c p m a b)
  | .fexp2 w d a => some (wordA1 0x720000C0 w d a)
  | .flog2 w d a => some (wordA1 0x730000C0 w d a)
  | .frcp w d a => some (wordA1 0x740000C0 w d a)
  | .frsq w d a => some (wordA1 0x750000C0 w d a)
  | .fsqrt w d a => some (wordA1 0x760000C0 w d a)
  | .ftanh w d a => some (wordA1 0x770000C0 w d a)
  | .hadd2F16 w d a b => some (wordA 0x78000000 w d a b)
  | .hadd2Bf16 w d a b => some (wordA 0x79000000 w d a b)
  | .hmul2F16 w d a b => some (wordA 0x7A000000 w d a b)
  | .hmul2Bf16 w d a b => some (wordA 0x7B000000 w d a b)
  | .hfma2F16 w d a b => some (wordA 0x7C000000 w d a b)
  | .hfma2Bf16 w d a b => some (wordA 0x7D000000 w d a b)
  | .cvt w d a r s => some (0x90000000 + at_ w 23 + at_ d 16 + at_ a 8 + at_ r 4 + at_ s 0)
  | .qcvt w d a r s => some (0x91000000 + at_ w 23 + at_ d 16 + at_ a 8 + at_ r 4 + at_ s 0)
  | .qunp w d a r s => some (0x92000000 + at_ w 23 + at_ d 16 + at_ a 8 + at_ r 4 + at_ s 0)
  | .ldB32 d a m s c o => some (wordM 0xA0000000 d a m s c o)
  | .ldF32 d a m s c o => some (wordM 0xA1000000 d a m s c o)
  | .ldI32 d a m s c o => some (wordM 0xA2000000 d a m s c o)
  | .ldN32 d a m s c o => some (wordM 0xA3000000 d a m s c o)
  | .ldF16 d a m s c o => some (wordM 0xA4000000 d a m s c o)
  | .ldBf16 d a m s c o => some (wordM 0xA5000000 d a m s c o)
  | .ldE4m3 d a m s c o => some (wordM 0xA6000000 d a m s c o)
  | .ldI64 d a m s c o => some (wordM 0xA7000000 d a m s c o)
  | .stB32 d a m s c o => some (wordM 0xA8000000 d a m s c o)
  | .stI64 d a m s c o => some (wordM 0xA9000000 d a m s c o)
  | .fence u c k => some (0xAA000000 + at_ u 19 + at_ c 16 + at_ k 0)
  | .wldN32 d a m s o => some (0xAB000010 + at_ d 17 + at_ a 10 + at_ m 9 + at_ s 5 + at_ o 0)
  | .wldN64 d a m s o => some (0xAC000010 + at_ d 17 + at_ a 10 + at_ m 9 + at_ s 5 + at_ o 0)
  | .pref a m s c => some (0xAD000000 + at_ a 10 + at_ m 9 + at_ s 5 + at_ c 2)
  | .atomAdd d a m s c o => some (wordM 0xAE000000 d a m s c o)
  | .atomSmin d a m s c o => some (wordM 0xAF000000 d a m s c o)
  | .atomSmax d a m s c o => some (wordM 0xB0000000 d a m s c o)
  | .atomUmin d a m s c o => some (wordM 0xB1000000 d a m s c o)
  | .atomUmax d a m s c o => some (wordM 0xB2000000 d a m s c o)
  | .atomAnd d a m s c o => some (wordM 0xB3000000 d a m s c o)
  | .atomOr d a m s c o => some (wordM 0xB4000000 d a m s c o)
  | .atomXor d a m s c o => some (wordM 0xB5000000 d a m s c o)
  | .atomExch d a m s c o => some (wordM 0xB6000000 d a m s c o)
  | .atomCas d a m s c o => some (wordM 0xB7000000 d a m s c o)
  | .redAdd d a m s c o => some (wordM 0xB8000000 d a m s c o)
  | .redSmin d a m s c o => some (wordM 0xB9000000 d a m s c o)
  | .redSmax d a m s c o => some (wordM 0xBA000000 d a m s c o)
  | .redUmin d a m s c o => some (wordM 0xBB000000 d a m s c o)
  | .redUmax d a m s c o => some (wordM 0xBC000000 d a m s c o)
  | .redAnd d a m s c o => some (wordM 0xBD000000 d a m s c o)
  | .redOr d a m s c o => some (wordM 0xBE000000 d a m s c o)
  | .redXor d a m s c o => some (wordM 0xBF000000 d a m s c o)
  | .mma t f g a b => some (wordT 0xC0000000 t f g a b)
  | .mmas t f g a b => some (wordT 0xC1000000 t f g a b)
  | .mmag t g a b => some (0xC2070000 + at_ t 20 + at_ g 12 + at_ a 6 + at_ b 0)
  | .mmaG t f g a b => some (wordT 0xC4000000 t f g a b)
  | .mmasG t f g a b => some (wordT 0xC5000000 t f g a b)
  | .mmagG t g a b => some (0xC6070000 + at_ t 20 + at_ g 12 + at_ a 6 + at_ b 0)
  | .tld t f s a b => some (wordT 0xC8000000 t f s a b)
  | .tst t f s a b => some (wordT 0xC9000000 t f s a b)
  | .tzero t f => some (0xCA000000 + at_ t 20 + at_ f 16)
  | .opfence => some (0xCC000000)
  | .mwait n => some (0xCD000000 + at_ n 16)
  | .cpy a c s d => some (0xD0000000 + at_ a 16 + at_ c 12 + at_ s 8 + at_ d 0)
  | .cpym a c s d => some (0xD1000000 + at_ a 16 + at_ c 12 + at_ s 8 + at_ d 0)
  | .coll a s g => some (0xD2000000 + at_ a 16 + at_ s 12 + at_ g 8)
  | .msfence k => some (0xD3000000 + at_ k 0)
  | .mswait m k => some (0xD4000000 + at_ m 16 + at_ k 0)
  | .rway a c k => some (0xD5000000 + at_ a 16 + at_ c 14 + at_ k 8)
  | .vopen a d => some (0xD6000000 + at_ a 16 + at_ d 0)
  | .vsend a h s => some (0xD7000000 + at_ a 16 + at_ h 8 + at_ s 0)
  | .jpost a p d => some (0xD8000000 + at_ a 16 + at_ p 8 + at_ d 0)
  | .vdrop h d => some (0xD9000000 + at_ h 16 + at_ d 0)
  | .gjoin g => some (0xE0000000 + at_ g 16)
  | .gleave g => some (0xE1000000 + at_ g 16)
  | .garrive g v b n s d => some (0xE2000000 + at_ g 23 + at_ v 22 + at_ b 16 + at_ n 12 + at_ s 8 + at_ d 0)
  | .gridarr n e d => some (0xE3000000 + at_ n 16 + at_ e 8 + at_ d 0)
  | .racq d => some (0xE4000000 + at_ d 16)
  | .rrel => some (0xE5000000)
  | .qpush d q v => some (0xE6000000 + at_ d 16 + at_ q 8 + at_ v 0)
  | .qpop d q v => some (0xE7000000 + at_ d 16 + at_ q 8 + at_ v 0)
  | .tbegin o => some (0xE8000000 + at_ o 0)
  | .tcommit => some (0xE9000000)
  | .tabort c => some (0xEA000000 + at_ c 16)
  | .tretry => some (0xEB000000)
  | .telse o => some (0xEC000000 + at_ o 0)
  | .tstat d => some (0xED000000 + at_ d 16)
  | .sread r d => some (0xF0000000 + at_ r 16 + at_ d 0)
  | .swrite r a => some (0xF1000000 + at_ r 16 + at_ a 0)
  | .cflush a m s c => some (0xF2000000 + at_ a 10 + at_ m 9 + at_ s 5 + at_ c 2)
  | .pathrd s i d => some (0xF4000000 + at_ s 16 + at_ i 8 + at_ d 0)
  | .pathwr s i a => some (0xF5000000 + at_ s 16 + at_ i 8 + at_ a 0)
  | .eret => some (0xF6000000)
  | .ext k p => some (0xFE000000 + at_ k 20 + at_ p 0)
  | .illegalOp w => some w.toNat
  | .illegalField w => some w.toNat
  | .loadReturn .. => none
  | .asyncTrapEntry .. => none
  | .siblingHalt .. => none
  | .asyncReport .. => none
  | .convoyRetire .. => none
  | .matrixStart .. => none
  | .matrixComplete .. => none
  | .tldComplete .. => none
  | .copyCommandStart .. => none
  | .copyCompletion .. => none
  | .wake .. => none
  | .timedWake .. => none
  | .scratchAccessArrival .. => none
  | .remoteStoreAck .. => none
  | .secondLevelTlbMiss .. => none
  | .remoteLoadBlocking .. => none
  | .rds .. => none
  | .rdx .. => none
  | .upg .. => none
  | .fwds .. => none
  | .fwdx .. => none
  | .inv .. => none
  | .binv .. => none
  | .data .. => none
  | .wb .. => none
  | .ack .. => none
  | .cmp .. => none
  | .leaseRenewal .. => none
  | .leaseHolderExpiry .. => none
  | .leaseHomeExpiry .. => none
  | .leaseRecall .. => none
  | .leaseRelease .. => none
  | .regionWriteback .. => none
  | .flitRoute .. => none
  | .packetArrival .. => none
  | .packetAck .. => none
  | .packetNack .. => none
  | .resendTimeout .. => none
  | .packetCommit .. => none
  | .tokenArrival .. => none
  | .recordReceive .. => none
  | .recordGapFetch .. => none
  | .tokenwaitExpiry .. => none
  | .tokenStop .. => none
  | .tokenRecovery .. => none
  | .masterTimeout .. => none
  | .lostLimitExpiry .. => none
  | .recordWrite .. => none
  | .recordAdd .. => none
  | .recordCas .. => none
  | .recordMax .. => none
  | .recordBitset .. => none
  | .recordLaunch .. => none
  | .recordPte .. => none
  | .recordRegion .. => none
  | .recordTrigger .. => none
  | .recordSnap .. => none
  | .ringLost .. => none
  | .ringJoin .. => none
  | .ringDone .. => none
  | .combineChunk .. => none
  | .sessionInputTimeout .. => none
  | .memberOverdue .. => none
  | .collectiveCompletion .. => none
  | .vatArrival .. => none
  | .vatRowComplete .. => none
  | .vatDeadline .. => none
  | .vatReleaseDone .. => none
  | .cardConditionPoll .. => none
  | .convoyPlacement .. => none
  | .quadModeChangeDone .. => none
  | .placementReservation .. => none
  | .preemptwaitExpiry .. => none
  | .evictionSave .. => none
  | .convoyRestore .. => none
  | .watchdogExpiry .. => none
  | .cardCompletion .. => none
  | .selfTestInjection .. => none
  | .matrixHang .. => none
  | .slabResetDone .. => none
  | .eccError .. => none
  | .pcSample .. => none
  | .checkpointGranuleWrite .. => none
  | .waysideImageLoad .. => none
  | .linkLoss .. => none
  | .packageReset .. => none
  | .packagePowerLoss .. => none
  | .junctionTemperature .. => none
  | .powerMeasurement .. => none
  | .dvfsPointSelect .. => none
  | .debugResume .. => none
  | .debugStep .. => none
  | .debugEdit .. => none
  | .rightsRevoke .. => none
  | .triggerWrite .. => none
  | .injectCorrected .. => none
  | .injectUncorrectable .. => none
  | .injectSelfTest .. => none
  | .doorbellWrite .. => none
  | .commandAccept .. => none
  | .launch .. => none
  | .inval .. => none
  | .replay .. => none
  | .evict .. => none
  | .ringpost .. => none
  | .fwload .. => none
  | .attest .. => none
  | .restore .. => none
  | .resetcore .. => none
  | .gapClear .. => none
  | .dqheadWrite .. => none
  | .dqreplayWrite .. => none
  | .fqrdWrite .. => none
  | .contextDescriptorWrite .. => none
  | .ringBlockBaseWrite .. => none
  | .regionStatusClear .. => none
  | .ringctlWrite .. => none
  | .boundTableWrite .. => none
  | .msiXMessage .. => none
  | .registerWrite .. => none
  | .outOfStepRecovery .. => none
  | .contextTeardown .. => none
  | .dvfsPauseEnd .. => none
  | .hostLinkError .. => none

/-- The word of an encoded instruction; an event has none. -/
def encode (i : Instr) : Option Word := (encodeNat i).map (BitVec.ofNat 32)

/-- What the decoder reads from an instruction whose bits are `w`, numbered as spec/opcode_table.json numbers them. Every
instruction of this machine is one 32-bit word, stored little-endian (R390). -/
def decodeTableWord (nbits w : Nat) : Option Instr :=
  if nbits = 32 then
    some (decode (wordOfBytes (BitVec.ofNat 8 w) (BitVec.ofNat 8 (w / 2 ^ 8)) (BitVec.ofNat 8 (w / 2 ^ 16))
      (BitVec.ofNat 8 (w / 2 ^ 24))))
  else none

end Sys2Proof
end

