-- ==== Sys2Proof/Machine/Issue.lean ====
section
/-! DEFINITION. How an instruction is issued by a path: which checks come before its effect and in which order (R403), and what its
end does to the path (R40, R70, R71, R204, R210, R322). -/

namespace Sys2Proof.Machine

/-- What an instruction sees of the path that issues it. -/
structure Ctx where
  key : Nat
  w : Wave
  p : Nat
  path : Path
  conv : Convoy
  ext : ExtState
  active : Word
  acting : Word
  deriving DecidableEq, Repr

/-- How the body of an instruction ends: it is done and the path goes on at pc + 4, or at another PC; it has set the paths itself;
it traps, with or without an effect that
stands; it waits for something with a stall reason and holds streams back, having done a part of its work or asked for something where a state is
given; it stays at the instruction, the body having
said why (parked, or stalled at a joint instruction); or it aborts the attempt. -/
inductive Res where
  | next (s : State)
  | jump (s : State) (pc : Dword)
  | whole (s : State)
  | trap (t : Trap)
  | trapIn (s : State) (t : Trap)
  | wait (reason : Nat) (streams : BitVec 16)
  | hold (s : State) (reason : Nat) (streams : BitVec 16)
  | stay (s : State)
  | abort (s : State) (cause : BitVec 4)
  deriving DecidableEq, Repr

/-- A pending EXT kind. -/
def ExtState.has (e : ExtState) (k : Nat) : Bool := e.kinds.getLsbD k

/-- The payload of a kind, zero where it is not pending. -/
def ExtState.payload (e : ExtState) (k : Nat) : BitVec 20 := if e.has k then vget e.payloads k 0 else 0

/-- The EXT.MOD payload (R398). -/
def Ctx.mod (c : Ctx) : BitVec 20 := c.ext.payload 2

/-- A bit of EXT.MOD. -/
def Ctx.modBit (c : Ctx) (b : Nat) : Bool := c.mod.getLsbD b

/-- The rounding mode of EXT.MOD (R86). -/
def Ctx.rnd (c : Ctx) : Nat := bits c.mod.toNat 13 2

/-- The byte offset of EXT.OFF (R397, R408). -/
def Ctx.off (c : Ctx) : Dword := (c.ext.payload 3).signExtend 64

/-- The 32-bit EXT immediate (R396). -/
def ExtState.imm (e : ExtState) : Word :=
  let hi : Word := ((e.payload 1).extractLsb' 0 12).setWidth 32 <<< 20
  if e.has 1 then (if e.has 0 then hi ||| (e.payload 0).setWidth 32 else hi) else (e.payload 0).signExtend 32

/-- The base registers of each wave of a convoy (R304). -/
def Convoy.regs (c : Convoy) : Nat := 8 * c.card.regs

/-- The lanes an EXT.MOD predicate selects (R40, R398); all of them where none is pending. -/
def predLanes (w : Wave) (e : ExtState) : Word :=
  if e.has 2 then
    let m := e.payload 2
    let q := w.preg (bits m.toNat 6 3)
    if m.getLsbD 5 then ~~~q else q
  else 0xFFFFFFFF

/-- The lanes a retried load or prefetch acts on: those that faulted (R132), else every lane. -/
def retryLanes (w : Wave) (p : Nat) (pc : Dword) : Word :=
  match w.retry with
  | some r => if r.path == p && r.pc == pc then r.lanes else 0xFFFFFFFF
  | none => 0xFFFFFFFF

/-- The path that is issuing, with its wave and convoy; none where the cursor names no live path of a placed convoy. -/
def issueCtx (s : State) : Option Ctx :=
  match tget s.waves s.cur.wave, tget s.convoys (keyConvoy s.cur.wave) with
  | some w, some conv =>
    let path := w.div.path s.cur.path
    if w.ended || path.mask == 0 || decide (8 ≤ s.cur.path) || conv.residence != .placed then none else
    let ext := w.div.ext s.cur.path
    let active := w.div.activeLanes s.cur.path
    some { key := s.cur.wave, w := w, p := s.cur.path, path := path, conv := conv, ext := ext, active := active,
           acting := active &&& predLanes w ext }
  | _, _ => none

/-! ### What an instruction is checked for -/

/-- An operand of an instruction: its select, the EXT.MOD bank bit of its field if it has one, how many registers it names from
there, its role in TRAPADDR (0 D, 1 A, 2 B; R326), and whether the field is an operand select. -/
structure Opnd where
  sel : BitVec 8
  bank : Option Nat
  regs : Nat
  role : Nat
  select : Bool
  deriving DecidableEq, Repr

/-- A tag that an operand must carry (R65): what was expected, what was found, and whether it is accepted. -/
structure TagReq where
  role : Nat
  expected : BitVec 4
  found : BitVec 4
  ok : Bool
  deriving DecidableEq, Repr

/-- What the issue of an instruction checks before its body. -/
structure IssueSpec where
  kinds : BitVec 7 := 0
  modMask : BitVec 20 := 0
  immFree : Bool := false
  opnds : List Opnd := []
  tiles : List Nat := []
  inTx : Bool := true
  onePath : Bool := false
  fullMask : Bool := false
  tags : Ctx → List TagReq := fun _ => []
  resultTag : Ctx → BitVec 4 := fun _ => 0
  fields : Ctx → Bool := fun _ => true

/-- The bank bits, PSEL and PINV of EXT.MOD (R398). -/
def modPlain : BitVec 20 := 0x00FE0

/-- The vector register that an operand names, with its bank (R394, R398). -/
def Opnd.reg (o : Opnd) (c : Ctx) : Nat :=
  o.sel.toNat + (match o.bank with | some b => if c.modBit b then 128 else 0 | none => 0)

/-- The operand names a vector register. -/
def Opnd.isVec (o : Opnd) : Bool := selIsVec o.sel

/-- A bank bit that is set names a vector register through some operand (R398). -/
def bankOk (c : Ctx) (os : List Opnd) (b : Nat) : Bool :=
  !c.modBit b || os.any fun o => o.bank == some b && o.isVec

/-- The KIND of a bound entry matches a result's tag (R103): a float KIND the float tags, an integer KIND, signed or unsigned, every integer tag
(DEDUCED, log 76). -/
def boundKindOk (kind : Nat) (tag : BitVec 4) : Bool :=
  let t := tag.toNat
  if kind == 0 then t == 1 || t == 2 || t == 3 || t == 0xA || t == 0xB || t == 0xC
  else t == 4 || t == 5 || t == 6 || t == 7 || t == 8 || t == 9 || t == 0xD

/-- A bound-table entry (R102). -/
def boundEntry (s : State) (c : Ctx) : BitVec 128 :=
  tgetD s.bound (c.conv.desc.bndBase + bits (c.ext.payload 5).toNat 14 6) 0

/-- The bound entry checks something: EN is set and neither KIND nor ACTION is reserved (R102). -/
def boundEnabled (e : BitVec 128) : Bool :=
  e.getLsbD 71 && bits e.toNat 74 2 != 3 && bits e.toNat 72 2 != 3

/-- EXT_MISUSE (R71, R95, R101, R103, R398, R400): a pending kind that does not apply, a MOD bit that is not honoured, a bank bit
with no vector register, an immediate that nothing selects, one that is selected and not pending, or a bound that does not
fit the result. -/
def extMisuse (s : State) (sp : IssueSpec) (c : Ctx) : Bool :=
  let pend := c.ext.kinds
  let wantsImm := sp.opnds.any fun o => o.select && o.sel == 0xFF
  let immPend := c.ext.has 0 || c.ext.has 1
  (pend &&& ~~~(sp.kinds.setWidth 16)) != 0 ||
  (immPend && !wantsImm && !sp.immFree) || (wantsImm && !immPend) ||
  (c.mod &&& ~~~sp.modMask &&& ~~~0x1F#20) != 0 ||
  !(bankOk c sp.opnds 11 && bankOk c sp.opnds 10 && bankOk c sp.opnds 9) ||
  (c.ext.has 5 &&
    (let t := sp.resultTag c
     let e := boundEntry s c
     decide (c.conv.desc.bndCount ≤ bits (c.ext.payload 5).toNat 14 6) || t == 0 || t == 0xF || t == 0xE ||
     (boundEnabled e && !boundKindOk (bits e.toNat 74 2) t)))

/-- A reserved bit of a pending payload is set (R397, R398, R399, R227). -/
def payloadReserved (e : ExtState) : Bool :=
  bits (e.payload 1).toNat 12 8 != 0 || bits (e.payload 2).toNat 0 5 != 0 || bits (e.payload 4).toNat 0 15 != 0 ||
  bits (e.payload 5).toNat 0 12 != 0 || bits (e.payload 6).toNat 0 3 != 0

/-- The word of an instruction, for TRAPADDR (R326). -/
def wordOf (i : Instr) : Dword := ((encode i).getD 0).setWidth 64

/-- The first register of the operands that lies outside the wave's window (R56). -/
def windowBreach (sp : IssueSpec) (c : Ctx) : Option Nat :=
  let regs := (sp.opnds.filter Opnd.isVec).flatMap fun o => (List.range o.regs).map fun j => o.reg c + j
  match regs.find? fun n => !c.w.inWindow c.conv.regs n with
  | some n => some n
  | none => (sp.tiles.find? fun t => decide (c.conv.card.tiles ≤ t)).map (0x100 + ·)

/-- The first operand that reads an invalid latch (R69). -/
def latchLost (sp : IssueSpec) (c : Ctx) : Option Nat :=
  ((sp.opnds.filter fun o => o.select && selIsLatch o.sel).map fun o => o.sel.toNat - 0xFC).find? fun j =>
    !(vget c.path.latches j Latch.empty).valid

/-- The checks that come before an instruction's body, first cause first (R403). An instruction that a transaction does not
permit aborts the attempt once its word and its EXT words are found legal (R198; DEDUCED, log 20).
Of several operands with a wrong tag it reports the first of D, A, B, tile (DEDUCED, log 75). -/
def precheck (s : State) (i : Instr) (sp : IssueSpec) (c : Ctx) : Option Res :=
  if extMisuse s sp c then some (.trap (Trap.mk' 0x10 (c.ext.kinds.setWidth 64)))
  else if !fieldsOk i || payloadReserved c.ext || !sp.fields c then some (.trap (Trap.mk' 0x02 (wordOf i)))
  else if c.w.txn.depth != 0 && !sp.inTx then some (.abort s (txCause "UNSUPPORTED"))
  else match windowBreach sp c with
  | some n => some (.trap (Trap.mk' 0x11 (BitVec.ofNat 64 n)))
  | none => match latchLost sp c with
  | some j => some (.trap (Trap.mk' 0x04 (BitVec.ofNat 64 j)))
  | none =>
    if (sp.onePath && decide (1 < c.w.div.valid.length)) ||
        (sp.fullMask && (decide (1 < c.w.div.valid.length) || c.active != c.w.div.liveLanes)) then
      some (.trap (Trap.mk' 0x05 (BitVec.ofNat 64 (pack (c.w.div.valid.map fun p => (p, 1))))))
    else match (sp.tags c).find? fun t => !t.ok with
    | some t => some (.trap (Trap.mk' 0x03 (BitVec.ofNat 64 (t.expected.toNat + 16 * t.found.toNat + 256 * t.role))))
    | none => none

/-! ### Operands that are on their way (R73, R493) -/

/-- The scalar register that an operand select names. -/
def selScalar (a : BitVec 8) : List Nat := if 0x80 ≤ a.toNat && a.toNat < 0xC0 then [a.toNat - 0x80] else []

/-- The scalar register that a format M address names. -/
def adrScalar (a : BitVec 7) (m : BitVec 1) : List Nat := if m == 1 then [a.toNat % 64] else []

/-- The operand selects of an instruction of format A, P or S (R392, R393). -/
def operandSelects : Instr → List (BitVec 8)
  | .sadd _ a b | .ssub _ a b | .smul _ a b | .sand _ a b | .sor _ a b | .sxor _ a b | .sshl _ a b | .sshr _ a b
  | .ssar _ a b | .scmp _ _ _ a b | .and _ _ a b | .or _ _ a b | .xor _ _ a b | .shl _ _ a b | .shr _ _ a b | .sar _ _ a b
  | .bfeN32 _ _ a b | .bfeI32 _ _ a b | .bfi _ _ a b | .iadd _ _ a b | .isub _ _ a b | .iaddsI32 _ _ a b | .iaddsN32 _ _ a b
  | .isubsI32 _ _ a b | .isubsN32 _ _ a b | .imul _ _ a b | .imulhI32 _ _ a b | .imulhN32 _ _ a b | .imad _ _ a b
  | .iminI32 _ _ a b | .iminN32 _ _ a b | .imaxI32 _ _ a b | .imaxN32 _ _ a b | .icmpI32 _ _ _ a b | .icmpN32 _ _ _ a b
  | .lea _ _ a b | .sel _ _ a b | .shfl _ _ a b | .redl _ _ a b | .srdl _ a b | .fadd _ _ a b | .fsub _ _ a b
  | .fmul _ _ a b | .ffma _ _ a b | .fmin _ _ a b | .fmax _ _ a b | .fclamp _ _ a b | .fcmp _ _ _ a b | .hadd2F16 _ _ a b
  | .hadd2Bf16 _ _ a b | .hmul2F16 _ _ a b | .hmul2Bf16 _ _ a b | .hfma2F16 _ _ a b | .hfma2Bf16 _ _ a b => [a, b]
  | .smov _ a | .not _ _ a | .clz _ _ a | .popc _ _ a | .iabs _ _ a | .mov _ _ a _ _ | .fabs _ _ a | .fneg _ _ a
  | .fexp2 _ _ a | .flog2 _ _ a | .frcp _ _ a | .frsq _ _ a | .fsqrt _ _ a | .ftanh _ _ a | .cvt _ _ a _ _ | .qcvt _ _ a _ _
  | .qunp _ _ a _ _ => [a]
  | .vote _ _ b => [b]
  | _ => []

/-- The scalar registers that the other fields of an instruction name, those of the planes of matrix operands among them (R223). -/
def scalarFields : Instr → List Nat
  | .brx a | .callIndirect a | .coll a _ _ | .rway a _ _ | .swrite _ a | .pathwr _ _ a => [a.toNat]
  | .sadd d _ _ | .ssub d _ _ | .smul d _ _ | .sand d _ _ | .sor d _ _ | .sxor d _ _ | .sshl d _ _ | .sshr d _ _
  | .ssar d _ _ | .smov d _ | .smovi d _ | .vote d _ _ | .redl _ d _ _ | .srdl d _ _ | .tstat d | .sread _ d | .pathrd _ _ d =>
    [d.toNat]
  | .sldN8 d a _ _ _ | .sldI8 d a _ _ _ | .sldN16 d a _ _ _ | .sldI16 d a _ _ _ | .sldN32 d a _ _ _ | .sldI32 d a _ _ _
  | .sldN64 d a _ _ _ | .sstN8 d a _ _ _ | .sstN16 d a _ _ _ | .sstN32 d a _ _ _ | .sstN64 d a _ _ _ => [d.toNat, a.toNat]
  | .ldB32 _ a m _ _ _ | .ldF32 _ a m _ _ _ | .ldI32 _ a m _ _ _ | .ldN32 _ a m _ _ _ | .ldF16 _ a m _ _ _
  | .ldBf16 _ a m _ _ _ | .ldE4m3 _ a m _ _ _ | .ldI64 _ a m _ _ _ | .stB32 _ a m _ _ _ | .stI64 _ a m _ _ _
  | .wldN32 _ a m _ _ | .wldN64 _ a m _ _ | .pref a m _ _ | .atomAdd _ a m _ _ _ | .atomSmin _ a m _ _ _
  | .atomSmax _ a m _ _ _ | .atomUmin _ a m _ _ _ | .atomUmax _ a m _ _ _ | .atomAnd _ a m _ _ _ | .atomOr _ a m _ _ _
  | .atomXor _ a m _ _ _ | .atomExch _ a m _ _ _ | .atomCas _ a m _ _ _ | .redAdd _ a m _ _ _ | .redSmin _ a m _ _ _
  | .redSmax _ a m _ _ _ | .redUmin _ a m _ _ _ | .redUmax _ a m _ _ _ | .redAnd _ a m _ _ _ | .redOr _ a m _ _ _
  | .redXor _ a m _ _ _ | .cflush a m _ _ => adrScalar a m
  | .mma _ _ _ a b | .mmaG _ _ _ a b | .tld _ _ _ a b | .tst _ _ _ a b => [a.toNat, b.toNat]
  | .mmas _ _ _ a b | .mmasG _ _ _ a b => [a.toNat, b.toNat, a.toNat + 1, b.toNat + 1]
  | .mmag _ g a b | .mmagG _ g a b => [a.toNat, b.toNat, a.toNat + 1] ++ (if g == 9 then [b.toNat + 1] else [])
  | .cpy a _ _ d | .cpym a _ _ d | .vopen a d | .jpost a _ d => [a.toNat, d.toNat]
  | .mswait m _ => [m.toNat]
  | .vsend a h s => [a.toNat, h.toNat, s.toNat]
  | .vdrop h d => [h.toNat, d.toNat]
  | .garrive _ _ b _ _ d => [b.toNat, d.toNat]
  | .gridarr _ e d => [e.toNat, d.toNat]
  | .qpush _ q v | .qpop _ q v => [q.toNat, v.toNat]
  | _ => []

/-- The scalar registers that an instruction names. -/
def scalarNames (i : Instr) : List Nat := (operandSelects i).flatMap selScalar ++ scalarFields i

/-- The instruction reads a latch (R74). -/
def readsLatch (i : Instr) : Bool := (operandSelects i).any selIsLatch

/-- The vector registers that an instruction names. -/
def vectorNames (sp : IssueSpec) (c : Ctx) : List Nat :=
  (sp.opnds.filter Opnd.isVec).flatMap fun o => (List.range o.regs).map fun j => o.reg c + j

/-- The instruction names a register that an outstanding load of its wave will write: the path waits (R73, R493). -/
def awaitsLoad (s : State) (i : Instr) (sp : IssueSpec) (c : Ctx) : Bool :=
  s.loads.any fun e => e.2.wave == c.key && (match e.2.dest with
    | .scalar r _ _ => (scalarNames i).contains r
    | .vector r pair _ | .atomic r pair => (vectorNames sp c).any fun n => n == r || (pair && n == r + 1)
    | .tile t _ => sp.tiles.contains t
    | .entry _ _ => false)

/-! ### The end of an instruction -/

/-- The counters that every instruction moves: the free-value draws, and the epoch that lets waiting paths try again. -/
def State.tick (s : State) : State := { s with draws := s.draws + 1, epoch := s.epoch + 1 }

/-- One more instruction of a wave counts against the skid of a SIBLING_HALT that has reached it (R327). -/
def Wave.countSkid (w : Wave) : Wave :=
  match w.heldSibling with
  | some h => if h.arrived && !w.inHandler then { w with heldSibling := some { h with left := h.left - 1, used := h.used + 1 } } else w
  | none => w

/-- A path that was let issue one instruction is halted again (R354); its resume continues the chain that it is in. -/
def Path.stepped (p : Path) : Path :=
  if p.stepping then { p with stepping := false, hold := .debug, kept := true } else p

/-- The retry that a wave still has once a path has gone on: another path's. -/
def Wave.retryAfter (w : Wave) (p : Nat) : Option Park := if w.retry.any fun r => r.path == p then none else w.retry

/-- The path has issued: its strands' EXT state is consumed and it goes on at `pc` (R70, R390). -/
def Wave.advance (w : Wave) (p : Nat) (pc : Dword) (stamp : Nat) : Wave :=
  let d := w.div.clearExt p
  let q := d.path p
  { w with
    div := d.setPath p ({ q with
      pc := pc, hold := .none, readyAt := stamp, kept := false, skipBreak := false, waitedLong := false, entry := none }).stepped,
    retry := w.retryAfter p }

/-- The instruction is done and the path goes on at `pc`. -/
def advance (s : State) (c : Ctx) (pc : Dword) : State :=
  let s := s.tick
  { s with waves := tmod s.waves c.key (fun w => (w.advance c.p pc s.epoch).countSkid) }

/-- The hold is a wait of a reason. -/
def Hold.waitsFor (h : Hold) (reason : Nat) : Bool := match h with | .wait r _ _ => r == reason | _ => false

/-- The path waits at its instruction (R73, R361), until something has changed; it is not ready while it does. -/
def stall (s : State) (c : Ctx) (reason : Nat) (streams : BitVec 16) : State :=
  let since (p : Path) : Nat := match p.hold with | .wait r _ _ => if r == reason then p.waitSince else s.clock | _ => s.clock
  let wait (p : Path) : Path := { p with
    hold := .wait reason s.epoch streams, waitSince := since p, readyAt := s.epoch
    waitedLong := p.waitedLong && p.hold.waitsFor 7 && reason == 7 }
  { s with waves := tmod s.waves c.key (fun w => { w with div := w.div.setPath c.p (wait (w.div.path c.p)) }) }

/-- The attempt of the issuing wave aborts (R204). -/
def abortIssue (s : State) (c : Ctx) (cause : BitVec 4) : State :=
  let s := s.tick
  let stepped (w : Wave) : Wave := { w with div := w.div.setPath c.p (Path.stepped { w.div.path c.p with
    readyAt := s.epoch, kept := false, skipBreak := false, waitedLong := false }) }
  { s with waves := tmod s.waves c.key (fun w => (stepped (abortAttempt w c.p cause)).countSkid) }

/-- A precise trap of the issuing path. In a transaction whose read set has changed it is suppressed and the attempt aborts with
CONFLICT (R201); otherwise the transaction aborts with TRAP and the saved PC is FAIL[1] (R210). -/
def trapIssue (s : State) (c : Ctx) (t : Trap) : State :=
  if c.w.txn.depth = 0 then
    takeTrap s.tick c.key c.p t c.path.pc (if t.nextPc then c.path.pc + 4 else c.path.pc)
  else if c.w.txn.hit then abortIssue s c (txCause "CONFLICT")
  else
    let s := abortIssue s c (txCause "TRAP")
    takeTrap s c.key c.p t c.path.pc (c.w.txn.fail 1)

/-- What a body's result makes of the state. -/
def finish (s : State) (c : Ctx) : Res → State
  | .next t => advance t c (c.path.pc + 4)
  | .jump t pc => advance t c pc
  | .whole t => let t := t.tick; { t with waves := tmod t.waves c.key Wave.countSkid }
  | .trap t => trapIssue s c t
  | .trapIn t trap => trapIssue t c trap
  | .wait reason streams => stall s c reason streams
  | .hold t reason streams => stall { t with epoch := t.epoch + 1 } c reason streams
  | .stay t => { t with epoch := t.epoch + 1 }
  | .abort t cause => abortIssue t c cause

/-- Runs an instruction for the issuing path, once its operands have arrived: the checks in their order, then its body. -/
def run (i : Instr) (sp : IssueSpec) (s : State) (body : Ctx → Res) : Host.Outcome State Fault Refusal :=
  match issueCtx s with
  | none => .fault .noIssuingPath
  | some c =>
    if awaitsLoad s i sp c then .next (stall s c 7 0) else .next (finish s c ((precheck s i sp c).getD (body c)))

end Sys2Proof.Machine
end

