-- ==== Sys2Proof/Machine/Flags.lean ====
section
/-! DEFINITION. What compares and range checks find: condition codes (R405, R464), branch modes (R406), the predicate write (R459),
and the bound table's test and clamp (R102 to R104). -/

namespace Sys2Proof.Machine

/-- A condition of a signed or unsigned comparison of integers (R405): codes 0 to 5, with 6 to 9 the unsigned forms of 2 to 5. -/
def condInt (cc : Nat) (signed unsigned : Int × Int) : Bool :=
  if cc == 0 then decide (signed.1 = signed.2)
  else if cc == 1 then decide (signed.1 ≠ signed.2)
  else if cc == 2 then decide (signed.1 < signed.2)
  else if cc == 3 then decide (signed.1 ≤ signed.2)
  else if cc == 4 then decide (signed.1 > signed.2)
  else if cc == 5 then decide (signed.1 ≥ signed.2)
  else if cc == 6 then decide (unsigned.1 < unsigned.2)
  else if cc == 7 then decide (unsigned.1 ≤ unsigned.2)
  else if cc == 8 then decide (unsigned.1 > unsigned.2)
  else decide (unsigned.1 ≥ unsigned.2)

/-- A condition of FCMP (R464). -/
def condFloat (cc : Nat) (x y : FVal) : Bool :=
  let nan := x.isNan || y.isNan
  if cc == 0 then x.eq y
  else if cc == 1 then nan || !x.eq y
  else if cc == 2 then x.lt y
  else if cc == 3 then x.lt y || x.eq y
  else if cc == 4 then y.lt x
  else if cc == 5 then y.lt x || x.eq y
  else if cc == 10 then !nan
  else nan

/-- A branch condition over the acting lanes (R406). -/
def branchTaken (mode : Nat) (pred acting : Word) : Bool :=
  if mode == 1 then pred &&& acting != 0
  else if mode == 2 then acting &&& ~~~pred == 0
  else if mode == 3 then pred &&& acting == 0
  else acting &&& ~~~pred != 0

/-- The predicate after a compare (R459): written in the acting lanes, and combined with its old value where M is 1. -/
def predAfter (old acting c : Word) (m : BitVec 1) : Word :=
  (old &&& ~~~acting) ||| (if m == 1 then old &&& c &&& acting else c &&& acting)

/-! ### The bound table -/

/-- The action of a pending EXT.BND (R104): 1 flag, 2 clamp, 3 trap. -/
def boundAction (e : BitVec 128) (payload : BitVec 20) : Nat :=
  let a := bits payload.toNat 12 2
  if a == 0 then bits e.toNat 72 2 + 1 else a

/-- LO of an entry (R102). -/
def boundLo (e : BitVec 128) : Word := e.extractLsb' 0 32

/-- HI of an entry (R102). -/
def boundHi (e : BitVec 128) : Word := e.extractLsb' 32 32

/-- A bound as a value, by the entry's KIND (R102). -/
def boundVal (kind : Nat) (x : Word) : Elem :=
  if kind == 0 then .real (f32Val x) else .int (if kind == 1 then x.toInt else x.toNat)

/-- How an element stands to the bounds (R103): 0 within, 1 below or NaN, 2 above. Where a bound is NaN the spec states no order
(DESIGN CHOICE, log 25): the outcome is a free choice. -/
def boundSide (draws site : Nat) (lo hi x : Elem) : Nat :=
  match lo, hi, x with
  | .real l, .real h, .real v =>
    if v.isNan then 1
    else if l.isNan || h.isNan then (if Config.freeBool draws site then (if Config.freeBool draws (site + 1) then 1 else 2) else 0)
    else if v.lt l then 1 else if h.lt v then 2 else 0
  | .int l, .int h, .int v => if v < l then 1 else if h < v then 2 else 0
  | _, _, _ => 0

/-- The element is infinite. -/
def Elem.isInf : Elem → Bool
  | .real (.inf _) => true
  | _ => false

/-- A bound as a value of an element format (R104): one that is no value of the format is converted inward, LO rounded up and HI down, and
saturated to the format's finite or integer range; an infinity that the format has is written as it is. A NaN bound gives a free value (DESIGN
CHOICE, log 25). -/
def boundAs (draws site code : Nat) (low : Bool) (b : Elem) : Nat :=
  match b with
  | .real .nan => (Config.freeWord draws site 0).toNat % 2 ^ codeBits code
  | .real v =>
    let plain := writeElem code 0 false false (.real v)
    if (Elem.real v).isInf && (readElem code false plain).isInf then plain else writeElem code (if low then 3 else 2) true false (.real v)
  | .int i => writeElem code 0 true false (.int i)

end Sys2Proof.Machine
end

