-- ==== Sys2Proof/Machine/Operands.lean ====
section
/-! DEFINITION. Reading the operands of an instruction (R394 to R396, R398), the tags they must carry (R65), and writing the result
of an ALU instruction: registers, latches and the bound check (R40, R64, R66, R67, R103, R104). -/

namespace Sys2Proof.Machine

/-! ### Operand fields -/

/-- The A field of format A or P. -/
def opA (a : BitVec 8) : Opnd := { sel := a, bank := some 10, regs := 1, role := 1, select := true }

/-- The B field of format A or P. -/
def opB (b : BitVec 8) : Opnd := { sel := b, bank := some 9, regs := 1, role := 2, select := true }

/-- The D field of format A, or DV of format M. -/
def opD (d : BitVec 7) : Opnd := { sel := d.setWidth 8, bank := some 11, regs := 1, role := 0, select := false }

/-- An operand field of format S, which no bank bit reaches. -/
def opS (role : Nat) (a : BitVec 8) : Opnd := { sel := a, bank := none, regs := 1, role := role, select := true }

/-- The operand names a group of registers. -/
def Opnd.group (o : Opnd) (n : Nat) : Opnd := { o with regs := n }

/-! ### Operand values -/

/-- What an operand select names (R394): a register or latch with its tag, a scalar register, an integer constant, an F32 constant,
identity values by lane, or the EXT immediate. -/
inductive Source where
  | tagged (tag : BitVec 4) (v : Lanes)
  | scalar (x : Dword)
  | int (i : Int)
  | f32 (x : Word)
  | ident (v : Lanes)
  | imm (x : Word)
  deriving DecidableEq, Repr

/-- The F32 constants 0xD8 to 0xDF (R394). -/
def f32Const (sel : Nat) : Word :=
  if sel == 0xD8 then 0x3F000000 else if sel == 0xD9 then 0x3F800000 else if sel == 0xDA then 0x40000000
  else if sel == 0xDB then 0xBF800000 else if sel == 0xDC then 0x3FB8AA3B else if sel == 0xDD then 0x3F317218
  else if sel == 0xDE then 0x7FC00000 else 0x7F800000

/-- The global lane id of a lane (R48). -/
def globalLane (c : Ctx) (L : Nat) : Nat :=
  ((c.conv.index.toNat * c.conv.card.crews + keyCrew c.key) * c.conv.card.waves + keyIndex c.key) * 32 + L

/-- An identity value (R394), 0xE0 to 0xEB. -/
def identity (s : State) (c : Ctx) (sel L : Nat) : Nat :=
  if sel == 0xE0 then L
  else if sel == 0xE1 then L % 4
  else if sel == 0xE2 then L / 4
  else if sel == 0xE3 then c.w.slot
  else if sel == 0xE4 then keyCrew c.key
  else if sel == 0xE5 then c.conv.index.toNat
  else if sel == 0xE6 then globalLane c L
  else if sel == 0xE7 then coreCluster c.w.core
  else if sel == 0xE8 then coreStack c.w.core
  else if sel == 0xE9 then s.pkg
  else if sel == 0xEA then s.clock
  else s.ring.applied.toNat

/-- The lanes of a register as a register instruction reads them: undefined where an aperture store has written the register and no
FENCE at core scope has followed (R61), and in its undefined bytes (R7). -/
def regLanes (s : State) (c : Ctx) (n : Nat) : Lanes :=
  if c.w.apertureDirty.getLsbD n then lanesOf fun L => Config.freeWord s.draws (300 + n) L else (c.w.vreg n).read s.draws (300 + n)

/-- The operand that a select names (R394). A reserved select has raised ILLEGAL_FIELD before. -/
def source (s : State) (c : Ctx) (o : Opnd) : Source :=
  let n := o.sel.toNat
  if n < 0x80 then .tagged (c.w.vreg (o.reg c)).tag (regLanes s c (o.reg c))
  else if n < 0xC0 then .scalar (c.w.sreg (n - 0x80))
  else if n < 0xD0 then .int (n - 0xC0 : Nat)
  else if n < 0xD8 then .int (-(n - 0xCF : Nat))
  else if n < 0xE0 then .f32 (f32Const n)
  else if n < 0xEC then .ident (lanesOf fun L => BitVec.ofNat 32 (identity s c n L))
  else if n < 0xFF then let l := vget c.path.latches (n - 0xFC) Latch.empty; .tagged l.tag (l.read s.draws (560 + n - 0xFC))
  else .imm c.ext.imm

/-- The tag of an operand, where it carries one (R63, R65). -/
def Source.tag? : Source → Option (BitVec 4)
  | .tagged t _ => some t
  | _ => none

/-- A lane as an integer or bit-level instruction reads it (R395). -/
def Source.bits : Source → Nat → Word
  | .tagged _ v, L => lane v L
  | .scalar x, _ => x.setWidth 32
  | .int i, _ => BitVec.ofInt 32 i
  | .f32 x, _ => x
  | .ident v, L => lane v L
  | .imm x, _ => x

/-- A lane as an F32 instruction reads it (R395): integers and identities are converted by rne32. -/
def Source.float : Source → Nat → Word
  | .int i, _ => rne32Int i
  | .ident v, L => rne32Int (lane v L).toNat
  | x, L => x.bits L

/-- A value rounded to a format in RNE, in every element of a lane. -/
def splat (code : Nat) (v : Elem) : Word := laneOfElems code fun _ => writeElem code 0 false false v

/-- A lane as an instruction on packed elements reads it (R395): a constant supplies one value to every element. The EXT immediate
supplies its 32 bits, as a scalar does (R65, R396, R482; DEDUCED, log 17). -/
def Source.packed (code : Nat) : Source → Nat → Word
  | .int i, _ => splat code (.int i)
  | .ident v, L => splat code (.int (lane v L).toNat)
  | .f32 x, _ => splat code (.real (f32Val x))
  | x, L => x.bits L

/-- A lane as an instruction reads it in the format of a tag code (R395): F32, the packed float formats, or bits (DEDUCED, log 27). -/
def Source.inFormat (code : Nat) (x : Source) (L : Nat) : Word :=
  if code == 1 then x.float L
  else if (codeFmt code).isSome || code == 0xE then x.packed code L
  else x.bits L

/-- The 64 bits that two lanes hold (R395). -/
def lanePair (v : Lanes) : Dword := (lane v 0).setWidth 64 ||| ((lane v 1).setWidth 64 <<< 32)

/-- A 64-bit value as a latch holds a scalar result (R395): its halves in the even and the odd lanes. -/
def scalarLanes (x : Dword) : Lanes := lanesOf fun L => if L % 2 == 0 then x.setWidth 32 else (x >>> 32).setWidth 32

/-- An operand as a scalar instruction reads it (R395, R531): a latch tagged W64 gives its lanes 0 and 1, another latch lane 0. -/
def Source.wide : Source → Dword
  | .tagged t v => if t == 0xF then lanePair v else (lane v 0).setWidth 64
  | .scalar x => x
  | .int i => BitVec.ofInt 64 i
  | .f32 x => x.setWidth 64
  | .ident v => (lane v 0).setWidth 64
  | .imm x => x.signExtend 64

/-- A lane as a vector instruction that expects 64 bits reads an untagged operand, or one register of a latch (R395, R495). -/
def Source.wideLane : Source → Nat → Dword
  | .tagged _ v, L => (lane v L).setWidth 64
  | .ident v, L => (lane v L).setWidth 64
  | x, _ => x.wide

/-- The float value of an operand's word: FTZ, ABS and NEG applied (R88, R398, R460). ABS comes before NEG; A has bits 18 and
19, B bits 16 and 17. -/
def Ctx.fmod (c : Ctx) (f : FFmt) (isB : Bool) (x : Nat) : FVal :=
  let v := readF f (c.modBit 12) x
  let v := if c.modBit (if isB then 16 else 18) then v.abs else v
  if c.modBit (if isB then 17 else 19) then v.neg else v

/-! ### Tags -/

/-- The tag that an operand carries, if it names a register or latch. -/
def tagOf (c : Ctx) (o : Opnd) : Option (BitVec 4) :=
  let n := o.sel.toNat
  if n < 0x80 then some (c.w.vreg (o.reg c)).tag
  else if 0xFC ≤ n && n ≤ 0xFE then some (vget c.path.latches (n - 0xFC) Latch.empty).tag
  else none

/-- The operand, where it carries a tag, must carry one of those listed; the first is the expected one (R65). -/
def need (c : Ctx) (o : Opnd) (ok : List (BitVec 4)) : List TagReq :=
  match tagOf c o with
  | none => []
  | some t => [{ role := o.role, expected := ok.headD 0, found := t, ok := ok.contains t }]

/-- Every register of an operand's group must carry a tag. -/
def needGroup (c : Ctx) (o : Opnd) (ok : List (BitVec 4)) : List TagReq :=
  if o.isVec then (List.range o.regs).map fun j =>
    let t := (c.w.vreg (o.reg c + j)).tag
    { role := o.role, expected := ok.headD 0, found := t, ok := ok.contains t }
  else need c o ok

/-- The type of an instruction whose opcode fixes no signedness (R484): N32 where the first tagged operand of A and B is N32, else
I32. -/
def intType (c : Ctx) (a b : BitVec 8) : BitVec 4 :=
  match tagOf c (opA a), tagOf c (opB b) with
  | some t, _ => if t == 5 then 5 else 4
  | none, some t => if t == 5 then 5 else 4
  | none, none => 4

/-! ### Results -/

/-- Pushes a result into the issuing path's latches, undefined in the lanes that did not act (R66). -/
def Wave.pushLatch (w : Wave) (p : Nat) (tag : BitVec 4) (acting : Word) (v : Lanes) : Wave :=
  { w with div := w.div.setPath p ((w.div.path p).push tag v (~~~acting)) }

/-- What the bound check of one lane finds: the lane as written, how many elements are out of range. -/
def boundLane (draws site code : Nat) (action : Nat) (lo hi : Elem) (w : Word) : Word × Nat :=
  let side (j : Nat) : Nat := boundSide draws (site + 4 * j) lo hi (readElem code false (elemOf code w j))
  let n := ((List.range (elemsOf code)).filter fun j => side j != 0).length
  let clamped := laneOfElems code fun j =>
    if side j == 1 then boundAs draws (site + 4 * j + 2) code true lo
    else if side j == 2 then boundAs draws (site + 4 * j + 3) code false hi
    else elemOf code w j
  (if action == 2 && n != 0 then clamped else w, n)

/-- Adds to an entry's HITS, which saturates (R102). -/
def addHits (e : BitVec 128) (n : Nat) : BitVec 128 :=
  let h := min (bits e.toNat 96 32 + n) 0xFFFFFFFF
  (e.setWidth 96).setWidth 128 ||| (BitVec.ofNat 128 h <<< 96)

/-- FAULTSTAT after an element was flagged or clamped (R104, R333). -/
def boundFlag (f : Dword) (index : Nat) : Dword :=
  (f &&& ~~~0xFF00#64) ||| 1 ||| (BitVec.ofNat 64 index <<< 8)

/-- A bound check of result registers (R103, R104): the registers as written, the lanes with an element out of range, the
state with HITS and the bound flag. -/
def boundCheck (s : State) (c : Ctx) (mask : Word) (outs : List (BitVec 4 × Lanes)) :
    List (BitVec 4 × Lanes) × Word × Nat × State :=
  let e := boundEntry s c
  if c.ext.has 5 && boundEnabled e then
    let kind := bits e.toNat 74 2
    let lo := boundVal kind (boundLo e)
    let hi := boundVal kind (boundHi e)
    let action := boundAction e (c.ext.payload 5)
    let res (r L : Nat) (o : BitVec 4 × Lanes) : Word × Nat :=
      if mask.getLsbD L then boundLane s.draws (100000 + (r * 32 + L) * 64) o.1.toNat action lo hi (lane o.2 L) else (lane o.2 L, 0)
    let news := outs.mapIdx fun r o => (o.1, lanesOf fun L => (res r L o).1)
    let counts : List (List Nat) := outs.mapIdx fun r o => (List.range 32).map fun L => (res r L o).2
    let hit := maskOf fun L => counts.any fun l => l.getD L 0 != 0
    let n := (counts.map List.sum).sum
    let index := bits (c.ext.payload 5).toNat 14 6
    let s := { s with bound := tset 0 s.bound (c.conv.desc.bndBase + index) (addHits e n) }
    let s := if n != 0 && action != 3 then s.modWave c.key fun w => { w with faultstat := boundFlag w.faultstat index } else s
    (news, hit, (if action == 3 then n else 0), s)
  else (outs, 0, 0, s)

/-- A wave that has written results to the registers from `d` on, in the lanes of a mask (R40, R64). -/
def Wave.writeResults (w : Wave) (d : Nat) (mask : Word) (outs : List (BitVec 4 × Lanes)) : Wave :=
  (outs.mapIdx fun j o => (j, o)).foldl (fun w e => w.writeV (d + e.1) mask e.2.1 e.2.2) w

/-- A wave whose path has received the first of an instruction's results in its latches (R66). -/
def Wave.pushFirst (w : Wave) (p : Nat) (mask : Word) : List (BitVec 4 × Lanes) → Wave
  | o :: _ => w.pushLatch p o.1 mask o.2
  | [] => w

/-- The end of an ALU instruction with vector results (R40, R64, R66, R67): the bound check of the first `checked` result registers in the active
lanes (R103), the writes from register `d` on in the lanes of `mask` (none where WS is 1), and the latch. -/
def aluDone (s : State) (c : Ctx) (ws : Bool) (d checked : Nat) (mask : Word) (outs : List (BitVec 4 × Lanes)) : Res :=
  let r := boundCheck s c (mask &&& c.active) (outs.take checked)
  let outs := r.1 ++ outs.drop checked
  let s' := r.2.2.2
  if r.2.2.1 != 0 then
    .trapIn s' { cause := 0x0A, sub := 0, addr := BitVec.ofNat 64 (bits (c.ext.payload 5).toNat 14 6), lanes := some r.2.1, nextPc := false }
  else .next (s'.modWave c.key fun w => (if ws then w else w.writeResults d mask outs).pushFirst c.p mask outs)

/-- The end of a scalar ALU instruction (R395, R531): the register, unless WS is 1 (R522), and the latch.
The result fills every lane of the latch (DEDUCED, log 26). -/
def scalarDone (s : State) (c : Ctx) (ws : Bool) (d : Nat) (x : Dword) : Res :=
  .next (s.modWave c.key fun w => (if ws then w else w.setSreg d x).pushLatch c.p 0xF 0xFFFFFFFF (scalarLanes x))

/-- The end of a vector compare (R459). -/
def compareDone (s : State) (c : Ctx) (pd : Nat) (m : BitVec 1) (cond : Word) : Res :=
  .next (s.modWave c.key fun w =>
    (w.setPreg pd (predAfter (w.preg pd) c.acting cond m)).pushLatch c.p 0 c.acting
      (lanesOf fun L => if cond.getLsbD L then 0xFFFFFFFF else 0))

/-! ### The shapes of ALU instructions -/

/-- The EXT kinds of format A (R400): IMM, IMMH, MOD, SCHED and BND. -/
def kindsA : BitVec 7 := 0x37

/-- The EXT kinds of format P. -/
def kindsP : BitVec 7 := 0x17

/-- The EXT kinds of format S. -/
def kindsS : BitVec 7 := 0x13

/-- What the checks of a format A instruction with one result register need. -/
def specA (opnds : List Opnd) (mods : BitVec 20) (tags : Ctx → List TagReq) (result : Ctx → BitVec 4) : IssueSpec :=
  { kinds := kindsA, modMask := modPlain ||| mods, opnds := opnds, tags := tags, resultTag := result }

/-- A one-source vector instruction: `f` gives each lane's result. -/
def vector1 (i : Instr) (w : BitVec 1) (d : BitVec 7) (a : BitVec 8) (mods : BitVec 20) (ok : List (BitVec 4)) (tag : BitVec 4)
    (read : Source → Nat → Word) (f : Ctx → Word → Word) (s : State) : Host.Outcome State Fault Refusal :=
  run i (specA [opD d, opA a] mods (fun c => need c (opA a) ok) (fun _ => tag)) s fun c =>
    let x := source s c (opA a)
    aluDone s c (w == 1) ((opD d).reg c) 1 c.acting [(tag, lanesOf fun L => f c (read x L))]

/-- A two-source vector instruction of one result tag. -/
def vector2 (i : Instr) (w : BitVec 1) (d : BitVec 7) (a b : BitVec 8) (mods : BitVec 20) (okA okB : List (BitVec 4))
    (tag : BitVec 4) (read : Source → Nat → Word) (f : Ctx → Word → Word → Word) (s : State) : Host.Outcome State Fault Refusal :=
  run i (specA [opD d, opA a, opB b] mods (fun c => need c (opA a) okA ++ need c (opB b) okB) (fun _ => tag)) s fun c =>
    let x := source s c (opA a)
    let y := source s c (opB b)
    aluDone s c (w == 1) ((opD d).reg c) 1 c.acting [(tag, lanesOf fun L => f c (read x L) (read y L))]

/-- A three-source vector instruction: the old value of D is its third source. -/
def vector3 (i : Instr) (w : BitVec 1) (d : BitVec 7) (a b : BitVec 8) (mods : BitVec 20) (okD okA okB : List (BitVec 4))
    (tag : BitVec 4) (read : Source → Nat → Word) (f : Ctx → Word → Word → Word → Word) (s : State) :
    Host.Outcome State Fault Refusal :=
  run i (specA [opD d, opA a, opB b] mods (fun c => need c (opD d) okD ++ need c (opA a) okA ++ need c (opB b) okB)
    (fun _ => tag)) s fun c =>
    let x := source s c (opA a)
    let y := source s c (opB b)
    let z := regLanes s c ((opD d).reg c)
    aluDone s c (w == 1) ((opD d).reg c) 1 c.acting [(tag, lanesOf fun L => f c (read x L) (read y L) (lane z L))]

/-- A two-source integer instruction whose type is that of its operands (R484). -/
def vectorTyped (i : Instr) (w : BitVec 1) (d : BitVec 7) (a b : BitVec 8) (readsD : Bool) (f : Word → Word → Word → Word)
    (s : State) : Host.Outcome State Fault Refusal :=
  run i (specA [opD d, opA a, opB b] 0
    (fun c => (if readsD then need c (opD d) [intType c a b] else []) ++ need c (opA a) [intType c a b] ++
      need c (opB b) [intType c a b])
    (fun c => intType c a b)) s fun c =>
    let x := source s c (opA a)
    let y := source s c (opB b)
    let z := regLanes s c ((opD d).reg c)
    aluDone s c (w == 1) ((opD d).reg c) 1 c.acting
      [(intType c a b, lanesOf fun L => f (x.bits L) (y.bits L) (lane z L))]

/-- A scalar ALU instruction of two operands (R530, R531). -/
def scalar2 (i : Instr) (d : BitVec 6) (a b : BitVec 8) (f : Dword → Dword → Dword) (s : State) :
    Host.Outcome State Fault Refusal :=
  run i { kinds := kindsS, opnds := [opS 1 a, opS 2 b] } s fun c =>
    scalarDone s c false d.toNat (f (source s c (opS 1 a)).wide (source s c (opS 2 b)).wide)

/-- Every tag. -/
def anyTag : List (BitVec 4) := (List.range 16).map (BitVec.ofNat 4)

end Sys2Proof.Machine
end

