-- ==== Sys2Proof/Machine/Cache.lean ====
section
/-! DEFINITION. Where the bytes of memory stand: the home, the stacks' copies, the L1 copies; reading and writing them (R108, R139,
R140, R152, R163). -/

namespace Sys2Proof.Machine

/-! ### Keys -/

/-- The key of a stack's copy of a line. -/
def copyKey (line stack : Nat) : Nat := 4 * line + stack

/-- The key of a core's L1 copy of a line. -/
def l1Key (line core : Nat) : Nat := 512 * line + core

/-- The place of a line of memory, for watching it (R197). -/
def memPlace (line : Nat) : Place := { space := .mem, owner := 0, unit := line }

/-- The address is in far or near memory of this package. -/
def isLocal (s : State) (a : Nat) : Bool := paPkg a == s.pkg && hasMode a

/-- The stack homes the address (R118, R119). -/
def isHome (s : State) (stack a : Nat) : Bool := isLocal s a && homeStack a == stack

/-- The region of an address is being switched, and its accesses are held at the home (R153). -/
def isSwitching (s : State) (a : Nat) : Bool := isLocal s a && (regionWord s (regionNumber a)).getLsbD 3

/-- The location is in a hardware-coherent region, of whatever package (R139): of another one as the REGION records applied here say. -/
def lineCoherent (s : State) (a : Nat) : Bool :=
  if paPkg a == s.pkg then coherentHere s a else hasMode a && tgetD s.modes (a / 2 ^ 26) false

/-- A stack's copy of a line. -/
def copyOf (s : State) (line stack : Nat) : Option Copy := tget s.copies (copyKey line stack)

/-- A copy whose bytes have all been read from elsewhere, none dirty. -/
def Copy.clean (state : Nat) (bytes : Table Byte) : Copy := { state := state, bytes := bytes, dirty := 0, lease := none }

/-- A line's 128 bytes as a table by offset. -/
def lineTable (f : Nat → Byte) : Table Byte :=
  (List.range 128).filterMap fun i => if f i == 0 then none else some (i, f i)

/-! ### The Vat status words (R299) -/

/-- The 16 bytes of a slot's status word (R299). -/
def slotWord (i : Nat) (v : VatSlot) : Nat :=
  pack [(96, v.generation.toNat * 4096 + i), (64, v.subMask.toNat), (56, v.arrivedMask.toNat), (52, v.state), (0, v.seq.toNat)]

/-- Free slot headers (R299). -/
def freeSlots (s : State) : Nat := Config.vatSlots - (s.vat.slots.filter fun e => e.2.state != 0).length

/-- A byte of the Vat status words (R299). -/
def vatStatusByte (s : State) (off : Nat) : Byte :=
  let v := s.vat
  let at4 (x o : Nat) : Byte := BitVec.ofNat 8 (x / 2 ^ (8 * o))
  if off < 4 then at4 (freeSlots s) off
  else if 0x80 ≤ off && off < 0x84 then at4 v.freePages (off - 0x80)
  else if 0x100 ≤ off && off < 0x110 then
    at4 (pack [(0, v.late.toNat), (32, v.rejected.toNat), (64, v.duplicate.toNat), (96, v.refused.toNat)]) (off - 0x100)
  else if 0x10000 ≤ off && off < 0x20000 then
    let i := (off - 0x10000) / 16
    at4 (slotWord i (tgetD v.slots i VatSlot.free)) (off % 16)
  else 0

/-! ### Reading -/

/-- A byte as the home holds it: in the home L2, else in memory (R108). -/
def homeByte (s : State) (a : Nat) : Byte :=
  if isLocal s a then
    match copyOf s (lineOf a) (homeStack a) with
    | some c => byteAt c.bytes (a % 128)
    | none => byteAt s.mem a
  else byteAt s.mem a

/-- The stack that holds a line in M or O (R140). -/
def ownerOf (s : State) (line : Nat) : Option Nat :=
  (List.range 4).find? fun k => match copyOf s line k with | some c => decide (2 ≤ c.state) && c.lease.isNone | none => false

/-- A line's data on its way: what a holder has sent for the request that is open (R144), or a write-back that carries current data (R145). -/
def inFlight (s : State) (line : Nat) : Option (Table Byte) :=
  match tget s.home line with
  | none => none
  | some h => match h.openReq.bind (·.data) with
    | some t => some t
    | none => (h.writeback.find? fun w => w.2.2).map fun w => w.2.1

/-- A byte's newest value: in a hardware-coherent region that of the owner, else that on its way, else that of the home. -/
def currentByte (s : State) (a : Nat) : Byte :=
  if coherentHere s a then
    match (ownerOf s (lineOf a)).bind fun k => copyOf s (lineOf a) k with
    | some c => byteAt c.bytes (a % 128)
    | none => match inFlight s (lineOf a) with
      | some t => byteAt t (a % 128)
      | none => homeByte s a
  else if paPkg a == s.pkg && paRegion a == 3 then vatStatusByte s (paOffset a)
  else homeByte s a

/-- `n` bytes of memory from an address, each at its newest value. -/
def peekBytes (s : State) (a n : Nat) : List Byte := (List.range n).map fun i => currentByte s (a + i)

/-- The number in `n` bytes of memory. -/
def peekNat (s : State) (a n : Nat) : Nat := leNat (peekBytes s a n)

/-- A byte as a load of a core sees it once its copies are in place: the core's L1, its stack's copy, the home (R108). CACHE 1 and 2
keep the line out of L1 and RDC. -/
def viewByte (s : State) (core a cache : Nat) : Byte :=
  if paPkg a == s.pkg && paRegion a == 3 then vatStatusByte s (paOffset a)
  else if cache != 0 then currentByte s a
  else match tget s.l1 (l1Key (lineOf a) core) with
  | some t => byteAt t (a % 128)
  | none => match copyOf s (lineOf a) (coreStack core) with
    | some c => byteAt c.bytes (a % 128)
    | none => homeByte s a

/-! ### Invalidation -/

/-- Removes a line from the L1s of the cores that `p` selects. -/
def dropL1 (s : State) (line : Nat) (p : Nat → Bool) : State :=
  { s with l1 := s.l1.filter fun e => !(e.1 / 512 == line && p (e.1 % 512)) }

/-- A stack loses a line, and with it every L1 of the stack (R140). -/
def dropCopy (s : State) (line stack : Nat) : State :=
  dropL1 { s with copies := tdel s.copies (copyKey line stack) } line fun c => coreStack c == stack

/-- Sets a stack's copy. -/
def setCopy (s : State) (line stack : Nat) (c : Copy) : State := { s with copies := tput s.copies (copyKey line stack) c }

/-! ### Writing -/

/-- Changes every byte table that holds a line's data on its way. -/
def OpenReq.poke (r : OpenReq) (o : Nat) (b : Byte) : OpenReq := { r with data := r.data.map fun t => setByte t o b }

/-- A byte written at the home, and in a hardware-coherent region in every copy at the same time (DEDUCED, log 28): the point at which every
later reader sees it. -/
def pokeByte (s : State) (a : Nat) (b : Byte) : State :=
  let line := lineOf a
  let o := a % 128
  let upd (c : Copy) : Copy := { c with bytes := setByte c.bytes o b }
  let s := { s with mem := setByte s.mem a b }
  if coherentHere s a then
    let s := { s with
      copies := tmap s.copies fun k c => if k / 4 == line then upd c else c
      home := tmod s.home line fun h => { h with
        openReq := h.openReq.map fun r => r.poke o b
        writeback := h.writeback.map fun w => (w.1, setByte w.2.1 o b, w.2.2) } }
    dropL1 s line fun _ => true
  else if isLocal s a then { s with copies := tmod s.copies (copyKey line (homeStack a)) upd }
  else s

/-- Whether a write to the line is a change for those who watch it: memory of this package (R197, R201). -/
def noteWrite (s : State) (writer : Option Nat) (line : Nat) : State :=
  if paPkg (128 * line) == s.pkg then markChanged s writer (memPlace line) else s

/-- Bytes written at ascending addresses at their homes. -/
def pokeBytes (s : State) (a : Nat) (bs : List Byte) : State :=
  (bs.mapIdx fun i b => (i, b)).foldl (fun s e => pokeByte s (a + e.1) e.2) s

/-- The lines that `n` bytes at an address touch. -/
def linesOf (a n : Nat) : List Nat :=
  if n == 0 then [] else (List.range ((a + n - 1) / 128 - a / 128 + 1)).map (· + a / 128)

/-- Bytes written by an agent of the base die or from outside, performed at the home; every watcher is told (R201). -/
def agentWrite (s : State) (writer : Option Nat) (a : Nat) (bs : List Byte) : State :=
  (linesOf a bs.length).foldl (fun s l => noteWrite s writer l) (pokeBytes s a bs)

/-! ### Packets (R181, R252, R257) -/

/-- The lines that a packet touches at its destination. -/
def payloadLines : Payload → List Nat
  | .store cells => dedup (cells.map fun x => lineOf x.1)
  | .atomic _ _ _ items => dedup (items.map fun x => lineOf x.1)
  | _ => []

/-- The number of a flow of this package (R181). -/
def flowKey (ctx stream dst : Nat) : Nat := (ctx * 16 + stream) * 256 + dst

/-- The class that a context gives a stream (R257). -/
def streamClass (d : Descriptor) (stream : Nat) : Nat := bits d.classmap.toNat (2 * stream) 2

/-- Sends a packet of a flow, numbered in the flow's order (R181). -/
def sendPacket (s : State) (wave : Option Nat) (pc : Dword) (ctx dst stream cls : Nat) (ordered : Bool) (horizon : Dword)
    (p : Payload) (loss : Option Report := none) (back : Option Nat := none) (convoy : Option Nat := none)
    (poison : Bool := false) : State :=
  let f := s.fabric
  let key := flowKey ctx stream dst
  let seq := tgetD f.nextSeq key 0
  let packet : Packet := { tag := f.nextTag, src := s.pkg, dst := dst, context := ctx, stream := stream, cls := cls, seq := seq,
                           ordered := ordered, horizon := horizon, payload := p, crcOk := true, poison := poison }
  let x : SentPacket := { packet := packet, stage := 0, sentAt := s.clock, backoff := 0, backing := false, wave := wave, pc := pc,
                          loss := loss, back := back, convoy := convoy, first := s.clock }
  { s with fabric := { f with sent := f.sent ++ [x], nextSeq := tput f.nextSeq key (seq + 1), nextTag := f.nextTag + 1 } }

/-- Whether a package has been declared lost (R269). -/
def isLost (s : State) (p : Nat) : Bool := s.fabric.lost.contains p

/-! ### Software-managed copies (R152) -/

/-- The dirty bytes of a copy, by offset. -/
def Copy.dirtyCells (c : Copy) : List (Nat × Byte) := (bitsSet c.dirty).map fun i => (i, byteAt c.bytes i)

/-- A line is managed by software, or belongs to the host: no directory tracks its copies (R139, R157). -/
def isSoftware (s : State) (a : Nat) : Bool := paPkg a == s.pkg && ((hasMode a && !coherentHere s a) || paRegion a == 8)

/-- The key under which a line stands in the list of poisoned lines whose memory at the home has the error. -/
def homePoison (line : Nat) : Nat := 2 ^ 62 + line

/-- Dirty bytes merged into the home by byte mask (R152). A merge of a part of a line whose memory has an uncorrectable error is reported (R326): no copy
names a wave, and the record stands alone (DESIGN CHOICE, log 45). -/
def mergeHome (s : State) (line : Nat) (cells : List (Nat × Byte)) : State :=
  if cells.isEmpty then s
  else
    let s := noteWrite (cells.foldl (fun s e => pokeByte s (128 * line + e.1) e.2) s) none line
    if s.poisoned.contains (homePoison line) && decide (cells.length < 128) then
      logFault s { FaultInfo.blank with addr := BitVec.ofNat 64 (128 * line), cause := 0x09, sub := 2, exited := true }
    else s

/-- A stack's write-back to another package (R152), in a flow of its own in class 0 (DEDUCED, log 82). -/
def backSend (s : State) (line stack : Nat) (cells : List (Nat × Byte)) : State :=
  let dst := paPkg (128 * line)
  if cells.isEmpty || isLost s dst then s
  else sendPacket s none 0 4096 dst 0 0 true 0 (.store (cells.map fun x => (128 * line + x.1, x.2))) none (some stack) none
    (s.poisoned.contains line)

/-- A write-back of a stack to another package has not committed there (R164). -/
def backsOut (s : State) (stack : Nat) : Bool := s.fabric.sent.any fun p => p.back == some stack && decide (p.stage < 2)

/-- A stack's copy of a line is cleaned: its dirty bytes are merged into the home (R152), those of another package's line by a packet. -/
def cleanCopy (s : State) (line stack : Nat) : State :=
  match copyOf s line stack with
  | none => s
  | some c =>
    if c.dirty == 0 then s else
    let s := setCopy s line stack { c with dirty := 0 }
    if paPkg (128 * line) == s.pkg then mergeHome s line c.dirtyCells else backSend s line stack c.dirtyCells

/-- A lease message sent. The fabric below these messages is not modelled (DESIGN CHOICE, log 37). -/
def sendLease (s : State) (m : LeaseMsg) : State := { s with fabric := { s.fabric with leaseMail := s.fabric.leaseMail ++ [m] } }

/-- The holder gives a leased line up (R149, R150): a message, with the dirty bytes of a write lease; the dirty bytes of a line managed by software
are written back (R152). -/
def giveUp (s : State) (line stack kind : Nat) : State :=
  match copyOf s line stack with
  | none => s
  | some c =>
    let soft := !lineCoherent s (128 * line)
    let s := if soft then cleanCopy s line stack else s
    dropCopy (sendLease s { package := paPkg (128 * line), line := line, kind := kind, dirty := if soft then [] else c.dirtyCells
                            poison := s.poisoned.contains line }) line stack

/-- A stack drops a copy that no directory tracks, its dirty bytes written back (R152). -/
def leaveCopy (s : State) (line stack : Nat) : State :=
  if (copyOf s line stack).any fun c => c.lease.isSome then giveUp s line stack 1 else dropCopy (cleanCopy s line stack) line stack

/-- The lines of which a stack holds a copy. -/
def stackLines (s : State) (stack : Nat) : List Nat := (s.copies.filter fun e => e.1 % 4 == stack).map fun e => e.1 / 4

/-- The non-coherent lines that a clean at a scope reaches (R173): software-managed regions from package scope, host memory as well
at system scope. -/
def scopeCleans (s : State) (scope : Nat) (line : Nat) : Bool :=
  let a := 128 * line
  (decide (3 ≤ scope) && hasMode a && !lineCoherent s a) || (scope == 5 && paRegion a == 8)

/-- The write-backs of a release at a scope (R173). -/
def cleanStack (s : State) (stack scope : Nat) : State :=
  (stackLines s stack).foldl (fun s l => if scopeCleans s scope l then cleanCopy s l stack else s) s

/-- An engine's release (R173, R178): it writes back what its stack holds, and goes on once what went to other packages has committed there (R164). -/
def withRelease (s : State) (stack scope : Nat) (body : State → State) : State :=
  let t := cleanStack s stack scope
  if scope < 3 || !backsOut t stack then body t
  else if t.fabric.sent.length == s.fabric.sent.length then s else t

/-- The invalidation of an acquire at a scope (R173): the non-coherent lines of the core's L1, and, from package scope, the stack's RDC
copies that the scope reaches, cleaned first. -/
def acquireClean (s : State) (core scope : Nat) : State :=
  if scope == 0 then s else
  let s := { s with l1 := s.l1.filter fun e => !(e.1 % 512 == core && !coherentHere s (e.1 / 512 * 128)) }
  if scope < 3 then s else
  let stack := coreStack core
  (stackLines s stack).foldl (fun s l =>
    if scopeCleans s scope l && !isHome s stack (128 * l) then leaveCopy s l stack else s) s

end Sys2Proof.Machine
end

