-- ==== Sys2Proof/Machine/Home.lean ====
section
/-! DEFINITION. The home of a line of a hardware-coherent region (R140 to R151): the directory, the requests it serves one at a time,
the messages that it and the holders exchange, and leases to other packages. -/

namespace Sys2Proof.Machine

/-! ### The directory -/

/-- The home's state for a line. -/
def State.homeLine (s : State) (line : Nat) : HomeLine := tgetD s.home line HomeLine.idle

/-- Sets the home's state for a line. -/
def State.setHome (s : State) (line : Nat) (h : HomeLine) : State := { s with home := tset HomeLine.idle s.home line h }

/-- The home stack of a line. -/
def lineHome (line : Nat) : Nat := homeStack (128 * line)

/-- The snoop-filter entry of a line, or that of a line with no copies (R141). -/
def filterOf (s : State) (line : Nat) : Filter := tgetD s.filters line { holders := 0, owner := none, order := 0 }

/-- One bit of a set of stacks. -/
def stackBit (k : Nat) : BitVec 4 := 1#4 <<< k

/-- The number of a line among those of its home stack: its address without the bits that select the stack (R118, R119). -/
def stackLine (line : Nat) : Nat :=
  let o := paOffset (128 * line)
  if paRegion (128 * line) == 0 then o / 2 ^ 14 * 32 + o / 128 % 32 else o % 2 ^ 33 / 128

/-- A line's set in its home's snoop filter (R141; DESIGN CHOICE, log 30). -/
def filterSet (line : Nat) : Nat := stackLine line % 32768

/-- The entries of the set that a line of its home falls in. -/
def filterPeers (s : State) (line : Nat) : List (Nat × Filter) :=
  s.filters.filter fun e => lineHome e.1 == lineHome line && filterSet e.1 == filterSet line

/-- The entry allocated longest ago in a full set, which must make room for a line with none (R142). -/
def filterVictim (s : State) (line : Nat) : Option Nat :=
  let peers := filterPeers s line
  if (tget s.filters line).isSome || peers.length < 16 then none
  else (peers.foldl (fun (m : Option (Nat × Filter)) e => match m with
    | none => some e
    | some x => if e.2.order < x.2.order then some e else m) none).map (·.1)

/-- A line is under a write lease. -/
def hasWriteLease (s : State) (line : Nat) : Bool :=
  match tget s.leases line with
  | some l => l.write && !l.holders.isEmpty
  | none => false

/-- A request must wait for the reply or the end of leases of other packages (R150): a write lease holds up every request of another
holder, and read leases hold up a write of a hardware-coherent region. -/
def leaseBlocks (s : State) (line kind : Nat) (req : Requester) : Bool :=
  let others : List (Nat × Nat) := match tget s.leases line with
    | some l => l.holders.filter fun h => match req with | .package p _ => h.1 != p | .stack _ => true
    | none => []
  !others.isEmpty && (hasWriteLease s line || (kind != 0 && coherentHere s (128 * line)))

/-! ### Moving a line's data at the home -/

/-- A line's bytes as the home has them. -/
def homeTable (s : State) (line : Nat) : Table Byte := lineTable fun i => homeByte s (128 * line + i)

/-- The home L2 gives up its copy, writing memory where it is newer (R140). -/
def flushHome (s : State) (line : Nat) : State :=
  match copyOf s line (lineHome line) with
  | none => s
  | some c =>
    let newer := decide (2 ≤ c.state) || c.dirty != 0
    let mem := if newer then (List.range 128).foldl (fun m i => setByte m (128 * line + i) (byteAt c.bytes i)) s.mem else s.mem
    let s := { s with mem := mem }
    dropCopy s line (lineHome line)

/-- A stack evicts a line (R140, R145, R149, R152): a leased line is released; dirty bytes of software-managed and host memory are merged
into the home; an M or O copy goes back by WB; the home L2 writes memory; E and S copies are dropped silently. -/
def evictLine (s : State) (stack line : Nat) : State :=
  match copyOf s line stack with
  | none => s
  | some c =>
    let s := { s with epoch := s.epoch + 1 }
    let a := 128 * line
    if c.lease.isSome || !coherentHere s a then leaveCopy s line stack
    else if isHome s stack a then flushHome s line
    else if 2 ≤ c.state then
      let h := s.homeLine line
      dropCopy (s.setHome line { h with writeback := h.writeback ++ [(stack, c.bytes, true)] }) line stack
    else dropCopy s line stack

/-- The lines that a stack's L2 holds, or its RDC (R15). -/
def heldLines (s : State) (stack : Nat) (home : Bool) : List Nat := (stackLines s stack).filter fun l => isHome s stack (128 * l) == home

/-- Makes room in a stack's L2 or RDC for a line that it does not hold (R15, R35): in a full one some line is evicted, the spec does not say which
(DESIGN CHOICE, log 83). -/
def makeRoom (s : State) (line stack : Nat) : State :=
  let home := isHome s stack (128 * line)
  let l := heldLines s stack home
  if (copyOf s line stack).isSome || l.length < (if home then Config.l2Lines else Config.rdcLines) then s
  else evictLine { s with draws := s.draws + 1 } stack (l.getD ((Config.freeWord s.draws 41 0).toNat % l.length) line)

/-- A stack's L2 or RDC takes a line in. -/
def addCopy (s : State) (line stack : Nat) (c : Copy) : State := setCopy (makeRoom s line stack) line stack c

/-- Data returned to the home is placed in its L2 (R142): in state M, or as O while other stacks may hold the line (R140). -/
def placeHome (s : State) (line state : Nat) (t : Table Byte) : State :=
  addCopy s line (lineHome line) { state := state, bytes := t, dirty := BitVec.allOnes 128, lease := none }

/-- The home's own copy while others hold the line: no longer the only one (R140). -/
def shareHome (s : State) (line : Nat) : State :=
  match copyOf s line (lineHome line) with
  | some c => setCopy s line (lineHome line) { c with state := if c.state == 3 then 2 else if c.state == 1 then 0 else c.state }
  | none => s

/-! ### Serving a request -/

/-- The requester as a stack of this package. -/
def reqStack : Requester → Option Nat
  | .stack k => some k
  | .package _ _ => none

/-- A write-back in flight of a stack that still carries current data (R145). -/
def flightOf (s : State) (line stack : Nat) : Option (Table Byte) :=
  ((s.homeLine line).writeback.find? fun w => w.1 == stack && w.2.2).map fun w => w.2.1

/-- Opens the eviction of a filter entry: BINV to every stack that it names (R142). -/
def openEviction (s : State) (line : Nat) : State :=
  let f := filterOf s line
  let h := s.homeLine line
  let r : OpenReq := { kind := 3, req := .stack (lineHome line), orders := f.holders, acks := f.holders, forward := none,
                       granted := 0, data := none, delivered := true, complete := true }
  s.setHome line { h with openReq := some r }

/-- The filter after a request of a stack is served (R144): who may hold the line, and who may hold it dirty. A sole clean copy may
turn dirty without asking, and counts as the owner (DEDUCED, log 31). The home's own copy is not listed. -/
def setFilter (s : State) (line : Nat) (holders : BitVec 4) (owner : Option Nat) : State :=
  let others := holders &&& ~~~stackBit (lineHome line)
  let order := match tget s.filters line with | some f => f.order | none => s.nextId
  let s := { s with nextId := s.nextId + 1 }
  let f : Filter := { holders := others, owner := if owner == some (lineHome line) then none else owner, order := order }
  if others == 0 then { s with filters := tdel s.filters line } else { s with filters := tput s.filters line f }

/-- Starts the service of a request at an idle home (R144, R145): who must act, and what the requester is to be given. -/
def serve (s : State) (line kind : Nat) (req : Requester) (since : Nat) : State :=
  let h := s.homeLine line
  let f := filterOf s line
  let me : BitVec 4 := match req with | .stack k => stackBit k | .package _ _ => 0
  let held := match req with | .stack k => (copyOf s line k).isSome | .package _ _ => false
  let kind := if kind == 2 && !held then 1 else kind
  let owner := f.owner.filter fun o => stackBit o &&& me == 0
  let homeBit := if (copyOf s line (lineHome line)).isSome && me != stackBit (lineHome line) then stackBit (lineHome line) else 0
  if kind == 0 then
    let alone := f.holders &&& ~~~me == 0 && (tget s.leases line).isNone
    let isPkg := match req with | .package _ _ => true | .stack _ => false
    match owner with
    | some o =>
      let r : OpenReq := { kind := 0, req := req, orders := stackBit o, acks := stackBit o, forward := some o, granted := 0,
                           data := none, delivered := false, complete := true, since := since }
      setFilter (s.setHome line { h with openReq := some r }) line (f.holders ||| me) f.owner
    | none =>
      let data := homeTable s line
      let granted := if alone && !isPkg then 1 else 0
      let s := if homeBit == 0 then s else if granted == 1 then flushHome s line else shareHome s line
      let r : OpenReq := { kind := 0, req := req, orders := 0, acks := 0, forward := none, granted := granted, data := some data,
                           delivered := false, complete := true, since := since }
      setFilter (s.setHome line { h with openReq := some r }) line (f.holders ||| me)
        (if granted == 1 then reqStack req else none)
  else
    let targets := (f.holders ||| homeBit) &&& ~~~me
    let data := if kind == 2 then none else if owner.isSome then none else some (homeTable s line)
    let targets := targets &&& ~~~stackBit (lineHome line)
    let s := if homeBit != 0 then flushHome s line else s
    let r : OpenReq := { kind := kind, req := req, orders := targets, acks := targets,
                         forward := if kind == 1 then owner else none, granted := 3, data := data,
                         delivered := kind == 2, complete := false, since := since }
    setFilter (s.setHome line { h with openReq := some r }) line me (reqStack req)

/-- The holders that the home must ask to give their leases up before it serves a request, and has not asked (R150). -/
def unasked (s : State) (line kind : Nat) (req : Requester) : List Nat :=
  if !leaseBlocks s line kind req then []
  else match tget s.leases line with
    | none => []
    | some l =>
      let mine : Option Nat := match req with | .package p _ => some p | .stack _ => none
      (l.holders.map (·.1)).filter fun p => some p != mine && !l.asked.contains p

/-- The home asks the other holders of a line to give up their leases (R150): RECALL of a write lease, INV of read leases, once each. -/
def recallHolders (s : State) (line kind : Nat) (req : Requester) : State :=
  let ask := unasked s line kind req
  if ask.isEmpty then s
  else
    let code := if hasWriteLease s line then 3 else 4
    let s := { s with leases := tmod s.leases line fun l => { l with asked := l.asked ++ ask } }
    ask.foldl (fun s p => sendLease s { package := p, line := line, kind := code, dirty := [] }) s

/-- What holds a request at the home beside leases (R145, R153, R185): the switching of its region, a write-back in flight of the stack that asks, or
an arrival stamped below its horizon that has not committed. -/
def requestHeld (s : State) (line : Nat) (req : Requester) : Bool :=
  isSwitching s (128 * line) || match req with
    | .stack k => (flightOf s line k).isSome
    | .package _ h => s.fabric.arrivals.any fun a => decide (a.stamp.toNat < h)

/-- Serves the first waiting request of a line whose home is idle, unless it is held, a lease must end first, or a filter entry must be evicted to make
room (R142, R144, R150, R153). -/
def serveHead (s : State) (line : Nat) : State :=
  let h := s.homeLine line
  match h.openReq, h.waiting with
  | none, (kind, req, since) :: rest =>
    if requestHeld s line req then s
    else if leaseBlocks s line kind req then recallHolders s line kind req
    else
      let room := match req with
        | .stack k => if k == lineHome line then none else filterVictim s line
        | .package _ _ => none
      match room with
      | some v => if (s.homeLine v).openReq.isNone then openEviction s v else s
      | none => serve (s.setHome line { h with waiting := rest }) line kind req since
  | _, _ => s

/-- Serves what can be served at every line. -/
def serveAll (s : State) : State := s.home.foldl (fun s e => serveHead s e.1) s

/-- Queues a request at the home, in order of arrival (R144). -/
def enqueue (s : State) (line kind : Nat) (req : Requester) : State :=
  let h := s.homeLine line
  serveHead (s.setHome line { h with waiting := h.waiting ++ [(kind, req, s.clock)] }) line

/-! ### The end of a request -/

/-- A request or an eviction has nothing left to wait for. -/
def OpenReq.done (r : OpenReq) : Bool := r.orders == 0 && r.acks == 0 && r.delivered && r.complete

/-- Grants a lease to a package (R147 to R149), from the receipt of its request on: at most 8 read holders or one write holder of a line, at most
65,536 entries at a home. -/
def grantLease (s : State) (line p since : Nat) (write : Bool) : State :=
  let stop := since + s.settings.leaseterm * Config.cyclesPerUs
  let mine := (s.leases.filter fun e => lineHome e.1 == lineHome line).length
  match tget s.leases line with
  | some l =>
    let asked := l.asked.filter (· != p)
    if write || l.write then
      (if l.holders.all fun h => h.1 == p then
        { s with leases := tput s.leases line { write := write, holders := [(p, stop)], asked := asked } } else s)
    else if (l.holders.filter fun h => h.1 != p).length < 8 then
      { s with leases := tput s.leases line { l with holders := (l.holders.filter fun h => h.1 != p) ++ [(p, stop)], asked := asked } }
    else s
  | none => if mine < 65536 then { s with leases := tput s.leases line { write := write, holders := [(p, stop)] } } else s

/-- A package is sent the line it has asked for (R147, R149): under a lease, with its term, or without one. -/
def answerPackage (s : State) (line p : Nat) (r : OpenReq) : State :=
  let write := r.kind != 0 && coherentHere s (128 * line)
  let t := grantLease s line p r.since write
  let granted := t.leases != s.leases
  sendLease t { package := p, line := line, kind := if !granted then 9 else if write then 8 else 7, dirty := r.data.getD [],
                term := if granted then s.settings.leaseterm else 0 }

/-- A line's bytes written to memory: data that leaves the package is kept at the home (R148; DEDUCED, log 29). -/
def keepLine (s : State) (line : Nat) (t : Table Byte) : State :=
  { s with mem := (List.range 128).foldl (fun m i => setByte m (128 * line + i) (byteAt t i)) s.mem }

/-- Closes a request that is done: the requester's copy becomes M after RDX or UPG, an evicted entry is freed, and what waits is served (R142,
R144). -/
def closeReq (s : State) (line : Nat) : State :=
  let h := s.homeLine line
  match h.openReq with
  | none => s
  | some r =>
    if !r.done then s else
    let s := s.setHome line { h with openReq := none }
    let home := lineHome line
    let s :=
      if r.kind == 3 then
        match copyOf s line home with
        | some c => setCopy { s with filters := tdel s.filters line } line home { c with state := if c.state == 2 then 3 else c.state }
        | none => { s with filters := tdel s.filters line }
      else if r.kind == 0 then s
      else
        let own : Table Byte := match r.req with
          | .stack k => match copyOf s line k with | some c => c.bytes | none => r.data.getD []
          | .package _ _ => []
        let s := dropCopy s line home
        match r.req with
        | .stack k => addCopy s line k { state := 3, bytes := if r.kind == 1 then r.data.getD [] else own, dirty := BitVec.allOnes 128, lease := none }
        | .package _ _ => match r.data with | some t => keepLine s line t | none => s
    serveAll s

/-- Changes the open request of a line. -/
def modReq (s : State) (line : Nat) (f : OpenReq → OpenReq) : State :=
  let h := s.homeLine line
  s.setHome line { h with openReq := h.openReq.map f }

/-! ### Messages -/

/-- The open request of a line has an order for a stack that it has not acted on. -/
def hasOrder (s : State) (line stack : Nat) (p : OpenReq → Bool) : Bool :=
  match (s.homeLine line).openReq with
  | some r => r.orders.getLsbD stack && p r
  | none => false

/-- A stack has acted on its order. -/
def OpenReq.acted (r : OpenReq) (stack : Nat) : OpenReq := { r with orders := r.orders &&& ~~~stackBit stack }

/-- A write-back no longer carries current data (R145). -/
def staleFlight (s : State) (line stack : Nat) : State :=
  let h := s.homeLine line
  s.setHome line { h with writeback := h.writeback.map fun w => if w.1 == stack then (w.1, w.2.1, false) else w }

/-- FWDS at the owner (R143, R144): it sends the data, keeps the line as O, or as S where it held it clean. An owner that has dropped a
clean copy leaves the home to send the data; one with a write-back in flight answers from its buffer (R145), and the home keeps
the data too (DEDUCED, log 29). -/
def actFwds (s : State) (line stack : Nat) : State :=
  match copyOf s line stack, flightOf s line stack with
  | some c, _ =>
    let s := setCopy s line stack { c with state := if 2 ≤ c.state then 2 else 0 }
    let s := if 2 ≤ c.state then s else setFilter s line (filterOf s line).holders none
    modReq s line fun r => { r.acted stack with data := some c.bytes }
  | none, some t =>
    let s := placeHome (staleFlight s line stack) line 2 t
    let s := setFilter s line ((filterOf s line).holders &&& ~~~stackBit stack) none
    modReq s line fun r => { r.acted stack with data := some t }
  | none, none =>
    let t := homeTable s line
    let s := setFilter s line ((filterOf s line).holders &&& ~~~stackBit stack) none
    modReq s line fun r => { r.acted stack with data := some t }

/-- FWDX at the owner (R143, R144): it sends the data and invalidates its copy. -/
def actFwdx (s : State) (line stack : Nat) : State :=
  match copyOf s line stack, flightOf s line stack with
  | some c, _ => modReq (dropCopy s line stack) line fun r => { r.acted stack with data := some c.bytes }
  | none, some t => modReq (staleFlight s line stack) line fun r => { r.acted stack with data := some t }
  | none, none =>
    let t := homeTable s line
    modReq s line fun r => { r.acted stack with data := some t }

/-- INV at a holder (R143): it invalidates its copy, and a write-back of it in flight carries current data no longer. -/
def actInv (s : State) (line stack : Nat) : State := modReq (dropCopy (staleFlight s line stack) line stack) line fun r => r.acted stack

/-- BINV at a holder (R142): a dirty line goes back with WB, and the copy is invalidated. -/
def actBinv (s : State) (line stack : Nat) : State :=
  let s := match copyOf s line stack with
    | some c => if 2 ≤ c.state then
        let h := s.homeLine line
        s.setHome line { h with writeback := h.writeback ++ [(stack, c.bytes, true)] } else s
    | none => s
  modReq (dropCopy s line stack) line fun r => r.acted stack

/-- WB at the home (R140, R142, R145): current data is placed in the home L2, in M where no other stack may hold the line, else as O; a write-back
that carries none is discarded. A stack that has written its dirty copy back no longer owns the line. -/
def actWb (s : State) (line stack : Nat) : State :=
  let h := s.homeLine line
  match h.writeback.find? fun w => w.1 == stack with
  | none => s
  | some w =>
    let s := s.setHome line { h with writeback := dropFirst (fun x => x.1 == stack) h.writeback }
    if !w.2.2 then serveHead s line
    else
      let f := filterOf s line
      let others := f.holders &&& ~~~stackBit stack
      let alone := others == 0 && h.openReq.isNone && (tget s.leases line).isNone
      let s := placeHome s line (if alone then 3 else 2) w.2.1
      let shared := match h.openReq with | none => true | some r => r.kind == 0
      serveHead (if shared then setFilter s line others (f.owner.filter (· != stack)) else s) line

/-- ACK at the home (R143), of a holder that has acted and whose write-back has arrived. -/
def actAck (s : State) (line stack : Nat) : State :=
  closeReq (modReq s line fun r => { r with acks := r.acks &&& ~~~stackBit stack }) line

/-- DATA at the requester (R144): the copy of a shared read is installed in the state granted; a package receives the line under a
lease where it can have one (R147, R148). -/
def actData (s : State) (line : Nat) : State :=
  match (s.homeLine line).openReq with
  | none => s
  | some r =>
    let s := modReq s line fun r => { r with delivered := true }
    let s := match r.req with
      | .stack k => if r.kind == 0 then addCopy s line k (Copy.clean r.granted (r.data.getD [])) else s
      | .package p _ => answerPackage s line p r
    closeReq s line

/-- CMP at the requester: every ACK has been collected (R144). -/
def actCmp (s : State) (line : Nat) : State := closeReq (modReq s line fun r => { r with complete := true }) line

/-! ### A whole transaction of messages -/

/-- Every message of the request that a line's home has open, one after the other. -/
def settle (s : State) (line : Nat) : State :=
  match (s.homeLine line).openReq with
  | none => s
  | some r =>
    let s := (bitsSet r.orders).foldl (fun s k =>
      if r.kind == 3 then actBinv s line k
      else if r.forward == some k then (if r.kind == 0 then actFwds s line k else actFwdx s line k)
      else actInv s line k) s
    let s := (bitsSet r.acks).foldl (fun s k => actAck (actWb s line k) line k) s
    if r.kind == 3 then s else
    let s := if r.delivered then s else actData s line
    if r.complete then s else actCmp s line

/-- The write-backs in flight of a stack reach the home. -/
def landFlights (s : State) (line stack : Nat) : State :=
  ((s.homeLine line).writeback.filter fun w => w.1 == stack).foldl (fun s _ => actWb s line stack) s

/-- A stack obtains a line of a hardware-coherent region (R146), for reading or, where `excl` holds, in M: all the messages of its
request, with the filter eviction that it may need; a write-back of its own in flight arrives first (R145). None where the home is busy
with the line or must wait. -/
def obtain (s : State) (stack line : Nat) (excl : Bool) : Option State :=
  let h := s.homeLine line
  let kind := if excl then (if (copyOf s line stack).isSome then 2 else 1) else 0
  if h.openReq.isSome || !h.waiting.isEmpty || isSwitching s (128 * line) || leaseBlocks s line kind (.stack stack) then none
  else
    let s := landFlights s line stack
    let victim := if stack == lineHome line then none else filterVictim s line
    match victim with
    | some v =>
      let hv := s.homeLine v
      if hv.openReq.isSome then none
      else some (settle (enqueue (settle (openEviction s v) v) line kind (.stack stack)) line)
    | none => some (settle (enqueue s line kind (.stack stack)) line)

/-- The state of a stack's copy allows a store without asking (R140). -/
def mayWrite (s : State) (line stack : Nat) : Bool :=
  match copyOf s line stack with
  | some c => c.state == 3 || c.state == 1
  | none => false

end Sys2Proof.Machine
end

