-- ==== Sys2Proof/Machine/Walk.lean ====
section
/-! DEFINITION. Page tables and their walk (R120 to R122), with what holds a walk at a home (R150, R153). -/

namespace Sys2Proof.Machine

/-! ### Page tables (R120 to R122) -/

/-- The levels of the walk: level, lowest VA bit, index bits (R120). -/
def walkLevels : List (Nat × Nat × Nat) := [(5, 48, 8), (4, 39, 9), (3, 30, 9), (2, 26, 4), (1, 21, 5), (0, 16, 5)]

/-- What a walk finds (R125): a leaf with its address and level, nothing mapped, a malformed entry, an uncorrectable error; or that the home of
an entry holds the walk (R150, R153). -/
inductive Walk where
  | leaf (addr level : Nat) (pte : Dword)
  | absent
  | malformed
  | poisoned
  | held (addr : Nat)
  deriving DecidableEq, Repr

/-- The PA field of an entry (R121). -/
def ptePa (e : Dword) : Nat := bits e.toNat 7 53 * 128

/-- V of an entry. -/
def pteV (e : Dword) : Bool := e.getLsbD 63

/-- W of an entry. -/
def pteW (e : Dword) : Bool := e.getLsbD 6

/-- X of an entry. -/
def pteX (e : Dword) : Bool := e.getLsbD 5

/-- CACHE of an entry. -/
def pteCache (e : Dword) : Nat := bits e.toNat 3 2

/-- CW of an entry. -/
def pteCw (e : Dword) : Bool := e.getLsbD 2

/-- D of an entry. -/
def pteD (e : Dword) : Bool := e.getLsbD 1

/-- A leaf may name the region and offsets of its page (R117, R121): far or near memory, the Vat status words where W is 0, host memory. -/
def leafPaOk (pa size : Nat) (w : Bool) : Bool :=
  paPkg pa < 128 && offsetOk (paRegion pa) (paOffset pa) && offsetOk (paRegion pa) (paOffset (pa + size - 1)) &&
  (hasMode pa || paRegion pa == 8 || (paRegion pa == 3 && !w))

/-- A table lies in far or near memory (R120). -/
def tablePaOk (pa : Nat) : Bool := paPkg pa < 128 && hasMode pa && offsetOk (paRegion pa) (paOffset pa)

/-- An entry with V = 1 at a level, `shift` its lowest VA bit, is malformed (R121). A table's entry is checked for its PA and its
reserved bits, its other fields being ignored. -/
def pteMalformed (level shift : Nat) (e : Dword) : Bool :=
  let leaf := e.getLsbD 62
  let pa := ptePa e
  let nextSize := match walkLevels.find? fun l => l.1 + 1 == level with
    | some l => 8 * 2 ^ l.2.2
    | none => 1
  bits e.toNat 60 2 != 0 || (leaf && decide (4 ≤ level)) || (!leaf && level == 0) ||
  (if leaf then pteCache e == 3 || pa % 2 ^ shift != 0 || !leafPaOk pa (2 ^ shift) (pteW e)
   else pa % nextSize != 0 || !tablePaOk pa)

/-- The home of a line holds an access of a walker, a front end or a unit of the base die (R150, R153): `kind` is 0 for a read, 1 for a write. -/
def lineHeld (s : State) (pa kind : Nat) : Bool := isSwitching s pa || leaseBlocks s (lineOf pa) kind (.stack (homeStack pa))

/-- The holders of the leases that stand in the way of such an access are asked for them, once (R150). -/
def askLine (s : State) (pa kind : Nat) : State := recallHolders s (lineOf pa) kind (.stack (homeStack pa))

/-- Walks the levels listed from a table (R120, R121, R125). -/
def walkFrom (s : State) (va : Nat) : List (Nat × Nat × Nat) → Nat → Walk
  | [], _ => .malformed
  | (level, shift, n) :: rest, table =>
    let addr := table + 8 * (va / 2 ^ shift % 2 ^ n)
    let e : Dword := BitVec.ofNat 64 (peekNat s addr 8)
    if s.poisoned.contains (lineOf addr) then .poisoned
    else if lineHeld s addr 0 then .held addr
    else if !pteV e then .absent
    else if pteMalformed level shift e then .malformed
    else if e.getLsbD 62 then .leaf addr level e
    else walkFrom s va rest (ptePa e)

/-- The lowest VA bit of a leaf's page at a level. -/
def pageShift (level : Nat) : Nat :=
  if level == 3 then 30 else if level == 2 then 26 else if level == 1 then 21 else 16

/-- The physical address that a leaf gives. -/
def leafPa (e : Dword) (level va : Nat) : Nat := ptePa e + va % 2 ^ pageShift level

end Sys2Proof.Machine
end

