-- ==== Sys2Proof/Machine/Conflict.lean ====
section
/-! DEFINITION. Writes to the bytes of copies and collectives in flight (R177), and writes of the package's own units at global physical addresses. -/

namespace Sys2Proof.Machine

/-- The command's source or destination bytes, as effective addresses of its convoy's crew, meet `n` bytes at an address. -/
def overlapEa (base : Dword) (len : Nat) (ea : Dword) (n : Nat) : Option (Nat × Nat) :=
  let lo := max base.toNat ea.toNat
  let hi := min (base.toNat + len) (ea.toNat + n)
  if lo < hi then some (lo - base.toNat, hi - lo) else none

/-- An effective address in one form: an own-scratch address names its crew (R109). -/
def canonEa (crew : Nat) (ea : Dword) : Dword :=
  if ea.toNat / 2 ^ 56 == 0xF1 then BitVec.ofNat 64 (0xF0 * 2 ^ 56 + crew * 2 ^ 24 + ea.toNat % 2 ^ 24) else ea

/-- A write by any agent to bytes of a copy command that has not completed makes the corresponding destination bytes undefined (R177).
Bytes are compared by effective address within the context, scratch within the convoy (DEDUCED, log 32). -/
def CopyCmd.conflictWith (x : CopyCmd) (ctx convoy crew : Nat) (ea : Dword) (n : Nat) : CopyCmd :=
  let e := canonEa crew ea
  let same := x.context == ctx && (e.toNat / 2 ^ 56 == 0 || x.convoy == convoy)
  let dsts := if x.kind == 0 then [canonEa x.crew x.dst] else if x.kind == 1 then (bitsSet x.mask).map fun k => canonEa k x.dst else []
  if !same then x
  else
    let hits := (canonEa x.crew x.src :: dsts).filterMap fun a => overlapEa a x.len e n
    { x with conflict := x.conflict ++ hits }

/-- A collective's rank at a package, and its number of members (R446). -/
def Collective.rank (x : Collective) (pkg : Nat) : Nat := ((bitsSet x.members).filter fun p => decide (p < pkg)).length

/-- Member packages of a collective. -/
def Collective.size (x : Collective) : Nat := (bitsSet x.members).length

/-- Bytes of a member's slice where the kind divides the operand. -/
def Collective.slice (x : Collective) : Nat := x.len / x.size

/-- Destination bytes at this package (R446). -/
def Collective.destLen (x : Collective) : Nat := if x.kind == 1 then x.slice else x.len

/-- The source bytes of this package that appear in its own destination (R446): where they start, how many, where they go. -/
def Collective.ownPart (x : Collective) (pkg : Nat) : Option (Nat × Nat × Nat) :=
  let r := x.rank pkg * x.slice
  if x.kind == 0 then some (0, x.len, 0)
  else if x.kind == 1 then some (r, x.slice, 0)
  else if x.kind == 2 then some (0, x.slice, r)
  else if x.kind == 3 then (if x.root == pkg then some (0, x.len, 0) else none)
  else some (r, x.slice, r)

/-- A write by any agent to source or destination bytes of a collective that has not completed (R177). -/
def Collective.conflictWith (x : Collective) (pkg ctx convoy crew : Nat) (ea : Dword) (n : Nat) : Collective :=
  let e := canonEa crew ea
  if x.context != ctx || x.tile.isSome || !(e.toNat / 2 ^ 56 == 0 || x.convoy == convoy) then x
  else
    let dst := (overlapEa (canonEa x.crew x.dst) x.destLen e n).toList
    let src := match x.ownPart pkg with
      | some (o, l, d) => ((overlapEa (canonEa x.crew x.src + BitVec.ofNat 64 o) l e n).map fun h => (h.1 + d, h.2)).toList
      | none => []
    { x with conflict := x.conflict ++ dst ++ src }

/-- Notes a write of an agent of a convoy's crew for the copies and collectives in flight (R177). -/
def noteWriteEa (s : State) (context convoy crew : Nat) (ea : Dword) (n : Nat) : State :=
  let mark (x : CopyCmd) : CopyCmd := x.conflictWith context convoy crew ea n
  { s with
    cores := tmap s.cores (fun _ k => if k.chain.isEmpty then k else { k with chain := k.chain.map mark })
    collectives := tmap s.collectives fun _ x => x.conflictWith s.pkg context convoy crew ea n }

/-- The parts of a virtual range that lie on `n` bytes at a physical address, by offset and length, as a page table maps its pages. -/
def overlapPa (s : State) (root : Dword) (base : Dword) (len pa n : Nat) : List (Nat × Nat) :=
  let b := base.toNat
  if 2 ^ 56 ≤ b then []
  else (List.range (len / 65536 + 2)).filterMap fun i =>
    let page := (b / 65536 + i) * 65536
    let lo := max b page
    let hi := min (b + len) (page + 65536)
    if hi ≤ lo then none
    else match walkFrom s lo walkLevels root.toNat with
      | .leaf _ level e =>
        let p := leafPa e level lo
        let x := max p pa
        let y := min (p + (hi - lo)) (pa + n)
        if x < y then some (lo - b + (x - p), y - x) else none
      | _ => none

/-- The page table that an engine of a convoy walks: that of its placement, or the context's. -/
def rootOf (s : State) (convoy context : Nat) : Dword := ((tget s.convoys convoy).map (·.desc.root)).getD (s.context context).desc.root

/-- A write of an agent that names no address of a convoy, at a physical address, to bytes of a command that has not completed (R177). -/
def CopyCmd.conflictPa (s : State) (x : CopyCmd) (pa n : Nat) : CopyCmd :=
  if x.kind == 2 then x
  else
    let root := rootOf s x.convoy x.context
    let dst := if x.kind == 1 then [] else overlapPa s root x.dst x.len pa n
    { x with conflict := x.conflict ++ overlapPa s root x.src x.len pa n ++ dst }

/-- The same for a collective. -/
def Collective.conflictPa (s : State) (x : Collective) (pa n : Nat) : Collective :=
  if x.tile.isSome then x
  else
    let root := rootOf s x.convoy x.context
    let src := match x.ownPart s.pkg with
      | some (o, l, d) => (overlapPa s root (x.src + BitVec.ofNat 64 o) l pa n).map fun h => (h.1 + d, h.2)
      | none => []
    { x with conflict := x.conflict ++ overlapPa s root x.dst x.destLen pa n ++ src }

/-- Notes a write at a physical address of the package for the copies and collectives in flight (R177). -/
def noteWritePa (s : State) (pa n : Nat) : State :=
  if s.collectives.isEmpty && s.cores.all fun e => e.2.chain.isEmpty then s
  else
    { s with
      cores := tmap s.cores (fun _ k => if k.chain.isEmpty then k else { k with chain := k.chain.map fun x => x.conflictPa s pa n })
      collectives := tmap s.collectives fun _ x => x.conflictPa s pa n }

/-- Bytes written by the package's own units at a global physical address for a context: in this package, or, one packet for each line, in another
(DEDUCED, log 48). -/
def globalWrite (s : State) (context cls a : Nat) (bs : List Byte) : State :=
  if paPkg a == s.pkg then noteWritePa (agentWrite s none a bs) a bs.length
  else if isLost s (paPkg a) then s
  else (linesOf a bs.length).foldl (fun s l =>
    let lo := max a (128 * l)
    let part := (bs.drop (lo - a)).take (128 * l + 128 - lo)
    sendPacket s none 0 context (paPkg a) 0 cls (!(s.context context).desc.unordered.getLsbD 0) 0 (.store (part.mapIdx fun i b => (lo + i, b)))) s

end Sys2Proof.Machine
end

