-- ==== Sys2Proof/Machine/Translate.lean ====
section
/-! DEFINITION. Effective addresses and their checks (R106 to R115), TLBs and translation (R122 to R125), the fault buffers, the fault
queue and parking (R126 to R134). -/

namespace Sys2Proof.Machine

/-! ### Effective addresses (R106) -/

/-- The space that an effective address lies in; scratch names its crew of the convoy (R106). -/
inductive Ea where
  | virt (va : Nat)
  | scratch (crew off : Nat)
  | aperture (slot off : Nat)
  | control (index : Nat)
  | bad
  deriving DecidableEq, Repr

/-- Decodes an effective address for a wave of the crew `own` (R106, R107, R109). -/
def decodeEa (own : Nat) (ea : Dword) : Ea :=
  let n := ea.toNat
  let top := n / 2 ^ 56
  let rest := n % 2 ^ 56
  if top == 0 then .virt rest
  else if top == 0xF0 then (if rest < 2 ^ 27 then .scratch (rest / 2 ^ 24) (rest % 2 ^ 24) else .bad)
  else if top == 0xF1 then (if rest < 2 ^ 24 then .scratch own rest else .bad)
  else if top == 0xF2 then (if rest < 2 ^ 20 then .aperture (rest / 2 ^ 15) (rest % 2 ^ 15) else .bad)
  else if top == 0xF3 then (if rest < 2 ^ 16 then .control rest else .bad)
  else .bad

/-- What an access does (R129), with those of a tile instruction apart. -/
inductive Kind where
  | read | write | atomic | fetch | copyRead | copyWrite | tileRead | tileWrite
  deriving DecidableEq, Repr

/-- The KIND code of a fault record (R129). -/
def Kind.code : Kind → Nat
  | .read => 0 | .write => 1 | .atomic => 2 | .fetch => 3 | .copyRead => 4 | .copyWrite => 5 | .tileRead => 0 | .tileWrite => 1

/-- The access writes. -/
def Kind.writes : Kind → Bool
  | .write => true | .atomic => true | .copyWrite => true | .tileWrite => true | _ => false

/-- The access may go to the register aperture or to the window-control array (R111, R235, R428). -/
def Kind.plain : Kind → Bool
  | .read => true | .write => true | _ => false

/-! ### Windows of a scratch (R110 to R113) -/

/-- The control byte of a window of a crew. -/
def windowByte (s : State) (crew line : Nat) : Byte := byteAt (s.crew crew).windows line

/-- The window check at the owning core (R112): the cause for which an access by crew `by'` to a line of crew `own` is dropped. -/
def windowCause (s : State) (convoy own by' line : Nat) (store : Bool) : Option Nat :=
  let w := windowByte s (crewKey convoy own) line
  let single := w.getLsbD 1
  let writer := bits w.toNat 2 3
  if own == by' then (if store && single && writer != own then some 0x13 else none)
  else if !w.getLsbD 0 then some 0x08
  else if store && single && writer != by' then some 0x13
  else none

/-- The wave of a crew that holds a slot of its core. -/
def waveInSlot (s : State) (crew slot : Nat) : Option Nat :=
  (s.waves.find? fun e => keyCrewKey e.1 == crew && e.2.slot == slot).map (·.1)

/-- The register that an aperture address names, where the window rules make it present (R60, R115). -/
def apertureReg (s : State) (conv : Convoy) (crew slot off : Nat) : Option (Nat × Nat) :=
  match waveInSlot s crew slot with
  | none => none
  | some k => match tget s.waves k with
    | some w => if w.inWindow conv.regs (off / 128) then some (k, off / 128) else none
    | none => none

/-- The cause that an access of `n` bytes raises precisely before translation (R107, R109, R111, R112, R115, R428): PAGE_FAULT for a
bad address, PERMISSION, or the window's cause. A peer's store is checked at its arrival. -/
def spaceCause (s : State) (conv : Convoy) (convoy own : Nat) (kind : Kind) (n : Nat) : Ea → Option Nat
  | .virt _ => none
  | .bad => some 0x07
  | .scratch k off =>
    if conv.card.crews ≤ k || (s.crew (crewKey convoy k)).scratchSize < off + n then some 0x08
    else if kind.writes && k != own then none
    else windowCause s convoy k own (off / 128) kind.writes
  | .aperture slot off =>
    if !kind.plain || 24 ≤ slot || (apertureReg s conv (crewKey convoy own) slot off).isNone then some 0x08 else none
  | .control i => if !kind.plain || (s.crew (crewKey convoy own)).scratchSize / 128 < i + n then some 0x08 else none

/-! ### TLBs (R123) -/

/-- The key under which a TLB holds a page: its base, with the level in the low bits. -/
def tlbKey (va level : Nat) : Nat := va / 2 ^ pageShift level * 2 ^ pageShift level + level

/-- The translation that a TLB holds for an address. -/
def tlbFind (t : List (Nat × Nat × Nat)) (ctx va : Nat) : Option (Nat × Dword) :=
  (t.find? fun e => e.1 == ctx && e.2.1 == tlbKey va (e.2.1 % 4)).map fun e => (e.2.1 % 4, BitVec.ofNat 64 e.2.2)

/-- A translation placed in a TLB of `size` entries; the oldest goes (DESIGN CHOICE, log 11). -/
def tlbAdd (t : List (Nat × Nat × Nat)) (size ctx key pte : Nat) : List (Nat × Nat × Nat) :=
  let t := t.filter fun e => !(e.1 == ctx && e.2.1 == key)
  (if size ≤ t.length then t.tail else t) ++ [(ctx, key, pte)]

/-- The set of a stack's second-level TLB that a page falls in: 8,192 entries in 8 ways make 1,024 sets (R123; DESIGN CHOICE, log 11). -/
def tlbSet (key : Nat) : Nat := key / 2 ^ pageShift (key % 4) % 1024

/-- A translation placed in a second-level TLB: in a full set the oldest goes (DESIGN CHOICE, log 11). -/
def tlbAddSet (t : List (Nat × Nat × Nat)) (ctx key pte : Nat) : List (Nat × Nat × Nat) :=
  let t := t.filter fun e => !(e.1 == ctx && e.2.1 == key)
  let mine (e : Nat × Nat × Nat) : Bool := tlbSet e.2.1 == tlbSet key
  (if 8 ≤ (t.filter mine).length then dropFirst mine t else t) ++ [(ctx, key, pte)]

/-- A translation placed in a core's TLB and in its stack's (R123). -/
def placeTlb (s : State) (core ctx va level : Nat) (pte : Dword) : State :=
  let c := s.core core
  let k := s.stack (coreStack core)
  (s.setCore core { c with tlb := tlbAdd c.tlb 64 ctx (tlbKey va level) pte.toNat }).setStack (coreStack core)
    { k with tlb := tlbAddSet k.tlb ctx (tlbKey va level) pte.toNat }

/-! ### Translation (R122, R125) -/

/-- The outcome of a translation: the physical address and the CACHE attribute, a replayable fault, a wait for the home of an entry, or a precise
cause. -/
inductive Xlat where
  | ok (s : State) (pa cache : Nat)
  | replay
  | held (pa kind : Nat)
  | cause (code : Nat)
  deriving DecidableEq, Repr

/-- A leaf's refusal of an access (R125): CW is examined before W. -/
def leafRefuses (e : Dword) (kind : Kind) : Option Xlat :=
  if kind.writes then (if pteCw e then some .replay else if !pteW e then some (.cause 0x08) else none)
  else if kind == .fetch && !pteX e then some (.cause 0x08)
  else none

/-- Translates an address by a walk (R120 to R122, R125): A, and D where the access needs it, are set before the translation is placed
in the TLBs. A table of another package is read as State.mem holds it (DEDUCED, log 24). -/
def walkXlat (s : State) (core ctx : Nat) (root : Dword) (kind : Kind) (va : Nat) : Xlat :=
  match walkFrom s va walkLevels root.toNat with
  | .absent => .replay
  | .malformed => .cause 0x07
  | .poisoned => .cause 0x0B
  | .held addr => .held addr 0
  | .leaf addr level e =>
    match leafRefuses e kind with
    | some x => x
    | none =>
      let e' := e ||| (if kind.writes then 3 else 1)
      if e' != e && lineHeld s addr 1 then .held addr 1 else
      let s := if e' == e then s else agentWrite s none addr [BitVec.ofNat 8 (e'.toNat % 256)]
      .ok (placeTlb s core ctx va level e') (leafPa e' level va) (pteCache e')

/-- Translates an address of a context for an access by a core: its TLB, its stack's, the walk (R122, R123). A store that finds D clear
goes back to the walker. -/
def translate (s : State) (core ctx : Nat) (root : Dword) (kind : Kind) (va : Nat) : Xlat :=
  let hit := match tlbFind (s.core core).tlb ctx va with
    | some h => some h
    | none => tlbFind (s.stack (coreStack core)).tlb ctx va
  match hit with
  | some (level, e) =>
    if kind.writes && !pteD e then walkXlat s core ctx root kind va
    else match leafRefuses e kind with
    | some x => x
    | none => .ok (placeTlb s core ctx va level e) (leafPa e level va) (pteCache e)
  | none => walkXlat s core ctx root kind va

/-! ### Fault buffers and the fault queue (R127 to R130) -/

/-- Writes a fault record into the context's queue, or holds it in its stack where the ring is full or there is none (R129, R130).
The host is signalled on vector 1. -/
def postFault (s : State) (stack : Nat) (r : HeldRecord) : State :=
  let x := s.context r.context
  let room := decide (x.fqWr.toNat - x.fqRd.toNat < 2 ^ x.desc.faultqLog) && x.desc.faultq != 0
  let s :=
    if room then
      let s := globalWrite s r.context 2 (x.desc.faultq.toNat + 32 * (x.fqWr.toNat % 2 ^ x.desc.faultqLog)) (bytesOf 32 r.bits.toNat)
      s.setContext r.context { x with fqWr := x.fqWr + 1 }
    else
      let k := s.stack stack
      s.setStack stack { k with held := k.held ++ [r] }
  signal s 1

/-- The fault record of a buffer entry, or of a dropped-entry flag (R129). -/
def faultRecord (seq waiters ctx stack : Nat) (dropped : Bool) (kind entry vpage : Nat) : BitVec 256 :=
  BitVec.ofNat 256 (pack [(192, seq % 2 ^ 64), (160, min waiters 0xFFFFFFFF), (148, ctx % 4096), (146, stack), (145, dropped.toNat),
    (142, kind), (136, entry), (16, vpage % 2 ^ 40)])

/-- A miss at a stack's second-level TLB on an absent page (R127, R128): it joins the entry of its context and page, takes the lowest
free one, or, past the quota or with the buffer full, sets the dropped-entry flag. The entry taken, or none. The record of a dropped-entry
flag has no entry and no waiters: WAITERS is 0 there, as the table of R565 gives it. -/
def missPage (s : State) (stack ctx vpage kind : Nat) : State × Option Nat :=
  let k := s.stack stack
  match k.faults.find? fun e => e.2.context == ctx && e.2.vpage == vpage with
  | some e =>
    (s.setStack stack { k with faults := tput k.faults e.1 { e.2 with waiters := e.2.waiters + 1 } }, some e.1)
  | none =>
    let mine := (k.faults.filter fun e => e.2.context == ctx).length
    if (s.context ctx).desc.faultQuota ≤ mine || Config.faultEntries ≤ k.faults.length then
      if k.dropped.contains ctx then (s, none)
      else
        let s := s.setStack stack { k with dropped := k.dropped ++ [ctx], seq := k.seq + 1 }
        (postFault s stack { context := ctx, entry := none, bits := faultRecord k.seq.toNat 0 ctx stack true kind 0 vpage }, none)
    else
      let i := ((List.range Config.faultEntries).find? fun i => (tget k.faults i).isNone).getD 0
      let s := s.setStack stack { k with
        faults := tput k.faults i { context := ctx, vpage := vpage, kind := kind, waiters := 1 }, seq := k.seq + 1 }
      (postFault s stack { context := ctx, entry := some i, bits := faultRecord k.seq.toNat 1 ctx stack false kind i vpage }, some i)

/-- A wave parks on the absent pages of an instruction (R126, R127, R132): it waits on each of them. -/
def parkWave (s : State) (key path : Nat) (pc : Dword) (lanes : Word) (kind : Kind) (vas : List Nat) : State :=
  match tget s.waves key, tget s.convoys (keyConvoy key) with
  | some w, some conv =>
    let stack := coreStack w.core
    let r := (dedup (vas.map (· / 2 ^ 16))).foldl (fun (a : State × List PageWait) vp =>
      let m := missPage a.1 stack conv.context vp kind.code
      (m.1, a.2 ++ [{ vpage := vp, stack := stack, entry := m.2 }])) (s, [])
    r.1.modWave key fun w => { w with park := some { path := path, pc := pc, lanes := lanes, pages := r.2 } }
  | _, _ => s

/-- A held record as it is written: WAITERS counts the waiters that its entry has by then (R129). -/
def freshRecord (k : Stack) (r : HeldRecord) : HeldRecord :=
  match r.entry.bind fun i => tget k.faults i with
  | none => r
  | some e => { r with bits := (r.bits &&& ~~~((0xFFFFFFFF : BitVec 256) <<< 160)) ||| BitVec.ofNat 256 (min e.waiters 0xFFFFFFFF * 2 ^ 160) }

/-- FQHELD (R130, R373): the records of a context that the four stacks hold. -/
def fqHeld (s : State) (ctx : Nat) : Nat := ((List.range 4).flatMap fun k => (s.stack k).held.filter fun r => r.context == ctx).length

/-- Held fault records are written as far as the ring has room, in SEQ order within each stack (R130). -/
def flushFaults (s : State) (ctx : Nat) : State :=
  (List.range 4).foldl (fun s k =>
    let mine := (s.stack k).held.filter fun r => r.context == ctx
    mine.foldl (fun s r =>
      let x := s.context ctx
      if decide (x.fqWr.toNat - x.fqRd.toNat < 2 ^ x.desc.faultqLog) && x.desc.faultq != 0 then
        let st := s.stack k
        postFault (s.setStack k { st with held := dropFirst (fun y => y == r) st.held }) k (freshRecord st r)
      else s) s) s

/-- Retries a parked wave's accesses (R131, R132): its park becomes the retry of its faulted lanes. -/
def unpark (s : State) (w : Wave) : Wave :=
  match w.park with
  | none => w
  | some p =>
    { w with park := none, retry := some p,
             div := w.div.setPath p.path { w.div.path p.path with readyAt := s.epoch } }

/-- Replay-all for a context (R131): at each stack its entries are freed with their held records, its dropped-entry flags cleared, and
every parked wave of the context retries, but that a replay is only recorded where the wave's convoy is being evicted (R318); the engines that stand at a fault of the context resume (R133). -/
def replayAll (s : State) (ctx : Nat) : State :=
  let free (k : Stack) : Stack := { k with
    faults := k.faults.filter (fun e => e.2.context != ctx)
    dropped := k.dropped.filter (· != ctx)
    held := k.held.filter (fun r => r.context != ctx) }
  let s := { s with perStack := s.perStack.map free }
  let again (v : Nat) (w : Wave) : Wave := match tget s.convoys v with
    | some c => if c.context != ctx then w else if c.residence == .placed then unpark s w
      else { w with park := w.park.map fun p => { p with replayed := true } }
    | none => w
  let resume (x : CopyCmd) : CopyCmd := if x.context == ctx then { x with waiting := false } else x
  { s with
    waves := tmap s.waves (fun k w => again (keyConvoy k) w)
    cores := tmap s.cores (fun _ c => { c with chain := c.chain.map resume })
    convoys := tmap s.convoys (fun _ v => if v.context == ctx then { v with saveWait := false } else v)
    collectives := tmap s.collectives (fun _ x => if x.context == ctx then { x with waiting := false } else x)
    vat := { s.vat with slots := tmap s.vat.slots (fun _ v => if v.context == ctx then { v with waiting := false } else v) }
    disp := { s.disp with
      cards := tmap s.disp.cards (fun _ c => if c.context == ctx then { c with failed0 := false, failed1 := false } else c)
      parts := tmap s.disp.parts (fun _ p => if p.context == ctx then { p with waiting := false } else p) }
    epoch := s.epoch + 1 }

end Sys2Proof.Machine
end

