-- ==== Sys2Proof/Machine/Access.lean ====
section
/-! DEFINITION. The accesses of a wave: resolving lane addresses with their checks (R107 to R115, R125, R138, R403), what an access must
wait for (R114, R167 to R170), and performing loads and stores in every space (R112, R146, R152, R164, R181). -/

namespace Sys2Proof.Machine

/-! ### Resolved accesses -/

/-- Where a lane's access goes: a crew's scratch, a register of a wave through the aperture, a control byte, or memory. -/
inductive Target where
  | scratch (crew off : Nat)
  | aperture (wave reg off : Nat)
  | control (index : Nat)
  | mem (pa cache : Nat)
  deriving DecidableEq, Repr

/-- One lane's access. -/
structure Acc where
  lane : Nat
  ea : Dword
  tgt : Target
  deriving DecidableEq, Repr

/-- What the checks of an instruction's lane addresses give: the accesses; a trap; an uncorrectable error on the walk; a walk that a home holds; or
replayable faults in some lanes, with the accesses of the others. -/
inductive Resolved where
  | ok (s : State) (accs : List Acc)
  | trap (t : Trap)
  | poison (addr : Dword)
  | held (pa kind : Nat)
  | fault (s : State) (accs : List Acc) (lanes : Word) (vas : List Nat)
  deriving DecidableEq, Repr

/-- The mask of the lanes listed. -/
def laneMask (ls : List Nat) : Word := maskOf fun L => ls.contains L

/-- A trap about the lanes given, at the address of the lowest of them (R326). A scalar access names no lanes, so that
TRAPLANES has the path's active lanes (R325; DEDUCED, log 78). -/
def laneTrap (cause : Nat) (scalar : Bool) (lanes : List (Nat × Dword)) : Trap :=
  { cause := cause, sub := 0, addr := ((lanes.head?).map (·.2)).getD 0, nextPc := false,
    lanes := if scalar then none else some (laneMask (lanes.map (·.1))) }

/-- The target of an address that is not virtual. -/
def spaceTarget (s : State) (c : Ctx) : Ea → Target
  | .scratch k off => .scratch k off
  | .aperture slot off =>
    match apertureReg s c.conv (keyCrewKey c.key) slot off with
    | some r => .aperture r.1 r.2 (off % 128)
    | none => .control 0
  | .control i => .control i
  | .virt va => .mem va 0
  | .bad => .control 0

/-- Translates the lanes in turn, threading the TLBs and the table updates. -/
def xlatLanes (s : State) (c : Ctx) (kind : Kind) : List (Nat × Dword) → State × List (Nat × Dword × Except Xlat Target)
  | [] => (s, [])
  | (L, ea) :: rest =>
    match decodeEa (keyCrew c.key) ea with
    | .virt va =>
      match translate s c.w.core c.conv.context c.conv.desc.root kind va with
      | .ok s' pa cache =>
        let r := xlatLanes s' c kind rest
        (r.1, (L, ea, .ok (.mem pa cache)) :: r.2)
      | x =>
        let r := xlatLanes s c kind rest
        (r.1, (L, ea, .error x) :: r.2)
    | e =>
      let r := xlatLanes s c kind rest
      (r.1, (L, ea, .ok (spaceTarget s c e)) :: r.2)

/-- The cause code of a failed translation. -/
def xlatCause : Except Xlat Target → Option Nat
  | .error (.cause n) => some n
  | _ => none

/-- The entry of a page table at which a home holds a walk, and whether the walk writes it. -/
def xlatHeld : Except Xlat Target → Option (Nat × Nat)
  | .error (.held pa kind) => some (pa, kind)
  | _ => none

/-- The checks of an instruction's lane addresses in the order of R403: alignment, PAGE_FAULT of the space, PERMISSION and the
window's cause, translation. Where several lanes fail one check the lowest lane's cause is raised, for the lanes that share it. -/
def resolve (s : State) (c : Ctx) (kind : Kind) (n : Nat) (scalar : Bool) (lanes : List (Nat × Dword)) : Resolved :=
  let own := keyCrew c.key
  let mis := lanes.filter fun l => l.2.toNat % n != 0
  if !mis.isEmpty then .trap (laneTrap 0x06 scalar mis)
  else
    let bySpace (code : Nat) : List (Nat × Dword) := lanes.filter fun l =>
      spaceCause s c.conv (keyConvoy c.key) own kind n (decodeEa own l.2) == some code
    if !(bySpace 0x07).isEmpty then .trap (laneTrap 0x07 scalar (bySpace 0x07))
    else if !(bySpace 0x08).isEmpty then .trap (laneTrap 0x08 scalar (bySpace 0x08))
    else if !(bySpace 0x13).isEmpty then .trap (laneTrap 0x13 scalar (bySpace 0x13))
    else
      let r := xlatLanes s c kind lanes
      match r.2.findSome? fun x => xlatHeld x.2.2 with
      | some h => .held h.1 h.2
      | none =>
      match r.2.findSome? fun x => xlatCause x.2.2 with
      | some code =>
        let ls := (r.2.filter fun x => xlatCause x.2.2 == some code).map fun x => (x.1, x.2.1)
        if code == 0x0B then .poison (((ls.head?).map (·.2)).getD 0) else .trap (laneTrap code scalar ls)
      | none =>
        let good := r.2.filterMap fun x => match x.2.2 with | .ok t => some { lane := x.1, ea := x.2.1, tgt := t } | .error _ => none
        let bad := r.2.filterMap fun x => match x.2.2 with | .ok _ => none | .error _ => some (x.1, x.2.1)
        if bad.isEmpty then .ok r.1 good
        else .fault r.1 good (laneMask (bad.map (·.1))) (bad.map fun x => x.2.toNat % 2 ^ 56)

/-- The lane addresses of format M (R408): a register pair under AM = 0, a scalar base plus lane times size under AM = 1. -/
def laneAddrs (s : State) (c : Ctx) (a : BitVec 7) (m : BitVec 1) (n : Nat) (mask : Word) : List (Nat × Dword) :=
  (bitsSet mask).map fun L =>
    (L, (if m == 1 then c.w.sreg (a.toNat % 64) + BitVec.ofNat 64 (L * n)
         else
          let r := a.toNat + (if c.modBit 10 then 128 else 0)
          (lane (regLanes s c r) L).setWidth 64 ||| ((lane (regLanes s c (r + 1)) L).setWidth 64 <<< 32)) + c.off)

/-- The address operand of format M under AM = 0, a register pair (R408). -/
def opAdr (a : BitVec 7) (m : BitVec 1) : List Opnd :=
  if m == 1 then [] else [{ sel := a.setWidth 8, bank := some 10, regs := 2, role := 1, select := false }]

/-- The tags of an address pair: W64 or RAW (R65). -/
def needAdr (c : Ctx) (a : BitVec 7) (m : BitVec 1) : List TagReq := (opAdr a m).flatMap fun o => needGroup c o [0xF, 0]

/-! ### What an access waits for -/

/-- The target lies in another package. -/
def Target.foreign (s : State) : Target → Bool
  | .mem pa _ => paPkg pa != s.pkg
  | _ => false

/-- The target is the scratch of a crew other than `own`. -/
def Target.peer (own : Nat) : Target → Bool
  | .scratch k _ => k != own
  | _ => false

/-- Loads and atomics of a wave in a stream that have not returned. -/
def loadsOut (s : State) (key stream : Nat) : List PendingLoad :=
  (s.loads.filter fun e => e.2.wave == key && e.2.stream == stream).map (·.2)

/-- Stores to peer scratch of a wave in a stream that have not arrived at the owning core. -/
def scratchOut (s : State) (key stream : Nat) : List ScratchAccess :=
  (s.scratchOps.filter fun e => e.2.wave == key && e.2.stream == stream && !e.2.arrived).map (·.2)

/-- Bulk packets of a wave in a stream that have not committed (R181). -/
def packetsOut (s : State) (key stream : Nat) : List SentPacket :=
  s.fabric.sent.filter fun p => p.wave == some key && p.packet.stream == stream && decide (p.stage < 2)

/-- An acquire of the stream has not returned (R170). -/
def acquireOut (s : State) (key stream : Nat) : Bool := (loadsOut s key stream).any (·.acquire.isSome)

/-- A line of another package is on its way home from the wave or from its stack (R152, R165). -/
def lineOut (s : State) (c : Ctx) (line : Nat) : Bool :=
  s.fabric.sent.any fun p => (p.wave == some c.key || p.back == some (coreStack c.w.core)) && decide (p.stage < 2) &&
    (payloadLines p.packet.payload).contains line

/-- An outstanding load of the wave reads bytes of a line (R165; DEDUCED, log 85: the line stands for the byte). -/
def loadOut (s : State) (key line : Nat) : Bool :=
  s.loads.any fun e => e.2.wave == key && e.2.spans.any fun x => lineOf x.1 == line

/-- A load of these targets must wait (R165, R167, R170): for an acquire of its stream; for the wave's own stores to the same crew's
scratch that are not yet performed; in another package for its stores to the same line, and for its loads of it. -/
def loadWaits (s : State) (c : Ctx) (stream : Nat) (accs : List Acc) : Bool :=
  acquireOut s c.key stream ||
  accs.any fun a => match a.tgt with
    | .scratch k _ => s.scratchOps.any fun e => e.2.wave == c.key && !e.2.arrived && e.2.target == crewKey (keyConvoy c.key) k
    | .mem pa _ => paPkg pa != s.pkg && (lineOut s c (lineOf pa) || loadOut s c.key (lineOf pa))
    | _ => false

/-- The stall reason of a load that waits so (R316, R361): 7 for a load of another package that is outstanding, else 4. -/
def loadReason (s : State) (c : Ctx) (stream : Nat) (accs : List Acc) : Nat :=
  if acquireOut s c.key stream || accs.any fun a => match a.tgt with | .mem pa _ => paPkg pa != s.pkg && loadOut s c.key (lineOf pa) | _ => false
  then 7 else 4

/-- A line of another package whose stores a stack's copy takes: one that it holds under a write lease (R147; DEDUCED, log 33), or a copy of a
line that software manages (R152). -/
def writeLeased (s : State) (core pa : Nat) : Bool :=
  match copyOf s (lineOf pa) (coreStack core) with
  | some c => paPkg pa != s.pkg && c.lease.isSome && (c.state == 1 || c.state == 3 || !lineCoherent s pa)
  | none => false

/-- A store in a copy of another package's line comes after packets of its stream to that package that have not committed (R167). -/
def leasedWaits (s : State) (c : Ctx) (stream : Nat) (accs : List Acc) : Bool :=
  accs.any fun a => match a.tgt with
    | .mem pa _ => writeLeased s c.w.core pa && (packetsOut s c.key stream).any fun p => p.packet.dst == paPkg pa
    | _ => false

/-- A store or atomic to these targets must wait (R167, R170): for every earlier load of its stream to return, and, unless it goes to
peer scratch or to another package itself, for the stream's stores to peer scratch to arrive; for what the stack writes back of a
line of another package (R152). -/
def storeWaits (s : State) (c : Ctx) (stream : Nat) (accs : List Acc) : Bool :=
  !(loadsOut s c.key stream).isEmpty || leasedWaits s c stream accs ||
  (accs.any fun a => match a.tgt with
    | .mem pa _ => s.fabric.sent.any fun p => p.back == some (coreStack c.w.core) && decide (p.stage < 2) &&
        (payloadLines p.packet.payload).contains (lineOf pa)
    | _ => false) ||
  ((accs.any fun a => !a.tgt.foreign s && !a.tgt.peer (keyCrew c.key)) && !(scratchOut s c.key stream).isEmpty)

/-- A release in a stream must wait for every earlier access of the stream (R164, R169). -/
def releaseWaits (s : State) (key stream : Nat) : Bool :=
  !(loadsOut s key stream).isEmpty || !(scratchOut s key stream).isEmpty || !(packetsOut s key stream).isEmpty

/-- A scope as it acts on its targets (R137): scratch at most cluster scope, the aperture at most core scope. An instruction whose
lanes lie in several spaces acts at the widest. -/
def actScope (scope : Nat) (accs : List Acc) : Nat :=
  accs.foldl (fun m a => max m (match a.tgt with
    | .scratch _ _ => min scope 1
    | .aperture _ _ _ => 0
    | .control _ => scope
    | .mem _ _ => scope)) 0

/-- The streams that waiting paths of the wave hold back in its other paths (R467, R503). -/
def heldStreams (c : Ctx) : BitVec 16 :=
  (List.range 8).foldl (fun m q =>
    let p := c.w.div.path q
    match p.hold with
    | .wait _ _ k => if q != c.p && p.mask != 0 then m ||| k else m
    | _ => m) 0

/-- An access of a stream is held back by another path's FENCE, MSFENCE or MSWAIT. -/
def streamHeld (c : Ctx) (stream : Nat) : Bool := (heldStreams c).getLsbD stream

/-- The stall reason of such a wait (R361, R467, R503): that of the instruction the other path waits in. -/
def heldReason (c : Ctx) (stream : Nat) : Nat :=
  (List.range 8).foldl (fun m q =>
    let p := c.w.div.path q
    match p.hold with
    | .wait r _ k => if q != c.p && p.mask != 0 && k.getLsbD stream then max m r else m
    | _ => m) 13

/-! ### Placing lines for a load -/

/-- Places a line in a core's L1 (R108). -/
def allocL1 (s : State) (core line : Nat) (useL1 : Bool) : State :=
  if !useL1 || (tget s.l1 (l1Key line core)).isSome then s
  else { s with l1 := tput s.l1 (l1Key line core) (lineTable fun i => viewByte s core (128 * line + i) 0) }

/-- An access waits for a home (R150, R153): the holders of the leases that stand in its way are asked for them, once. `kind` is 0 for a load, 1
for a store or atomic. -/
def homeWait (s : State) (c : Ctx) (kind : Nat) (accs : List Acc) : Res :=
  let req := Requester.stack (coreStack c.w.core)
  let lines := dedup (accs.filterMap fun a => match a.tgt with
    | .mem pa _ => if paPkg pa == s.pkg && !(unasked s (lineOf pa) kind req).isEmpty then some (lineOf pa) else none
    | _ => none)
  if lines.isEmpty then .wait 31 0 else .hold (lines.foldl (fun s l => recallHolders s l kind req) s) 31 0

/-- A walk waits for the home of an entry of a page table (R150, R153). -/
def walkWait (s : State) (pa kind : Nat) : Res :=
  if (unasked s (lineOf pa) kind (.stack (homeStack pa))).isEmpty then .wait 31 0 else .hold (askLine s pa kind) 31 0

/-- Makes a line readable by a core (R108, R140, R146): its stack obtains a coherent line; a line managed by software is copied into
the stack's RDC. CACHE 1 and 2 place nothing. None where the home holds the access. -/
def touchRead (s : State) (core pa cache : Nat) (useL1 : Bool) : Option State :=
  let line := lineOf pa
  let k := coreStack core
  if isSwitching s pa || (coherentHere s pa && leaseBlocks s line 0 (.stack k)) then none
  else if cache != 0 || (paPkg pa == s.pkg && paRegion pa == 3) then some s
  else if coherentHere s pa then
    (if (copyOf s line k).isSome then some s else obtain s k line false).map fun s => allocL1 s core line useL1
  else if isSoftware s pa then
    if (tget s.l1 (l1Key line core)).isSome then some s
    else
      let s := if (copyOf s line k).isSome || isHome s k pa then s else addCopy s line k (Copy.clean 0 (homeTable s line))
      some (allocL1 s core line useL1)
  else some s

/-- Places the lines of memory that accesses read. -/
def touchReads (s : State) (core : Nat) (useL1 : Bool) : List Acc → Option State
  | [] => some s
  | a :: rest => match a.tgt with
    | .mem pa cache => match touchRead s core pa cache useL1 with
      | some s => touchReads s core useL1 rest
      | none => none
    | _ => touchReads s core useL1 rest

/-! ### Reading -/

/-- A byte of a register as the aperture shows it: undefined where a register instruction has written the register and no FENCE at
core scope has followed (R60, R61), and where it holds an undefined value (R7). -/
def apertureByte (s : State) (k reg o : Nat) : Byte :=
  match tget s.waves k with
  | none => 0
  | some w =>
    if w.registerDirty.getLsbD reg || (w.vreg reg).undef.getLsbD o then Config.freeByte s.draws (400 + reg) o
    else (lane (w.vreg reg).lanes (o / 4)).extractLsb' (8 * (o % 4)) 8

/-- The bytes of an access that need not wait for another package. -/
def readTarget (s : State) (convoy crew core n : Nat) : Target → List Byte
  | .scratch k off => readRun (s.crew (crewKey convoy k)).scratch off n
  | .aperture w reg o => (List.range n).map fun i => apertureByte s w reg (o + i)
  | .control i => readRun (s.crew (crewKey convoy crew)).windows i n
  | .mem pa cache => (List.range n).map fun i => viewByte s core (pa + i) cache

/-- The value of an access for the issuing wave. -/
def readAcc (s : State) (c : Ctx) (n : Nat) (t : Target) : Nat :=
  leNat (readTarget s (keyConvoy c.key) (keyCrew c.key) c.w.core n t)

/-- The key under which a line of a crew's scratch stands in the list of poisoned lines. -/
def scratchPoison (crew line : Nat) : Nat := 2 ^ 60 + crew * 2 ^ 17 + line

/-- The access reads a poisoned line (R340). -/
def readsPoison (s : State) (convoy : Nat) : Target → Bool
  | .mem pa _ => s.poisoned.contains (lineOf pa)
  | .scratch k off => s.poisoned.contains (scratchPoison (crewKey convoy k) (off / 128))
  | _ => false

/-- The detector that checks what a load reads of memory (R375): the stack's L2 or remote-data cache, or the memory at the home. The core's own store has
been checked at issue. -/
def readUnit (s : State) (core : Nat) : Target → Option (Nat × Nat × Nat)
  | .mem pa _ =>
    let stack := coreStack core
    if (tget s.l1 (l1Key (lineOf pa) core)).isSome then none
    else if (copyOf s (lineOf pa) stack).isSome then some (if isHome s stack pa then 2 else 3, stack, 0)
    else if paPkg pa != s.pkg then none
    else if paRegion pa == 1 then some (5, homeStack pa, 0)
    else if paRegion pa == 0 then some (6, homeStack pa, channelOf pa)
    else none
  | _ => none

/-- The check of an access that is read (R343): the line of one that reports an uncorrectable error is poisoned (R339). -/
def checkRead (context core : Nat) (s : State) (a : Acc) : State :=
  match a.tgt, readUnit s core a.tgt with
  | .mem pa _, some (unit, stack, inst) =>
    let r := checkUnit s unit stack inst (BitVec.ofNat 64 pa) context
    let keys := if unit == 5 || unit == 6 then [lineOf pa, homePoison (lineOf pa)] else [lineOf pa]
    if r.2 then { r.1 with poisoned := dedup (r.1.poisoned ++ keys) } else r.1
  | _, _ => s

/-- The checks of the accesses of a load. -/
def checkReads (s : State) (c : Ctx) (accs : List Acc) : State :=
  if s.inject.isEmpty then s else accs.foldl (checkRead c.conv.context c.w.core) s

/-! ### Writing -/

/-- Bytes of a plane of a matrix operand of `n` rows (R83, R85): a scale plane with its tag plane, or a grade plane. -/
def planeBytes (graded : Bool) (n : Nat) : Nat := if graded then 16 * n else 20 * n

/-- A matrix instruction reads a scratch byte of a crew (R180, R223, R225). -/
def MatrixOp.reads (m : MatrixOp) (crew off n : Nat) : Bool :=
  let hit (k addr size : Nat) : Bool := k == crew && decide (addr < off + n) && decide (off < addr + size)
  hit m.crewA m.addrA (96 * m.rows) || hit m.crewB m.addrB (96 * m.cols) ||
  (m.planeA != 0 && hit m.crewA (m.planeA - 1) (planeBytes (m.kind == 2) m.rows)) ||
  (m.planeB != 0 && hit m.crewB (m.planeB - 1) (planeBytes false m.cols))

/-- Notes a write of the issuing wave for the copies in flight (R177). -/
def noteCopies (s : State) (c : Ctx) (ea : Dword) (n : Nat) : State :=
  noteWriteEa s c.conv.context (keyConvoy c.key) (keyCrew c.key) ea n

/-! ### Tiles (R27, R62) -/

/-- A tile as it is when its convoy is placed (R57). -/
def Tile.zero : Tile := { tag := 1, elems := [] }

/-- A tile of a crew. -/
def State.tile (s : State) (crew t : Nat) : Tile := tgetD (s.crew crew).tiles t Tile.zero

/-- Sets a tile of a crew. -/
def State.setTile (s : State) (crew t : Nat) (x : Tile) : State :=
  { s with crews := tmod s.crews crew fun c => { c with tiles := tset Tile.zero c.tiles t x } }

/-- Element [i][j] of a tile. -/
def Tile.elem (x : Tile) (i j : Nat) : Word := tgetD x.elems (64 * i + j) 0

/-- A tile's elements from a function of row and column. -/
def tileElems (rows cols : Nat) (f : Nat → Nat → Word) : Table Word :=
  (List.range rows).flatMap fun i => (List.range cols).filterMap fun j => if f i j == 0 then none else some (64 * i + j, f i j)

/-- A tile whose elements are undefined, its tag kept. -/
def freeTile (s : State) (crew t site : Nat) : State :=
  let x := s.tile crew t
  s.setTile crew t { x with elems := tileElems 64 64 fun i j => Config.freeWord s.draws (500 + site) (64 * i + j) }

/-- The matrix instruction has completed, and its wave has not yet passed an MWAIT that covers it (R180). -/
def unpassed (s : State) (m : MatrixOp) : Bool :=
  (tget s.waves m.wave).any fun w => decide (w.matSeq < m.seq + w.unwaited.length)

/-- Notes a write to a scratch for the matrix instructions that no MWAIT has passed (R180): the result of one that reads the bytes is undefined, and where
it has completed, what it has left in its tile, with the results that are built on it. -/
def noteMatrix (s : State) (crew off n : Nat) : State :=
  let hits := (s.cores.flatMap fun e => e.2.finished).filter fun m => m.reads crew off n && unpassed s m
  let built (m : MatrixOp) : Bool := hits.any fun h => keyCrewKey h.wave == keyCrewKey m.wave && h.tile == m.tile
  let mark (m : MatrixOp) : MatrixOp := if m.reads crew off n || built m then { m with undefined := true } else m
  let s := { s with cores := tmap s.cores fun _ k =>
    if k.queue.isEmpty && k.running.isNone then k else { k with queue := k.queue.map mark, running := k.running.map mark } }
  hits.foldl (fun s m => freeTile s (keyCrewKey m.wave) m.tile 3) s

/-- The place of a line of a crew's scratch (R197). -/
def scratchPlace (crew line : Nat) : Place := { space := .scratch, owner := crew, unit := line }

/-- Notes the last store of an agent to lines of a crew's scratch (R179). -/
def noteStores (s : State) (writer : Option Nat) (crew : Nat) (lines : List Nat) : State :=
  { s with crews := tmod s.crews crew fun x => { x with
      stores := (x.stores.filter fun e => !(lines.contains e.1 && e.2.1 == writer)) ++ lines.map fun l => (l, writer, s.epoch) } }

/-- A wave has acquired at a scope (R171, R179): what agents of its crew have stored before, and, from cluster scope on, what others have
(DEDUCED, log 100). -/
def noteAcquire (s : State) (key scope : Nat) : State :=
  let at' (f : Fences) : Fences := { f with crew := s.epoch + 1, wide := if 1 ≤ scope then s.epoch + 1 else f.wide }
  s.modWave key fun w => { w with fences := at' w.fences }

/-- An acquire of a wave (R171, R173): what its core and stack hold of non-coherent memory is invalidated. -/
def acquireFor (s : State) (key core scope : Nat) : State := noteAcquire (acquireClean s core scope) key scope

/-- Bytes written into a crew's scratch, performed at the owning core: watchers are told, matrix instructions marked, and the lines noted for those to come
(R179, R180, R201). -/
def writeScratch (s : State) (writer : Option Nat) (crew off : Nat) (bs : List Byte) : State :=
  let s := { s with crews := tmod s.crews crew fun x => { x with scratch := writeRun x.scratch off bs } }
  let s := (linesOf off bs.length).foldl (fun s l => markChanged s writer (scratchPlace crew l)) s
  noteStores (noteMatrix s crew off bs.length) writer crew (linesOf off bs.length)

/-- A control byte as it is stored: its reserved bits read zero (R110). -/
def controlByte (b : Byte) : Byte := b &&& 0x1F

/-- A byte written into a lane. -/
def pokeLane (v : Lanes) (o : Nat) (b : Byte) : Lanes :=
  lanesOf fun L => if L == o / 4 then
    (lane v L &&& ~~~((0xFF : Word) <<< (8 * (o % 4)))) ||| (b.setWidth 32 <<< (8 * (o % 4))) else lane v L

/-- Bytes stored into a register through the aperture: the register becomes RAW (R60) and unordered against register instructions (R61). -/
def writeAperture (s : State) (k reg o : Nat) (bs : List Byte) : State :=
  s.modWave k fun w =>
    let v := (bs.mapIdx fun i b => (i, b)).foldl (fun v e => pokeLane v (o + e.1) e.2) (w.vreg reg).lanes
    let u := (List.range bs.length).foldl (fun (u : BitVec 128) i => u &&& ~~~(1#128 <<< (o + i))) (w.vreg reg).undef
    { (w.setVreg reg { tag := 0, lanes := v, undef := u }) with apertureDirty := w.apertureDirty ||| (1#256 <<< reg) }

/-- Makes a line writable by a core (R146, R152): a coherent line in M, a copy of a line managed by software. -/
def touchWrite (s : State) (core pa cache : Nat) : Option State :=
  let line := lineOf pa
  let k := coreStack core
  if isSwitching s pa then none
  else if coherentHere s pa then
    if leaseBlocks s line 1 (.stack k) then none
    else if cache != 0 then some s
    else
      (if mayWrite s line k then some s else obtain s k line true).map fun s =>
        match copyOf s line k with
        | some c => setCopy s line k { c with state := 3, dirty := BitVec.allOnes 128 }
        | none => s
  else if isSoftware s pa && cache == 0 && !(copyOf s line k).isSome && !isHome s k pa then
    some (addCopy s line k (Copy.clean 0 (homeTable s line)))
  else some s

/-- A byte stored in a line that has been made writable: the stack's copy and the core's L1 in one step (R164); at the home for a line
that the stack does not copy. Other L1s of the stack lose a coherent line (DEDUCED, log 10). -/
def storeByte (s : State) (core a cache : Nat) (b : Byte) : State :=
  let line := lineOf a
  let o := a % 128
  let k := coreStack core
  let s := { s with l1 := tmod s.l1 (l1Key line core) fun t => setByte t o b }
  let s := if coherentHere s a then dropL1 s line fun x => coreStack x == k && x != core else s
  match (if cache == 0 then copyOf s line k else none) with
  | some c =>
    let s := setCopy s line k { c with bytes := setByte c.bytes o b, dirty := c.dirty ||| (1#128 <<< o) }
    if isHome s k a && !coherentHere s a then { s with mem := setByte s.mem a b } else s
  | none => pokeByte s a b

/-- Bytes stored to memory of this package by a core: none where the home holds the access. -/
def storeMem (s : State) (writer : Option Nat) (core pa cache : Nat) (bs : List Byte) : Option State :=
  match touchWrite s core pa cache with
  | none => none
  | some s =>
    let s := (bs.mapIdx fun i b => (i, b)).foldl (fun s e => storeByte s core (pa + e.1) cache e.2) s
    some (if isSoftware s pa && cache == 0 && (copyOf s (lineOf pa) (coreStack core)).isSome && !isHome s (coreStack core) pa then s
      else noteWrite s writer (lineOf pa))

/-- Bytes stored in a copy of another package's line. -/
def storeLeased (s : State) (core pa : Nat) (bs : List Byte) : State :=
  match copyOf s (lineOf pa) (coreStack core) with
  | none => s
  | some c =>
    let t := writeRun c.bytes (pa % 128) bs
    let d := (List.range bs.length).foldl (fun d i => d ||| (1#128 <<< (pa % 128 + i))) c.dirty
    dropL1 (setCopy s (lineOf pa) (coreStack core) { c with state := if lineCoherent s pa then 3 else c.state, bytes := t, dirty := d }) (lineOf pa)
      fun x => coreStack x == coreStack core

/-- Performs a store of the issuing wave that goes neither to peer scratch nor over the fabric. -/
def writeTarget (s : State) (c : Ctx) (ea : Dword) (bs : List Byte) : Target → Option State
  | .scratch k off => some (noteCopies (writeScratch s (some c.key) (crewKey (keyConvoy c.key) k) off bs) c ea bs.length)
  | .aperture w reg o => some (writeAperture s w reg o bs)
  | .control i => some { s with crews := tmod s.crews (keyCrewKey c.key) fun x =>
      { x with windows := writeRun x.windows i (bs.map controlByte) } }
  | .mem pa cache =>
    if paPkg pa != s.pkg then some (noteCopies (storeLeased s c.w.core pa bs) c ea bs.length)
    else (storeMem s (some c.key) c.w.core pa cache bs).map fun s => noteCopies s c ea bs.length

/-! ### Reports and packets of a wave (R181, R269, R330) -/

/-- A fault that is found after its instruction has issued (R330): it waits to be delivered. -/
def addReport (s : State) (r : Report) : State := { s with logs := { s.logs with reports := s.logs.reports ++ [r] } }

/-- A report about an access of the issuing wave. -/
def waveReport (c : Ctx) (cause sub : Nat) (addr : Dword) (lanes : Word) : Report :=
  { cause := BitVec.ofNat 8 cause, sub := BitVec.ofNat 8 sub, addr := addr, pc := c.path.pc, lanes := lanes,
    convoy := keyConvoy c.key, crew := keyCrew c.key, wave := some c.key, slot := c.w.slot, launch := c.conv.launch,
    index := c.conv.index, context := c.conv.context, cluster := c.conv.cluster }

/-- The packet carries an atomic or a RED. -/
def payloadAtomic : Payload → Bool
  | .atomic _ _ _ _ => true
  | _ => false

/-- The horizon that an access of a wave carries in a stream that an MSWAIT has named (R185). -/
def horizonIn (w : Wave) (stream : Nat) : Dword := if w.named.getLsbD stream then w.horizon else 0

/-- A wave's packet to another package (R181, R185): the stack's copies of the line are released (R149), or, of a line managed by software, the
issuing stack's is (R166); one to a lost package is discarded, and a store or RED is reported (R269). -/
def waveSend (s : State) (c : Ctx) (stream pa : Nat) (ea : Dword) (lanes : Word) (report : Bool) (p : Payload) : State :=
  let dst := paPkg pa
  if isLost s dst then (if report then addReport s (waveReport c 0x09 0 ea lanes) else s)
  else
    let s := if lineCoherent s pa then (List.range 4).foldl (fun s k => giveUp s (lineOf pa) k 1) s
      else leaveCopy s (lineOf pa) (coreStack c.w.core)
    sendPacket s (some c.key) c.path.pc c.conv.context dst stream (streamClass c.conv.desc stream)
      (!c.conv.desc.unordered.getLsbD stream) (if payloadAtomic p then horizonIn c.w stream else 0) p (if report then some (waveReport c 0x09 0 ea lanes) else none)

/-! ### Stores of many lanes -/

/-- A lane's store: its access and its bytes. -/
abbrev LaneStore := Acc × List Byte

/-- The distinct lines of another package that stores go to, in lane order. -/
def foreignLines (s : State) (core : Nat) (l : List LaneStore) : List Nat :=
  dedup (l.filterMap fun x => match x.1.tgt with
    | .mem pa _ => if paPkg pa != s.pkg && !writeLeased s core pa then some (lineOf pa) else none
    | _ => none)

/-- The distinct lines of peer scratch that stores go to: crew and line (R112, R114). -/
def peerLines (own : Nat) (l : List Acc) : List (Nat × Nat) :=
  dedup (l.filterMap fun x => match x.tgt with
    | .scratch k off => if k != own then some (k, off / 128) else none
    | _ => none)

/-- Queues stores or REDs to peer scratch, one access for each line, and counts them in the remote-store count (R112, R114). `op` is 0
for a store, else the atomic's code plus 1. -/
def sendPeer (s : State) (c : Ctx) (stream op width : Nat) (float : Bool) (l : List (Acc × Dword)) : State :=
  let own := keyCrew c.key
  (peerLines own (l.map (·.1))).foldl (fun s kl =>
    let writes := l.filterMap fun x => match x.1.tgt with
      | .scratch k off => if (k, off / 128) == kl then some (x.1.lane, off, x.2) else none
      | _ => none
    let a : ScratchAccess := { wave := c.key, slot := c.w.slot, pc := c.path.pc, crew := own, target := crewKey (keyConvoy c.key) kl.1,
                               stream := stream, op := op, width := width, float := float, writes := writes, arrived := false }
    let s := { s with scratchOps := tput s.scratchOps s.nextId a, nextId := s.nextId + 1 }
    s.modWave c.key fun w => { w with remoteStores := w.remoteStores + 1 }) s

/-- Atomics on lines of peer scratch that have been performed at their owning cores count until those acknowledge them (R114). -/
def countPeer (s : State) (c : Ctx) (stream op width : Nat) (float : Bool) (lines : List (Nat × Nat)) : State :=
  lines.foldl (fun s kl =>
    let y : ScratchAccess := { wave := c.key, slot := c.w.slot, pc := c.path.pc, crew := keyCrew c.key,
                               target := crewKey (keyConvoy c.key) kl.1, stream := stream, op := op, width := width,
                               float := float, writes := [(0, 128 * kl.2, 0)], arrived := true }
    let s := { s with scratchOps := tput s.scratchOps s.nextId y, nextId := s.nextId + 1 }
    s.modWave c.key fun w => { w with remoteStores := w.remoteStores + 1 }) s

/-- The remote-store count would pass its limit (R114). -/
def remoteFull (c : Ctx) (l : List Acc) : Bool := decide (0xFFFF < c.w.remoteStores.toNat + (peerLines (keyCrew c.key) l).length)

/-- The lanes of a store that can be performed at once: a lane that stays with the wave's own crew or leaves it otherwise comes after a lower
lane's store to peer scratch has arrived (R161). -/
def storeSegment (own : Nat) : List Acc → Bool → List Acc × List Acc
  | [], _ => ([], [])
  | a :: rest, seen =>
    if seen && !a.tgt.peer own then ([], a :: rest)
    else
      let r := storeSegment own rest (seen || a.tgt.peer own)
      (a :: r.1, r.2)

/-- Performs the local lanes in ascending order. -/
def storeLocal (s : State) (c : Ctx) : List LaneStore → Option State
  | [] => some s
  | x :: rest =>
    let goesOut := match x.1.tgt with
      | .scratch k _ => k != keyCrew c.key
      | .mem pa _ => paPkg pa != s.pkg && !writeLeased s c.w.core pa
      | _ => false
    if goesOut then storeLocal s c rest
    else match writeTarget s c x.1.ea x.2 x.1.tgt with
      | some s => storeLocal s c rest
      | none => none

/-- Stores of a wave, in ascending lane order (R161, R541): local ones are performed, those to peer scratch queued for their owning
cores, those to other packages sent, one packet for each line. None where a home holds one of them. -/
def storeLanes (s : State) (c : Ctx) (stream : Nat) (l : List LaneStore) : Option State :=
  match storeLocal s c l with
  | none => none
  | some s' =>
    let s' := sendPeer s' c stream 0 ((l.head?.map (·.2.length)).getD 0) false (l.map fun x => (x.1, BitVec.ofNat 64 (leNat x.2)))
    some ((foreignLines s c.w.core l).foldl (fun s' line =>
      let mine := l.filter fun x => match x.1.tgt with | .mem pa _ => lineOf pa == line | _ => false
      let cells := mine.flatMap fun x => match x.1.tgt with
        | .mem pa _ => x.2.mapIdx fun i b => (pa + i, b)
        | _ => []
      let s' := mine.foldl (fun s' x => noteCopies s' c x.1.ea x.2.length) s'
      waveSend s' c stream (128 * line) ((mine.head?.map (·.1.ea)).getD 0) (laneMask (mine.map (·.1.lane))) true (.store cells)) s')

end Sys2Proof.Machine
end

