-- ==== Sys2Proof/Machine/Txn.lean ====
section
/-! DEFINITION. What an open transaction does with the accesses of its wave (R196 to R201), the wake tables (R207, R208) and the commit
(R202). -/

namespace Sys2Proof.Machine

/-! ### Places -/

/-- A physical address lies among the grid-barrier words of the wave's context (R197, R312). -/
def inGrid (c : Ctx) (pa : Nat) : Bool :=
  decide (c.conv.desc.gridPa.toNat ≤ pa) && decide (pa < c.conv.desc.gridPa.toNat + 32 * 128)

/-- The place of an access that a transaction can track (R197): scratch of the convoy, hardware-coherent memory of the wave's own
package, the Vat status words and the grid-barrier words. -/
def trackedPlace (s : State) (c : Ctx) : Target → Option Place
  | .scratch k off => some (scratchPlace (crewKey (keyConvoy c.key) k) (off / 128))
  | .mem pa _ =>
    if coherentHere s pa || (paPkg pa == s.pkg && paRegion pa == 3) || inGrid c pa then some (memPlace (lineOf pa)) else none
  | _ => none

/-- The offset of an access within its line. -/
def lineOffset : Target → Nat
  | .scratch _ off => off % 128
  | .mem pa _ => pa % 128
  | .aperture _ _ o => o
  | .control i => i

/-! ### Wake tables (R207, R208) -/

/-- The stack whose wake table holds a line for a wave of a core: that which homes it, or the wave's own. -/
def wakeHome (s : State) (core : Nat) (ctx : Nat) (p : Place) : Nat :=
  match p.space with
  | .scratch | .pool =>
    match tget s.convoys (p.owner / 8) with
    | some v => coreStack (v.cores.headD core)
    | none => coreStack core
  | .mem =>
    let g := (s.context ctx).desc.gridPa.toNat
    if hasMode (128 * p.unit) && !(decide (g ≤ 128 * p.unit) && decide (128 * p.unit < g + 32 * 128)) then lineHome p.unit
    else coreStack core
  | .waymark | .vat => coreStack core

/-- The context of a wave. -/
def waveContext (s : State) (k : Nat) : Nat :=
  match tget s.convoys (keyConvoy k) with
  | some v => v.context
  | none => 0

/-- The places that waves watch at a stack, one for each wave. -/
def watchedAt (s : State) (stack : Nat) : List (Bool × Place) :=
  s.waves.flatMap fun e => (e.2.txn.reads.filter fun r =>
    r.tabled && (e.2.txn.pageMode || wakeHome s e.2.core (waveContext s e.1) r.place == stack)).map fun r => (e.2.txn.pageMode, r.place)

/-- The entries in use in a stack's wake table: up to 16 waves share one (R207). -/
def wakeUsed (s : State) (stack : Nat) : Nat :=
  let l := watchedAt s stack
  ((dedup l).map fun x => ((l.filter fun y => y == x).length + 15) / 16).sum

/-- A stack's wake table can take a further wave for a place. -/
def wakeRoom (s : State) (stack : Nat) (page : Bool) (p : Place) : Bool :=
  decide (wakeUsed s stack < Config.wakeEntries) ||
  ((watchedAt s stack).filter fun x => x == (page, p)).length % 16 != 0

/-- Counts a wake-table overflow (R208). -/
def overflowWake (s : State) (stack : Nat) : State :=
  let k := s.stack stack
  s.setStack stack { k with wakeovf := k.wakeovf + 1 }

/-! ### The read set (R199) -/

/-- The page of a place. -/
def Place.page (p : Place) : Place := { p with unit := p.unit / 512 }

/-- The read set in page mode: each page once, changed where one of its lines was. -/
def pagesOf (l : List ReadEntry) : List ReadEntry :=
  l.foldl (fun acc e =>
    let q := e.place.page
    if acc.any fun x => x.place == q then
      acc.map fun x => if x.place == q then { x with changed := x.changed || e.changed } else x
    else acc ++ [{ place := q, changed := e.changed, tabled := true }]) []

/-- A transactional read of a line (R199): a 65th line converts the read set to page mode, and the attempt overflows. A full
wake table takes no entry (R208); where the tables of some stacks have no room for the pages, none is entered in any, and each full table
counts (DESIGN CHOICE, log 84). -/
def addRead (s : State) (key : Nat) (p : Place) : State × Bool :=
  match tget s.waves key with
  | none => (s, false)
  | some w =>
    if w.txn.reads.any fun e => watches w.txn.pageMode e.place p then (s, false)
    else if w.txn.reads.length < 64 then
      let stack := wakeHome s w.core (waveContext s key) p
      let ok := wakeRoom s stack false p
      let s := if ok then s else overflowWake s stack
      (s.setWave key { w with txn := { w.txn with reads := w.txn.reads ++ [{ place := p, changed := false, tabled := ok }] } }, false)
    else
      let pages := pagesOf (w.txn.reads ++ [{ place := p, changed := false, tabled := true }])
      let paged (ok : Bool) : Wave := { w with txn := { w.txn with reads := pages.map fun e => { e with tabled := ok }, pageMode := true } }
      let room (k : Nat) : Bool := decide (wakeUsed (s.setWave key (paged true)) k ≤ Config.wakeEntries)
      let ok := (List.range 4).all room
      let s := if ok then s else (List.range 4).foldl (fun s k => if room k then s else overflowWake s k) s
      (s.setWave key (paged ok), true)

/-- Transactional reads of lines, in order, until one overflows. -/
def addReads (s : State) (key : Nat) : List Place → State × Bool
  | [] => (s, false)
  | p :: rest =>
    let r := addRead s key p
    if r.2 then r else addReads r.1 key rest

/-! ### The write buffer (R200) -/

/-- The byte that an open transaction has buffered for a place: that of the innermost level that wrote it. -/
def bufferedByte (t : Txn) (p : Place) (o : Nat) : Option Byte :=
  ((t.buffer.filter fun l => l.place == p).foldl (fun (best : Option (Nat × Byte)) l =>
    match tget l.bytes o with
    | none => best
    | some b => match best with
      | some x => if x.1 ≤ l.level then some (l.level, b) else best
      | none => some (l.level, b)) none).map (·.2)

/-- The bytes of a transactional read: those of the location, with the buffered ones over them (R200). -/
def txRead (s : State) (c : Ctx) (n : Nat) (t : Target) : Nat :=
  let bs := readTarget s (keyConvoy c.key) (keyCrew c.key) c.w.core n t
  match trackedPlace s c t with
  | none => leNat bs
  | some p => leNat (bs.mapIdx fun i b => (bufferedByte c.w.txn p (lineOffset t + i)).getD b)

/-- Bytes put into the write buffer at a level; none where a 17th line would be needed (R200). -/
def Txn.store (t : Txn) (p : Place) (ea : Dword) (o : Nat) (bs : List Byte) (cache : Nat := 0) : Option Txn :=
  let level := t.depth.toNat
  let put (m : Table Byte) : Table Byte := (bs.mapIdx fun i b => (o + i, b)).foldl (fun m e => tput m e.1 e.2) m
  if t.buffer.any fun l => l.place == p && l.level == level then
    some { t with buffer := t.buffer.map fun l => if l.place == p && l.level == level then { l with bytes := put l.bytes, cache := cache } else l }
  else if 16 ≤ t.buffer.length then Option.none
  else some { t with buffer := t.buffer ++ [{ place := p, level := level, ea := ea - BitVec.ofNat 64 o, bytes := put [], cache := cache }] }

/-- Transactional stores in lane order; none where the write buffer overflows. -/
def txStores (s : State) (c : Ctx) (t : Txn) : List LaneStore → Option Txn
  | [] => some t
  | x :: rest => match trackedPlace s c x.1.tgt with
    | none => none
    | some p => match t.store p x.1.ea (lineOffset x.1.tgt) x.2 (match x.1.tgt with | .mem _ cache => cache | _ => 0) with
      | none => none
      | some t => txStores s c t rest

/-- An inner level's buffer merged into the level below (R202). -/
def mergeLevel (t : Txn) (d : Nat) : List BufLine :=
  let below := t.buffer.filter fun l => l.level != d
  (t.buffer.filter fun l => l.level == d).foldl (fun acc l =>
    if acc.any fun x => x.place == l.place && x.level == d - 1 then
      acc.map fun x => if x.place == l.place && x.level == d - 1 then
        { x with bytes := l.bytes.foldl (fun m e => tput m e.1 e.2) x.bytes } else x
    else acc ++ [{ l with level := d - 1 }]) below

/-! ### Performing the buffer (R202) -/

/-- A store of the committing wave to one byte. None where the home holds it. -/
def commitByte (s : State) (c : Ctx) (l : BufLine) (o : Nat) (b : Byte) : Option State :=
  match l.place.space with
  | .scratch => some (writeScratch s (some c.key) l.place.owner (128 * l.place.unit + o) [b])
  | .mem => storeMem s (some c.key) c.w.core (128 * l.place.unit + o) l.cache [b]
  | _ => some s

/-- The cause that the wave's own window raises when a buffered line of its scratch is performed (R112, R200), with the line's address. -/
def commitTrap (s : State) (c : Ctx) (ls : List BufLine) : Option Trap :=
  ls.findSome? fun l =>
    if l.place.space == .scratch && l.place.owner == keyCrewKey c.key then
      (windowCause s (keyConvoy c.key) (keyCrew c.key) (keyCrew c.key) l.place.unit true).map fun code => Trap.mk' code l.ea
    else none

/-- A line of the buffer performed. A store to a peer's window that no longer admits it is dropped whole and reported (R112). -/
def commitLine (s : State) (c : Ctx) (l : BufLine) : Option State :=
  let own := keyCrew c.key
  let drop := if l.place.space == .scratch && l.place.owner % 8 != own
    then windowCause s (keyConvoy c.key) (l.place.owner % 8) own l.place.unit true else none
  match drop with
  | some cause => some (addReport s (waveReport c cause 0 l.ea c.acting))
  | none =>
    l.bytes.foldl (fun (s : Option State) e => match s with
      | some s => (commitByte s c l e.1 e.2).map fun s => noteCopies s c (l.ea + BitVec.ofNat 64 e.1) 1
      | none => none) (some s)

/-- Every line of the buffer performed in one event (R202). -/
def commitAll (s : State) (c : Ctx) (ls : List BufLine) : Option State :=
  ls.foldl (fun s l => match s with | some s => commitLine s c l | none => none) (some s)

end Sys2Proof.Machine
end

