-- ==== Sys2Proof/Machine/Load.lean ====
section
/-! DEFINITION. Loads: LD (R492 to R494), SLD (R536, R537), WLD (R558, R559), PREF (R509 to R511), CFLUSH (R438 to R440), and the
return of an outstanding load. -/

namespace Sys2Proof.Machine

/-! ### What a load of any kind does -/

/-- A load as it is issued: bytes for each lane, whether it acts once, its stream and scope, whether it acquires, and what it writes. -/
structure LoadOp where
  bytes : Nat
  scalar : Bool
  stream : Nat
  scope : Nat
  acquire : Bool
  dest : LoadDest
  deriving DecidableEq, Repr

/-- A register's value of a scalar load of `n` bytes (R536). -/
def scalarLoaded (n : Nat) (signed : Bool) (v : Nat) : Dword :=
  if signed then BitVec.ofInt 64 (signedNat (8 * n) v) else BitVec.ofNat 64 v

/-- Writes the lanes that a load or atomic has returned: a value for each lane listed. -/
def Wave.loaded (w : Wave) (dest : LoadDest) (vals : List (Nat × Nat)) : Wave :=
  let m := laneMask (vals.map (·.1))
  let value (L : Nat) : Nat := ((vals.find? fun v => v.1 == L).map (·.2)).getD 0
  match dest with
  | .scalar r n signed => match vals with
    | v :: _ => w.setSreg r (scalarLoaded n signed v.2)
    | [] => w
  | .vector r pair tag =>
    let w := w.writeV r m tag (lanesOf fun L => BitVec.ofNat 32 (value L))
    if pair then w.writeV (r + 1) m tag (lanesOf fun L => BitVec.ofNat 32 (value L / 2 ^ 32)) else w
  | .atomic r pair =>
    let w := w.writeV r m (w.vreg r).tag (lanesOf fun L => BitVec.ofNat 32 (value L))
    if pair then w.writeV (r + 1) m (w.vreg (r + 1)).tag (lanesOf fun L => BitVec.ofNat 32 (value L / 2 ^ 32)) else w
  | .tile _ _ => w
  | .entry p pc => match vals with
    | v :: _ => { w with div := w.div.setPath p { w.div.path p with entry := some (pc, BitVec.ofNat 64 v.2) } }
    | [] => w

/-- The line of an access is held by the stack, so that a load of another package need not leave (R108, R147). -/
def isHeld (s : State) (core : Nat) : Target → Bool
  | .mem pa cache => cache == 0 && (copyOf s (lineOf pa) (coreStack core)).isSome
  | _ => true

/-- The accesses that must wait for another package. -/
def awayAccs (s : State) (core : Nat) (accs : List Acc) : List Acc := accs.filter fun a => a.tgt.foreign s && !isHeld s core a.tgt

/-- The packages of accesses. -/
def accPackages (accs : List Acc) : List Nat :=
  dedup (accs.filterMap fun a => match a.tgt with | .mem pa _ => some (paPkg pa) | _ => none)

/-- A line of another package that one of the package's stacks holds dirty under a write lease (DEDUCED, log 33): an access that must go to its
home waits until it has been given up. -/
def leasedDirty (s : State) (accs : List Acc) : Bool :=
  accs.any fun a => match a.tgt with
    | .mem pa _ => paPkg pa != s.pkg && lineCoherent s pa && (List.range 4).any fun k => match copyOf s (lineOf pa) k with
        | some c => c.dirty != 0
        | none => false
    | _ => false

/-- Records what a load waits for, one outstanding access for each package. -/
def sendLoads (s : State) (c : Ctx) (op : LoadOp) (away : List Acc) : State :=
  (accPackages away).foldl (fun s pkg =>
    let mine := away.filter fun a => match a.tgt with | .mem pa _ => paPkg pa == pkg | _ => false
    let l : PendingLoad := { wave := c.key, path := c.p, pc := c.path.pc, stream := op.stream, package := pkg,
                             lanes := laneMask (mine.map (·.lane)), addrs := mine.map fun a => (a.lane, a.ea), dest := op.dest,
                             since := s.clock, acquire := if op.acquire then some (actScope op.scope away) else none
                             spans := mine.filterMap fun a => match a.tgt with | .mem pa _ => some (pa, op.bytes) | _ => none
                             horizon := horizonIn c.w op.stream }
    { s with loads := tput s.loads s.nextId l, nextId := s.nextId + 1 }) s

/-- A wave that reads a poisoned value is ended alone (R340). -/
def consumePoison (s : State) (c : Ctx) (ea : Dword) (lanes : Word) : Res := .whole (containWave s c.key c.path.pc ea lanes)

/-- The effective address of the first access that satisfies `p`. -/
def firstEa (accs : List Acc) (p : Acc → Bool) : Dword := ((accs.find? p).map (·.ea)).getD 0

/-- Reads the accesses that can be read at once, and leaves the others outstanding. None where a home holds a line. -/
def performLoad (s : State) (c : Ctx) (op : LoadOp) (useL1 : Bool) (accs : List Acc) : Option State :=
  let away := awayAccs s c.w.core accs
  let here := accs.filter fun a => !away.contains a
  match touchReads s c.w.core useL1 here with
  | none => none
  | some s =>
    let s := s.modWave c.key fun w => w.loaded op.dest (here.map fun a => (a.lane, readAcc s c op.bytes a.tgt))
    let s := sendLoads s c op away
    some (if op.acquire && away.isEmpty then acquireFor s c.key c.w.core (actScope op.scope accs) else s)

/-- A load inside a transaction (R199, R200): it reads through the write buffer and joins the read set. -/
def txLoad (s : State) (c : Ctx) (op : LoadOp) (useL1 : Bool) (accs : List Acc) : Res :=
  match accs.mapM fun a => trackedPlace s c a.tgt with
  | none => .abort s (txCause "UNTRACKABLE")
  | some places =>
    match touchReads s c.w.core useL1 accs with
    | none => homeWait s c 0 accs
    | some s =>
      let r := addReads s c.key places
      if r.2 then .abort r.1 (txCause "READ_OVERFLOW")
      else
        let s := r.1.modWave c.key fun w => w.loaded op.dest (accs.map fun a => (a.lane, txRead s c op.bytes a.tgt))
        .next (if op.acquire then acquireFor s c.key c.w.core (actScope op.scope accs) else s)

/-- A load of the lanes given (R493, R537). It is performed when it issues, in program order (DEDUCED, log 8). -/
def doLoad (s : State) (c : Ctx) (op : LoadOp) (lanes : List (Nat × Dword)) : Res :=
  let useL1 := bits (c.ext.payload 4).toNat 16 2 != 3
  let pc := c.path.pc
  let lost (accs : List Acc) : List Acc := accs.filter fun a => match a.tgt with
    | .mem pa _ => a.tgt.foreign s && !isHeld s c.w.core a.tgt && isLost s (paPkg pa)
    | _ => false
  let stops (s : State) (accs : List Acc) : Option Res :=
    let bad := accs.filter fun a => readsPoison s (keyConvoy c.key) a.tgt
    match if bad.isEmpty then lost accs else bad with
    | [] => none
    | l => some (consumePoison s c (firstEa l fun _ => true) (laneMask (l.map (·.lane))))
  if streamHeld c op.stream then .wait (heldReason c op.stream) 0
  else match resolve s c .read op.bytes op.scalar lanes with
  | .trap t => .trap t
  | .poison a => consumePoison s c a 0
  | .held pa kind => walkWait s pa kind
  | .fault s' good bad vas =>
    if c.w.txn.depth != 0 then .abort (parkWave s' c.key c.p pc 0xFFFFFFFF .read vas) (txCause "FAULT")
    else if op.scalar then .stay (parkWave s' c.key c.p pc 0xFFFFFFFF .read vas)
    else if loadWaits s c op.stream good then .wait (loadReason s c op.stream good) 0
    else
      let s' := checkReads s' c good
      match stops s' good with
      | some r => r
      | none => if leasedDirty s (awayAccs s c.w.core good) then .wait 31 0 else match performLoad s' c op useL1 good with
        | none => homeWait s' c 0 good
        | some s => .stay (parkWave s c.key c.p pc bad .read vas)
  | .ok s' accs =>
    if c.w.txn.depth != 0 then
      let s' := checkReads s' c accs
      match stops s' (accs.filter fun a => (trackedPlace s c a.tgt).isSome) with
      | some r => r
      | none => txLoad s' c op useL1 accs
    else if loadWaits s c op.stream accs then .wait (loadReason s c op.stream accs) 0
    else
      let s' := checkReads s' c accs
      match stops s' accs with
      | some r => r
      | none => if leasedDirty s (awayAccs s c.w.core accs) then .wait 31 0 else match performLoad s' c op useL1 accs with
        | none => homeWait s' c 0 accs
        | some s => .next s

/-! ### LD -/

/-- The registers that LD writes must not be its address pair under AM = 0, with their banks (R493). -/
def ldDistinct (d : BitVec 7) (pair : Bool) (a : BitVec 7) (m : BitVec 1) (c : Ctx) : Bool :=
  let dst := (opD d).reg c
  let src := a.toNat + (if c.modBit 10 then 128 else 0)
  m == 1 || !(dst == src || dst == src + 1 || (pair && (dst + 1 == src || dst + 1 == src + 1)))

/-- LD: the opcode fixes the bytes of a lane and the tag written (R492, R493). -/
def ldLanes (i : Instr) (n : Nat) (tag : BitVec 4) (d a : BitVec 7) (m : BitVec 1) (st : BitVec 4) (sc : BitVec 3) (o : BitVec 2)
    (s : State) : Host.Outcome State Fault Refusal :=
  run i { kinds := 0x1C, modMask := modPlain, opnds := [(opD d).group (n / 4)] ++ opAdr a m, tags := (fun c => needAdr c a m),
          fields := ldDistinct d (n == 8) a m } s fun c =>
    doLoad s c { bytes := n, scalar := false, stream := st.toNat, scope := sc.toNat, acquire := o == 1,
                 dest := .vector ((opD d).reg c) (n == 8) tag }
      (laneAddrs s c a m n (c.acting &&& retryLanes c.w c.p c.path.pc))

/-- `ld.b32`. -/
def execLdB32 (d a : BitVec 7) (m : BitVec 1) (st : BitVec 4) (sc : BitVec 3) (o : BitVec 2) (s : State) :
    Host.Outcome State Fault Refusal := ldLanes (.ldB32 d a m st sc o) 4 0 d a m st sc o s
/-- `ld.f32`. -/
def execLdF32 (d a : BitVec 7) (m : BitVec 1) (st : BitVec 4) (sc : BitVec 3) (o : BitVec 2) (s : State) :
    Host.Outcome State Fault Refusal := ldLanes (.ldF32 d a m st sc o) 4 1 d a m st sc o s
/-- `ld.i32`. -/
def execLdI32 (d a : BitVec 7) (m : BitVec 1) (st : BitVec 4) (sc : BitVec 3) (o : BitVec 2) (s : State) :
    Host.Outcome State Fault Refusal := ldLanes (.ldI32 d a m st sc o) 4 4 d a m st sc o s
/-- `ld.n32`. -/
def execLdN32 (d a : BitVec 7) (m : BitVec 1) (st : BitVec 4) (sc : BitVec 3) (o : BitVec 2) (s : State) :
    Host.Outcome State Fault Refusal := ldLanes (.ldN32 d a m st sc o) 4 5 d a m st sc o s
/-- `ld.f16`. -/
def execLdF16 (d a : BitVec 7) (m : BitVec 1) (st : BitVec 4) (sc : BitVec 3) (o : BitVec 2) (s : State) :
    Host.Outcome State Fault Refusal := ldLanes (.ldF16 d a m st sc o) 4 2 d a m st sc o s
/-- `ld.bf16`. -/
def execLdBf16 (d a : BitVec 7) (m : BitVec 1) (st : BitVec 4) (sc : BitVec 3) (o : BitVec 2) (s : State) :
    Host.Outcome State Fault Refusal := ldLanes (.ldBf16 d a m st sc o) 4 3 d a m st sc o s
/-- `ld.e4m3`. -/
def execLdE4m3 (d a : BitVec 7) (m : BitVec 1) (st : BitVec 4) (sc : BitVec 3) (o : BitVec 2) (s : State) :
    Host.Outcome State Fault Refusal := ldLanes (.ldE4m3 d a m st sc o) 4 0xA d a m st sc o s
/-- `ld.i64`. -/
def execLdI64 (d a : BitVec 7) (m : BitVec 1) (st : BitVec 4) (sc : BitVec 3) (o : BitVec 2) (s : State) :
    Host.Outcome State Fault Refusal := ldLanes (.ldI64 d a m st sc o) 8 0xF d a m st sc o s

/-! ### SLD -/

/-- SLD (R536, R537): it acts once, whatever the active mask. -/
def sldOnce (i : Instr) (n : Nat) (signed : Bool) (d a : BitVec 6) (st : BitVec 4) (sc : BitVec 3) (o : BitVec 2) (s : State) :
    Host.Outcome State Fault Refusal :=
  run i { kinds := 0x18 } s fun c =>
    doLoad s c { bytes := n, scalar := true, stream := st.toNat, scope := sc.toNat, acquire := o == 1,
                 dest := .scalar d.toNat n signed } [(0, c.w.sreg a.toNat + c.off)]

/-- `sld.n8`. -/
def execSldN8 (d a : BitVec 6) (st : BitVec 4) (sc : BitVec 3) (o : BitVec 2) (s : State) : Host.Outcome State Fault Refusal :=
  sldOnce (.sldN8 d a st sc o) 1 false d a st sc o s
/-- `sld.i8`. -/
def execSldI8 (d a : BitVec 6) (st : BitVec 4) (sc : BitVec 3) (o : BitVec 2) (s : State) : Host.Outcome State Fault Refusal :=
  sldOnce (.sldI8 d a st sc o) 1 true d a st sc o s
/-- `sld.n16`. -/
def execSldN16 (d a : BitVec 6) (st : BitVec 4) (sc : BitVec 3) (o : BitVec 2) (s : State) : Host.Outcome State Fault Refusal :=
  sldOnce (.sldN16 d a st sc o) 2 false d a st sc o s
/-- `sld.i16`. -/
def execSldI16 (d a : BitVec 6) (st : BitVec 4) (sc : BitVec 3) (o : BitVec 2) (s : State) : Host.Outcome State Fault Refusal :=
  sldOnce (.sldI16 d a st sc o) 2 true d a st sc o s
/-- `sld.n32`. -/
def execSldN32 (d a : BitVec 6) (st : BitVec 4) (sc : BitVec 3) (o : BitVec 2) (s : State) : Host.Outcome State Fault Refusal :=
  sldOnce (.sldN32 d a st sc o) 4 false d a st sc o s
/-- `sld.i32`. -/
def execSldI32 (d a : BitVec 6) (st : BitVec 4) (sc : BitVec 3) (o : BitVec 2) (s : State) : Host.Outcome State Fault Refusal :=
  sldOnce (.sldI32 d a st sc o) 4 true d a st sc o s
/-- `sld.n64`. -/
def execSldN64 (d a : BitVec 6) (st : BitVec 4) (sc : BitVec 3) (o : BitVec 2) (s : State) : Host.Outcome State Fault Refusal :=
  sldOnce (.sldN64 d a st sc o) 8 false d a st sc o s

/-! ### WLD -/

/-- The place of a line of a waymark store. -/
def waymarkPlace (line : Nat) : Place := { space := .waymark, owner := 0, unit := line }

/-- The key under which a line of the waymark store stands in the list of poisoned lines. -/
def waymarkPoison (line : Nat) : Nat := 2 ^ 61 + line

/-- WLD (R558, R559): all its lanes read the package's replica at the applied prefix. -/
def wldLanes (i : Instr) (n : Nat) (tag : BitVec 4) (d a : BitVec 7) (m : BitVec 1) (st : BitVec 4) (o : BitVec 2) (s : State) :
    Host.Outcome State Fault Refusal :=
  run i { kinds := 0x1C, modMask := modPlain, opnds := [(opD d).group (n / 4)] ++ opAdr a m, tags := (fun c => needAdr c a m) } s fun c =>
    let offs := laneAddrs s c a m n c.acting
    let mis := offs.filter fun l => l.2.toNat % n != 0
    let out := offs.filter fun l => !inWaymark c.conv.desc.wmSize l.2.toNat n
    let addr (o : Dword) : Nat := c.conv.desc.wmBase + o.toNat
    if streamHeld c st.toNat then .wait (heldReason c st.toNat) 0
    else if !mis.isEmpty then .trap (laneTrap 0x06 false mis)
    else if !out.isEmpty then .trap (laneTrap 0x08 false out)
    else if acquireOut s c.key st.toNat then .wait 7 0
    else
    let check := checkUnit s 10 0 0 (((offs.head?).map (·.2)).getD 0) c.conv.context
    let s := check.1
    if check.2 || offs.any fun l => s.poisoned.contains (waymarkPoison (addr l.2 / 128)) then
      consumePoison s c ((offs.head?.map (·.2)).getD 0) (laneMask (offs.map (·.1)))
    else
      let vals := offs.map fun l => (l.1, readNat s.waymark (addr l.2) n)
      let done (s : State) : Res :=
        let s := s.modWave c.key fun w => w.loaded (.vector ((opD d).reg c) (n == 8) tag) vals
        .next (if o == 1 then acquireFor s c.key c.w.core 4 else s)
      if c.w.txn.depth == 0 then done s
      else
        let r := addReads s c.key (offs.map fun l => waymarkPlace (addr l.2 / 128))
        if r.2 then .abort r.1 (txCause "READ_OVERFLOW") else done r.1

/-- `wld.n32`. -/
def execWldN32 (d a : BitVec 7) (m : BitVec 1) (st : BitVec 4) (o : BitVec 2) (s : State) : Host.Outcome State Fault Refusal :=
  wldLanes (.wldN32 d a m st o) 4 5 d a m st o s
/-- `wld.n64`. -/
def execWldN64 (d a : BitVec 7) (m : BitVec 1) (st : BitVec 4) (o : BitVec 2) (s : State) : Host.Outcome State Fault Refusal :=
  wldLanes (.wldN64 d a m st o) 8 0xF d a m st o s

/-! ### PREF and CFLUSH -/

/-- The lane addresses of an instruction that acts once under AM = 1 (R408). -/
def lineAddrs (s : State) (c : Ctx) (a : BitVec 7) (m : BitVec 1) (mask : Word) : List (Nat × Dword) :=
  if m == 1 then [(0, c.w.sreg (a.toNat % 64) + c.off)] else laneAddrs s c a m 1 mask

/-- Places the line of a prefetch (R510): SCHED CACHE 2 and 3 keep it out of the L1. A line of another package is left (DESIGN CHOICE, log 9). -/
def prefLine (s : State) (core : Nat) (useL1 : Bool) (a : Acc) : State :=
  match a.tgt with
  | .mem pa cache => if paPkg pa != s.pkg || cache == 2 then s else (touchRead s core pa cache useL1).getD s
  | _ => s

/-- PREF (R509 to R511): it translates as a load and writes nothing. Inside a transaction a replayable fault aborts the attempt. -/
def execPref (a : BitVec 7) (m : BitVec 1) (st : BitVec 4) (sc : BitVec 3) (s : State) : Host.Outcome State Fault Refusal :=
  run (.pref a m st sc) { kinds := 0x1C, modMask := modPlain, opnds := opAdr a m, tags := (fun c => needAdr c a m) } s fun c =>
    let cache := bits (c.ext.payload 4).toNat 16 2
    let useL1 := cache == 0 || cache == 1
    let pc := c.path.pc
    if streamHeld c st.toNat then .wait (heldReason c st.toNat) 0
    else match resolve s c .read 1 (m == 1) (lineAddrs s c a m (c.acting &&& retryLanes c.w c.p pc)) with
    | .trap t => .trap t
    | .poison a => consumePoison s c a 0
    | .held pa kind => walkWait s pa kind
    | .fault s' good bad vas =>
      if c.w.txn.depth != 0 then .abort (parkWave s' c.key c.p pc 0xFFFFFFFF .read vas) (txCause "FAULT")
      else .stay (parkWave (good.foldl (fun s x => prefLine s c.w.core useL1 x) s') c.key c.p pc
        (if m == 1 then 0xFFFFFFFF else bad) .read vas)
    | .ok s' accs => .next (accs.foldl (fun s x => prefLine s c.w.core useL1 x) s')

/-- CFLUSH of a line (R439). Coherent lines, and those mapped with CACHE 1 or 2, only leave the issuing core's L1. -/
def flushLine (s : State) (core scope : Nat) (a : Acc) : State :=
  match a.tgt with
  | .mem pa cache =>
    let line := lineOf pa
    let stack := coreStack core
    let s := dropL1 s line (· == core)
    let reach := decide (3 ≤ scope) && scopeCleans s scope line && cache == 0
    if !reach then s
    else if isHome s stack pa then cleanCopy s line stack
    else leaveCopy s line stack
  | _ => s

/-- CFLUSH (R438 to R440): it translates as a load, with the checks of a load's addresses (DEDUCED, log 77), a replayable fault
holds up the whole, and it is ordered as a store. -/
def execCflush (a : BitVec 7) (m : BitVec 1) (st : BitVec 4) (sc : BitVec 3) (s : State) : Host.Outcome State Fault Refusal :=
  run (.cflush a m st sc) { kinds := 0x1C, modMask := modPlain, opnds := opAdr a m, inTx := false, tags := (fun c => needAdr c a m) } s fun c =>
    let pc := c.path.pc
    if streamHeld c st.toNat then .wait (heldReason c st.toNat) 0
    else match resolve s c .read 1 (m == 1) (lineAddrs s c a m c.acting) with
    | .trap t => .trap t
    | .poison a => consumePoison s c a 0
    | .held pa kind => walkWait s pa kind
    | .fault s' _ _ vas => .stay (parkWave s' c.key c.p pc 0xFFFFFFFF .read vas)
    | .ok s' accs =>
      if !(loadsOut s c.key st.toNat).isEmpty then .wait 7 0
      else .next (accs.foldl (fun s x => flushLine s c.w.core sc.toNat x) s')

/-! ### The return of an outstanding load -/

/-- The convoy of a wave. -/
def waveConvoy (s : State) (key : Nat) : Option Convoy := tget s.convoys (keyConvoy key)

/-- A path no longer waits long for a load (R194). -/
def Wave.awoke (p : Nat) (w : Wave) : Wave := { w with div := w.div.setPath p { w.div.path p with waitedLong := false } }

/-- LOAD_RETURN (R493): the data of an outstanding load or atomic is written to its lanes, which a poisoned value ends (R340). An
acquire takes its effect with the return (R170). A convoy that is being evicted leaves its loads abandoned (R318), and a TLD's data comes
with its completion (R236). -/
def execLoadReturn (load : Nat) (lanes : Vector Dword 32) (poison : Bool) (s : State) : Host.Outcome State Fault Refusal :=
  match tget s.loads load with
  | none => .next s
  | some l =>
    if (match l.dest with | .tile _ _ => true | _ => false) || (waveConvoy s l.wave).any fun v => v.residence != .placed then .next s
    else
    let s := { s with loads := tdel s.loads load, epoch := s.epoch + 1, draws := s.draws + 1 }
    match tget s.waves l.wave with
    | none => .next s
    | some w =>
      if w.ended then .next s
      else if poison then .next (containWave s l.wave l.pc ((l.addrs.head?.map (·.2)).getD 0) l.lanes)
      else
        let s := s.modWave l.wave fun w => w.loaded l.dest ((bitsSet l.lanes).map fun L => (L, (vget lanes L 0).toNat))
        let s := s.modWave l.wave (Wave.awoke l.path)
        .next (match l.acquire with | some scope => acquireFor s l.wave w.core scope | none => s)

end Sys2Proof.Machine
end

