-- ==== Sys2Proof/Machine/MatSum.lean ====
section
/-! DEFINITION. The arithmetic of matrix instructions: operand rows (R222, R225), tagged and graded blocks (R81 to R85), and the sum order
of an output element (R94 to R96). -/

namespace Sys2Proof.Machine

/-! ### Operand rows -/

/-- Bits of an element of a matrix format code (R222). -/
def matBits (code : Nat) : Nat := if code ≤ 1 then 16 else if code ≤ 4 || code == 8 then 8 else 4

/-- The code is an integer format, whose products go to an I32 accumulator (R93). -/
def matInt (code : Nat) : Bool := code == 4 || code == 6

/-- The elements that bytes hold, the low nibble first in 4-bit formats (R225). -/
def splitBytes : Nat → List Byte → List Nat
  | _, [] => []
  | 16, [_] => []
  | 16, a :: b :: t => (a.toNat + 256 * b.toNat) :: splitBytes 16 t
  | 4, a :: t => (a.toNat % 16) :: (a.toNat / 16) :: splitBytes 4 t
  | n, a :: t => a.toNat :: splitBytes n t

/-- The bytes of row `r` of an operand of `n` rows: 96 in a row, or K-major where `trans` holds (R225). -/
def rowBytes (code n r : Nat) (trans : Bool) (bs : List Byte) : List Byte :=
  if trans then
    let e := matBits code / 8
    (List.range (96 / e)).flatMap fun k => (bs.drop (k * n * e + r * e)).take e
  else (bs.drop (96 * r)).take 96

/-- The value of an untagged float element (R76, R80). -/
def matVal (code x : Nat) : FVal :=
  if code == 0 then decodeF .bf16 x
  else if code == 1 then decodeF .f16 x
  else if code == 2 then decodeF .e4m3 x
  else if code == 3 then decodeF .e5m2 x
  else if code == 5 then decodeF .e2m1 x
  else q4nVal x

/-- A byte of a list, zero past its end. -/
def byteOf (bs : List Byte) (i : Nat) : Nat := (bs.getD i 0).toNat

/-- The tag of block `j` of row `r` of a tagged operand of `n` rows (R83). -/
def blockTag (plane : List Byte) (n r j : Nat) : Nat := byteOf plane (16 * n + 4 * r + j / 4) / 4 ^ (j % 4) % 4

/-- A block of a row as the array reads it: none where it is a zero block (R82), else the values of its elements. -/
abbrev Block := Option (List FVal)

/-- Cuts a list into blocks. -/
def blocksOf {α : Type} (n : Nat) (l : List α) : List (List α) := (List.range (l.length / n)).map fun j => (l.drop (n * j)).take n

/-- The 16-element blocks of a tagged row (R81 to R83). -/
def taggedRow (tg8 : Bool) (n r : Nat) (plane : List Byte) (xs : List Nat) : List Block :=
  (blocksOf 16 xs).mapIdx fun j b =>
    let tag := blockTag plane n r j
    let e := byteOf plane (16 * r + j)
    if tag == 3 then none else some (b.map (scaledVal tg8 tag e))

/-- The blocks of 16 elements of a row of an operand (R94): tagged, or plain with scale 1. -/
def matRow (code n r : Nat) (trans : Bool) (bs plane : List Byte) : List Block :=
  let xs := splitBytes (matBits code) (rowBytes code n r trans bs)
  if code == 8 || code == 9 then taggedRow (code == 8) n r plane xs
  else (blocksOf 16 xs).map fun b => some (b.map (matVal code))

/-- The integers of a row (R96). -/
def matIntRow (code n r : Nat) (trans : Bool) (bs : List Byte) : List Int :=
  (splitBytes (matBits code) (rowBytes code n r trans bs)).map (signedNat (matBits code))

/-! ### Graded scales (R84, R85) -/

/-- rne32(S x g / 255) (R84): the quotient is taken with 80 bits below the units of S and a sticky bit. -/
def gradedScale (sBits : Nat) (g : Nat) : FVal :=
  match decodeF .f32 sBits with
  | .nan => .nan
  | .inf neg => if g == 0 then .nan else .inf neg
  | .fin neg m e =>
    let q := m * g * 2 ^ 80 / 255
    let sticky := if m * g * 2 ^ 80 % 255 == 0 then 0 else 1
    decodeF .f32 (encodeF .f32 0 false (.fin neg (2 * q + sticky) (e - 81)))

/-- The graded scale of block `j` of row `r` (R85). -/
def rowGrade (plane : List Byte) (r j : Nat) : FVal :=
  let base := 16 * r
  let s (o : Nat) : Nat := leNat ((plane.drop (base + o)).take 4)
  gradedScale (if byteOf plane (base + 3) / 2 ^ j % 2 == 1 then s 8 else s 4) (byteOf plane (base + j))

/-! ### Sums (R94 to R96) -/

/-- The exact sum of a list of terms, from the first on; an empty one is +0 (DEDUCED, log 36). -/
def sumTerms (mode : Nat) : List FVal → FVal
  | [] => .fin false 0 0
  | x :: t => t.foldl (FVal.add mode) x

/-- The products of two blocks of 16; none where either is a zero block. -/
def blockTerms (a b : Block) : Option (List FVal) :=
  match a, b with
  | some x, some y => some (List.zipWith FVal.mul x y)
  | _, _ => none

/-- One step of the accumulator (R94, R95): rounded once, an infinite result saturated under .sat, a subnormal one flushed under FTZ. -/
def accStep (mode : Nat) (sat ftz : Bool) (acc : Nat) (v : FVal) : Nat :=
  writeF .f32 mode sat ftz (FVal.add mode (decodeF .f32 acc) v)

/-- An output element of MMA and MMAS (R94): a block that either operand skips takes no step. -/
def dotFloat (mode : Nat) (sat ftz : Bool) (acc : Nat) (a b : List Block) : Nat :=
  (List.zipWith blockTerms a b).foldl (fun acc t => match t with
    | none => acc
    | some l => accStep mode sat ftz acc (sumTerms mode l)) acc

/-- An output element of MMAG (R84, R94): blocks of 64, each with its graded scale; a zero block of B removes its own 16 elements. -/
def dotGraded (mode : Nat) (sat ftz : Bool) (acc : Nat) (grades : List FVal) (a b : List Block) : Nat :=
  let groups := blocksOf 4 (List.zipWith blockTerms a b)
  (List.zip grades groups).foldl (fun acc g =>
    let s := sumTerms mode (g.2.flatMap fun t => t.getD [])
    let v := decodeF .f32 (encodeF .f32 mode false (s.mul g.1))
    accStep mode sat ftz acc v) acc

/-- An output element of an integer matrix instruction (R96). -/
def dotInt (acc : Nat) (a b : List Int) : Nat := wrapNat 32 ((acc : Int) + (List.zipWith (· * ·) a b).sum)

end Sys2Proof.Machine
end

