-- ==== Sys2Proof/Machine/Matrix.lean ====
section
/-! DEFINITION. Matrix instructions (R220 to R233, R496 to R498): the checks of their operands, the sequencer's queue, their completion into
the tile, the hazards of R179 and R180, OPFENCE and MWAIT. -/

namespace Sys2Proof.Machine

/-! ### Tiles in use (R180, R447) -/

/-- A collective in flight has the tile as its operand (R447). -/
def tileShared (s : State) (crew t : Nat) : Bool := s.collectives.any fun e => crewKey e.2.convoy e.2.crew == crew && e.2.tile == some t

/-- A wave other than `key` of the crew, or, where `self` holds, `key` as well, has a matrix instruction on the tile that no MWAIT has passed;
or a collective has it as its operand. -/
def tileBusy (s : State) (crew t key : Nat) (self : Bool) : Bool :=
  tileShared s crew t || s.waves.any fun e => keyCrewKey e.1 == crew && (self || e.1 != key) && e.2.unwaited.contains t

/-- The results of the outstanding matrix instructions on a tile, and of a collective that has it as its operand, become undefined, and so does
what the completed ones have left in it (R180, R447). -/
def spoilTile (s : State) (crew t : Nat) : State :=
  let mark (m : MatrixOp) : MatrixOp := if keyCrewKey m.wave == crew && m.tile == t then { m with undefined := true } else m
  let s := { s with cores := tmap s.cores fun _ k =>
    if k.queue.isEmpty && k.running.isNone then k else { k with queue := k.queue.map mark, running := k.running.map mark } }
  let blot (x : Collective) : Collective := if crewKey x.convoy x.crew == crew && x.tile == some t then { x with undefined := true } else x
  let s := { s with collectives := tmap s.collectives fun _ x => blot x }
  freeTile s crew t 0

/-! ### The checks of the operands (R224, R228, R230) -/

/-- The operands of a matrix instruction as its fields and EXT.SHAPE give them. -/
structure MatSpec where
  kind : Nat
  joint : Bool
  tile : Nat
  fa : Nat
  fb : Nat
  sa : Nat
  sb : Nat
  deriving DecidableEq, Repr

/-- A field of EXT.SHAPE (R227). -/
def Ctx.shape (c : Ctx) (lo n : Nat) : Nat := bits (c.ext.payload 6).toNat lo n

/-- The crew that an operand is read from: SRC names the operand of crew PEER (R227). -/
def srcCrew (c : Ctx) (which : Nat) : Nat := if c.shape 16 2 == which then c.shape 13 3 else keyCrew c.key

/-- The operand carries a plane (R223). -/
def MatSpec.planeA (m : MatSpec) : Bool := m.kind != 0
def MatSpec.planeB (m : MatSpec) : Bool := m.kind == 1 || (m.kind == 2 && m.fb == 9)

/-- What an address register of a matrix instruction names: its value, the crew it is read from, the bytes, and whether SRC names its
operand. -/
structure MatOperand where
  ea : Dword
  crew : Nat
  size : Nat
  src : Bool
  deriving DecidableEq, Repr

/-- The operands of a matrix instruction in scratch: A, its plane, B, its plane (R223, R224). -/
def matOperands (c : Ctx) (m : MatSpec) : List MatOperand :=
  let rows := tileRows c.conv.card.bind
  let cols := tileCols c.conv.card.bind
  let one (which r size : Nat) : MatOperand :=
    { ea := c.w.sreg r, crew := srcCrew c which, size := size, src := c.shape 16 2 == which }
  [one 1 m.sa (96 * rows)] ++
  (if m.planeA then [one 1 (m.sa + 1) (planeBytes (m.kind == 2) rows)] else []) ++
  [one 2 m.sb (96 * cols)] ++
  (if m.planeB then [one 2 (m.sb + 1) (planeBytes false cols)] else [])

/-- The top byte of an address is assigned (R106). -/
def topAssigned (ea : Dword) : Bool :=
  let t := ea.toNat / 2 ^ 56
  t == 0 || (0xF0 ≤ t && t ≤ 0xF3)

/-- An operand is read by a multicast fetch, which checks windows even in the peer's own crew (R229). -/
def multicast (c : Ctx) (o : MatOperand) : Bool := o.src && c.shape 5 8 / 2 ^ keyCrew c.key % 2 == 1

/-- The operand lies within its crew's scratch, in windows that the wave may read (R224, R228). -/
def operandOk (s : State) (c : Ctx) (o : MatOperand) : Bool :=
  let off := o.ea.toNat % 2 ^ 24
  let key := crewKey (keyConvoy c.key) o.crew
  decide (off + o.size ≤ (s.crew key).scratchSize) &&
  ((o.crew == keyCrew c.key && !multicast c o) || (linesOf off o.size).all fun l => (windowByte s key l).getLsbD 0)

/-- The fields that depend on the convoy (R227): MODE, SRC, MCAST, and TA and TB (R225). -/
def shapeOk (m : MatSpec) (c : Ctx) : Bool :=
  let mode := c.shape 3 2
  let src := c.shape 16 2
  (mode == 0 || mode == c.conv.card.bind) && src != 3 &&
  (c.shape 5 8 == 0 || (src != 0 && m.joint)) &&
  (c.shape 19 1 == 0 || (m.kind == 0 && m.fa ≤ 4)) && (c.shape 18 1 == 0 || (m.kind == 0 && m.fb ≤ 4)) &&
  (!m.joint || c.ext.imm.toNat ≤ 15)

/-- The accumulator's tag (R93). -/
def MatSpec.accTag (m : MatSpec) : BitVec 4 := if m.kind == 0 && matInt m.fa then 4 else 1

/-- The tag check of a tile operand (R93, R236): role 3 in TRAPADDR (R326). -/
def needTile (s : State) (c : Ctx) (t : Nat) (tag : BitVec 4) : List TagReq :=
  let found := (s.tile (keyCrewKey c.key) t).tag
  [{ role := 3, expected := tag, found := found, ok := found == tag }]

/-- A sub-array of the core's gang is fenced (R240). -/
def arrayFenced (s : State) (c : Ctx) : Bool :=
  let n := if c.conv.card.bind == 3 then 4 else if c.conv.card.bind == 2 then 2 else 1
  (List.range n).any fun j => (s.core (c.w.core + j)).fenced != 0

/-- The traps that follow the accumulator's tag, in their order (R230): MISALIGNED, PAGE_FAULT, PERMISSION, MATRIX_RESET. The spec gives no TRAPADDR for a PEER or
an MCAST bit beyond the crew count (R227): it is the address register of the operand that SRC names, A's where it names none (DESIGN CHOICE, log 89).
Nor does it give the registers of the precise MATRIX_RESET of a fenced array (R240): ASYNC is 0, TRAPPC names the instruction, the saved PC the next one,
and TRAPADDR is 0 (DESIGN CHOICE, log 90). -/
def matTrap (s : State) (c : Ctx) (m : MatSpec) : Option Trap :=
  let os := matOperands c m
  let crews := c.conv.card.crews
  let peerBad := decide (crews ≤ c.shape 13 3) || c.shape 5 8 / 2 ^ crews != 0
  match os.find? fun o => o.ea.toNat % 128 != 0 with
  | some o => some (Trap.mk' 0x06 o.ea)
  | none => match os.find? fun o => !topAssigned o.ea || o.ea.toNat / 2 ^ 24 % 2 ^ 32 != 0 with
  | some o => some (Trap.mk' 0x07 o.ea)
  | none => match os.find? fun o => o.ea.toNat / 2 ^ 56 != 0xF1 with
  | some o => some (Trap.mk' 0x08 o.ea)
  | none =>
    if peerBad then some (Trap.mk' 0x08 (c.w.sreg (if c.shape 16 2 == 2 then m.sb else m.sa)))
    else match os.find? fun o => !operandOk s c o with
    | some o => some (Trap.mk' 0x08 o.ea)
    | none => if arrayFenced s c then some { Trap.mk' 0x0C 0 with nextPc := true } else none

/-! ### Issue into the sequencer (R231) -/

/-- What holds a matrix instruction at issue: a slab reset (R247), a tile that a TLD is loading (R236), a full queue or 15
outstanding (R231). -/
def matWait (s : State) (c : Ctx) (t : Nat) : Option Nat :=
  let k := s.core c.w.core
  if k.resetting then some 29
  else if c.w.tldTiles.getLsbD t then some 18
  else if 8 ≤ k.queue.length || 15 ≤ c.w.outstanding then some 17
  else none

/-- A store to a line of a crew's scratch is not ordered before the wave's matrix instructions (R179): its own by OPFENCE, another agent's by an acquire that
includes it and an OPFENCE after that. -/
def unordered (s : State) (key : Nat) (w : Wave) (crew line : Nat) : Bool :=
  (s.crew crew).stores.any fun e => e.1 == line && match e.2.1 with
    | some k => if k == key then decide (w.fences.own ≤ e.2.2)
      else if keyCrewKey k == keyCrewKey key then decide (w.fences.crewDone ≤ e.2.2) else decide (w.fences.wideDone ≤ e.2.2)
    | none => decide (w.fences.wideDone ≤ e.2.2)

/-- The places of the bytes of row `r` of an operand of `n` rows (R225). -/
def rowPlaces (code n r : Nat) (trans : Bool) : List Nat :=
  if trans then
    let e := matBits code / 8
    (List.range (96 / e)).flatMap fun k => (List.range e).map fun j => k * n * e + r * e + j
  else (List.range 96).map (96 * r + ·)

/-- The places of the bytes of a plane that belong to row `r` (R83, R85). -/
def planePlaces (graded : Bool) (n r : Nat) : List Nat :=
  (List.range 16).map (16 * r + ·) ++ (if graded then [] else (List.range 4).map (16 * n + 4 * r + ·))

/-- The rows of an operand, and of its plane, that have bytes in lines that are not ordered before the instruction (R179). -/
def staleRows (s : State) (c : Ctx) (crew addr code n : Nat) (trans : Bool) (plane : Option Nat) (graded : Bool) : List Nat :=
  let stale (o : Nat) : Bool := unordered s c.key c.w crew (o / 128)
  let lines (a size : Nat) : Bool := (linesOf a size).any fun l => unordered s c.key c.w crew l
  let hit := lines addr (96 * n) || plane.any fun p => lines p (planeBytes graded n)
  if !hit then []
  else (List.range n).filter fun r => ((rowPlaces code n r trans).any fun o => stale (addr + o)) ||
    plane.any fun p => (planePlaces graded n r).any fun o => stale (p + o)

/-- An instruction as the sequencer holds it. -/
def matOp (s : State) (c : Ctx) (m : MatSpec) (undefined : Bool) : MatrixOp :=
  let v := keyConvoy c.key
  let off (r : Nat) : Nat := (c.w.sreg r).toNat % 2 ^ 24
  let ta := c.shape 19 1 == 1
  let tb := c.shape 18 1 == 1
  let rows := tileRows c.conv.card.bind
  let cols := tileCols c.conv.card.bind
  { wave := c.key, pc := c.path.pc, kind := m.kind, tile := m.tile, fa := m.fa, fb := m.fb,
    rows := rows, cols := cols,
    crewA := crewKey v (srcCrew c 1), crewB := crewKey v (srcCrew c 2), addrA := off m.sa, addrB := off m.sb,
    planeA := if m.planeA then off (m.sa + 1) + 1 else 0, planeB := if m.planeB then off (m.sb + 1) + 1 else 0,
    ta := ta, tb := tb, rnd := c.rnd, ftz := c.modBit 12, sat := c.modBit 15,
    undefined := undefined || tileBusy s (keyCrewKey c.key) m.tile c.key false, started := none, seq := c.w.matSeq
    freeRows := staleRows s c (crewKey v (srcCrew c 1)) (off m.sa) m.fa rows ta (if m.planeA then some (off (m.sa + 1)) else none) (m.kind == 2)
    freeCols := staleRows s c (crewKey v (srcCrew c 2)) (off m.sb) m.fb cols tb (if m.planeB then some (off (m.sb + 1)) else none) false }

/-- A matrix instruction whose checks have passed joins the queue, and its wave's count rises (R231). Where another wave of the crew still
works on the tile, both results are undefined (R498). -/
def matIssue (s : State) (c : Ctx) (m : MatSpec) (undefined : Bool) : State :=
  let crew := keyCrewKey c.key
  let op := matOp s c m undefined
  let s := if tileBusy s crew m.tile c.key false then spoilTile s crew m.tile else s
  let k := s.core c.w.core
  let s := s.setCore c.w.core { k with queue := k.queue ++ [op] }
  s.modWave c.key fun w => { w with outstanding := w.outstanding + 1, matSeq := w.matSeq + 1, unwaited := w.unwaited ++ [m.tile] }

/-- What the issue checks of a matrix instruction need (R227, R230). EXT.MOD does not apply to integer pairs (R96). -/
def matSpec (s : State) (m : MatSpec) : IssueSpec :=
  let int := m.kind == 0 && matInt m.fa
  { kinds := (if int then 0x50 else 0x54) ||| (if m.joint then 1 else 0), modMask := 0x0F000, immFree := m.joint, tiles := [m.tile],
    inTx := false, onePath := m.joint, tags := (fun c => needTile s c m.tile m.accTag), fields := shapeOk m }

/-- A matrix instruction of its own wave alone (R226). -/
def matAlone (i : Instr) (m : MatSpec) (s : State) : Host.Outcome State Fault Refusal :=
  run i (matSpec s m) s fun c =>
    match matTrap s c m with
    | some t => .trap t
    | none => match matWait s c m.tile with
      | some r => .wait r 0
      | none => .next (matIssue s c m false)

/-- `mma` (R496). -/
def execMma (t f g : BitVec 4) (a b : BitVec 6) (s : State) : Host.Outcome State Fault Refusal :=
  matAlone (.mma t f g a b) { kind := 0, joint := false, tile := t.toNat, fa := f.toNat, fb := g.toNat, sa := a.toNat, sb := b.toNat } s

/-- `mmas` (R496). -/
def execMmas (t f g : BitVec 4) (a b : BitVec 6) (s : State) : Host.Outcome State Fault Refusal :=
  matAlone (.mmas t f g a b) { kind := 1, joint := false, tile := t.toNat, fa := f.toNat, fb := g.toNat, sa := a.toNat, sb := b.toNat } s

/-- `mmag` (R496). -/
def execMmag (t g : BitVec 4) (a b : BitVec 6) (s : State) : Host.Outcome State Fault Refusal :=
  matAlone (.mmag t g a b) { kind := 2, joint := false, tile := t.toNat, fa := 7, fb := g.toNat, sa := a.toNat, sb := b.toNat } s

/-! ### The sequencer (R231) -/

/-- The operand bytes as the array reads them. -/
def readOperands (s : State) (m : MatrixOp) : List Byte × List Byte × List Byte × List Byte :=
  let sc (k : Nat) : Table Byte := (s.crew k).scratch
  (readRun (sc m.crewA) m.addrA (96 * m.rows), readRun (sc m.crewB) m.addrB (96 * m.cols),
   (if m.planeA == 0 then [] else readRun (sc m.crewA) (m.planeA - 1) (planeBytes (m.kind == 2) m.rows)),
   (if m.planeB == 0 then [] else readRun (sc m.crewB) (m.planeB - 1) (planeBytes false m.cols)))

/-- A line of the operands is poisoned (R340). -/
def operandsPoisoned (s : State) (m : MatrixOp) : Bool :=
  let bad (k addr n : Nat) : Bool := (linesOf addr n).any fun l => s.poisoned.contains (scratchPoison k l)
  bad m.crewA m.addrA (96 * m.rows) || bad m.crewB m.addrB (96 * m.cols) ||
  (m.planeA != 0 && bad m.crewA (m.planeA - 1) (planeBytes (m.kind == 2) m.rows)) ||
  (m.planeB != 0 && bad m.crewB (m.planeB - 1) (planeBytes false m.cols))

/-- MATRIX_START (R231): the next queued instruction starts and its operands are read (DEDUCED, log 23). A poisoned operand ends its wave (R340),
and so does an uncorrectable error that the slab's check reports (R343). -/
def execMatrixStart (core : Nat) (s : State) : Host.Outcome State Fault Refusal :=
  let k := s.core core
  match k.running, k.queue with
  | none, m :: rest =>
    if k.resetting then .next s
    else
      let check := checkUnit { s with epoch := s.epoch + 1 } 1 (coreStack core) (core % 128) m.pc (waveContext s m.wave)
      let s := check.1
      let poisoned := check.2 || operandsPoisoned s m
      let m' := { m with started := some (readOperands s m) }
      let s := s.setCore core { k with queue := rest, running := some m', runningSince := s.clock }
      let live := match tget s.waves m.wave with | some w => !w.ended | none => false
      .next (if poisoned && live then containWave s m.wave m.pc 0 0 else s)
  | _, _ => .next s

/-- The tile that a matrix instruction makes (R226). -/
def matResult (m : MatrixOp) (x : Tile) : Tile :=
  match m.started with
  | none => x
  | some (ba, bb, pa, pb) =>
    if m.kind == 0 && matInt m.fa then
      let as := (List.range m.rows).map fun i => matIntRow m.fa m.rows i m.ta ba
      let bs := (List.range m.cols).map fun j => matIntRow m.fb m.cols j m.tb bb
      { x with elems := tileElems m.rows m.cols fun i j => BitVec.ofNat 32 (dotInt (x.elem i j).toNat (as.getD i []) (bs.getD j [])) }
    else
      let as := (List.range m.rows).map fun i => matRow m.fa m.rows i m.ta ba pa
      let bs := (List.range m.cols).map fun j => matRow m.fb m.cols j m.tb bb pb
      let gs := (List.range m.rows).map fun i => (List.range 3).map (rowGrade pa i)
      { x with elems := tileElems m.rows m.cols fun i j => BitVec.ofNat 32 (
          if m.kind == 2 then dotGraded m.rnd m.sat m.ftz (x.elem i j).toNat (gs.getD i []) (as.getD i []) (bs.getD j [])
          else dotFloat m.rnd m.sat m.ftz (x.elem i j).toNat (as.getD i []) (bs.getD j [])) }

/-- Elements of rows and columns that are undefined (R179). -/
def freeLines (s : State) (m : MatrixOp) (x : Tile) : Tile :=
  let elem (i j : Nat) : Word :=
    if m.freeRows.contains i || m.freeCols.contains j then Config.freeWord s.draws 502 (64 * i + j) else x.elem i j
  if m.freeRows.isEmpty && m.freeCols.isEmpty then x else { x with elems := tileElems m.rows m.cols elem }

/-- MATRIX_COMPLETE (R226, R231): the running instruction completes into its tile, and its wave's count falls. It stays noted until an MWAIT passes it
(R180). -/
def execMatrixComplete (core : Nat) (s : State) : Host.Outcome State Fault Refusal :=
  let k := s.core core
  match k.running with
  | none => .next s
  | some m =>
    if k.resetting then .next s
    else
      let crew := keyCrewKey m.wave
      let s := { s with epoch := s.epoch + 1, draws := s.draws + 1 }
      let s := s.setCore core { k with running := none, finished := (k.finished ++ [m]).filter (unpassed s) }
      let s := if m.undefined then freeTile s crew m.tile 1 else s.setTile crew m.tile (freeLines s m (matResult m (s.tile crew m.tile)))
      .next (s.modWave m.wave fun w => { w with outstanding := w.outstanding - 1 })

/-! ### OPFENCE and MWAIT -/

/-- An OPFENCE at an epoch: the wave's own stores before it, and what its acquires before it include, are ordered (R179). -/
def Fences.close (f : Fences) (epoch : Nat) : Fences := { f with own := epoch, crewDone := f.crew, wideDone := f.wide }

/-- An OPFENCE does not order the wave's stores to peer scratch that have been performed but not acknowledged (R179): they count as made now. -/
def keepUnacked (s : State) (key : Nat) : State :=
  (s.scratchOps.filter fun e => e.2.wave == key && e.2.arrived).foldl (fun s e =>
    let again (y : Nat × Option Nat × Nat) : Nat × Option Nat × Nat :=
      if y.2.1 == some key && e.2.writes.any (fun z => z.2.1 / 128 == y.1) then (y.1, y.2.1, s.epoch + 1) else y
    { s with crews := tmod s.crews e.2.target fun x => { x with stores := x.stores.map again } }) s

/-- `opfence` (R232, R507): the wave's earlier stores to scratch come before the operand reads of its later matrix instructions. -/
def execOpfence (s : State) : Host.Outcome State Fault Refusal :=
  run .opfence {} s fun c => .next (keepUnacked (s.modWave c.key fun w => { w with fences := w.fences.close (s.epoch + 1) }) c.key)

/-- `mwait n` (R233, R505): the path goes on once at most n matrix instructions are outstanding. It passes all but the wave's last n (R180). -/
def execMwait (n : BitVec 4) (s : State) : Host.Outcome State Fault Refusal :=
  run (.mwait n) {} s fun c =>
    if n.toNat < c.w.outstanding then .wait 16 0
    else .next (s.modWave c.key fun w => { w with unwaited := w.unwaited.drop (w.unwaited.length - n.toNat) })

end Sys2Proof.Machine
end

