-- ==== Sys2Proof/Machine/Trans.lean ====
section
/-! DEFINITION. Reciprocal, square root and the transcendental functions (R470): exact references in integer arithmetic, rounded once,
and, where R470 permits several values, an unconstrained choice among them (DESIGN CHOICE, log 14). A value known to be inexact is kept with
one more bit, set, so that no later rounding can mistake it for a tie. -/

namespace Sys2Proof.Machine

/-- The integer square root of a number below 2^(2 n). -/
def isqrt (n x : Nat) : Nat :=
  (List.range n).foldl (fun r i =>
    let t := r + 2 ^ (n - 1 - i)
    if t * t ≤ x then t else r) 0

/-- A magnitude with a sticky bit below it. -/
def sticky (neg : Bool) (m : Nat) (exact : Bool) (e : Int) : FVal := .fin neg (2 * m + (if exact then 0 else 1)) (e - 1)

/-- 1/x (R470): of a zero an infinity, of an infinity a zero, with the operand's sign. -/
def recipVal : FVal → FVal
  | .nan => .nan
  | .inf n => .fin n 0 0
  | .fin n m e =>
    if m == 0 then .inf n
    else sticky n (2 ^ 96 / m) (2 ^ 96 % m == 0) (-e - 96)

/-- The square root of a positive magnitude. -/
def sqrtMag (m : Nat) (e : Int) : FVal :=
  let k : Nat := 80 + (e % 2).toNat
  let x := m * 2 ^ k
  let r := isqrt 64 x
  sticky false r (r * r == x) ((e - k) / 2)

/-- The square root (R470): of a zero that zero, of a negative number NaN. -/
def sqrtVal : FVal → FVal
  | .nan => .nan
  | .inf n => if n then .nan else .inf false
  | .fin n m e => if m == 0 then .fin n 0 e else if n then .nan else sqrtMag m e

/-- The reciprocal square root of a positive magnitude. -/
def rsqrtMag (m : Nat) (e : Int) : FVal :=
  let o : Nat := (e % 2).toNat
  let n := 2 ^ 192 / (m * 2 ^ o)
  let r := isqrt 97 n
  sticky false r (r * r * (m * 2 ^ o) == 2 ^ 192) (-((e - o) / 2) - 96)

/-- Fraction bits of the fixed-point arithmetic below. -/
def fixBits : Nat := 320

/-- ln 2 in fixed point, rounded down. -/
def ln2Fix : Nat :=
  0xb17217f7d1cf79abc9e3b39803f2f6af40f343267298b62d8a0d175b8baafa2be7b876206debac98

/-- log2 e in fixed point, rounded down. -/
def log2eFix : Nat :=
  0x171547652b82fe1777d0ffda0d23a7d11d6aef551bad2b4b1164a2cd9a342648fbc3887eeaa2ed9ac

/-- The tail of the exponential series: the sum of the terms from the one given, so many of them at most. -/
def expSeries (t : Nat) : Nat → Nat → Nat → Nat
  | 0, _, _ => 0
  | fuel + 1, k, term => term + expSeries t fuel (k + 1) (term * t / 2 ^ fixBits / k)

/-- 2^f in fixed point, for a fixed-point fraction f of at most 1. -/
def exp2Fix (f : Nat) : Nat := expSeries (f * ln2Fix / 2 ^ fixBits) 90 1 (2 ^ fixBits)

/-- 2^x for a finite x that is no integer, |x| below 256. -/
def exp2Mag (neg : Bool) (m : Nat) (e : Int) : FVal :=
  let x := units neg m e (-(fixBits : Int))
  let n := x / (2 ^ fixBits : Nat)
  let f := (x % (2 ^ fixBits : Nat)).toNat
  sticky false (exp2Fix f) false (n - fixBits)

/-- Bits of the fraction of log2 y for a fixed-point y in [1, 2), by repeated squaring. -/
def log2Frac : Nat → Nat → Nat → Nat
  | 0, _, acc => acc
  | fuel + 1, y, acc =>
    let z := y * y / 2 ^ fixBits
    if 2 ^ (fixBits + 1) ≤ z then log2Frac fuel (z / 2) (2 * acc + 1) else log2Frac fuel z (2 * acc)

/-- log2 of a positive magnitude that is no power of two. -/
def log2Mag (m : Nat) (e : Int) : FVal :=
  let k := Nat.log2 m
  let y := m * 2 ^ fixBits / 2 ^ k
  let t : Int := (e + k) * (2 ^ 128 : Nat) + log2Frac 128 y 0
  if 0 ≤ t then .fin false (2 * t.toNat + 1) (-129) else .fin true (2 * t.natAbs - 1) (-129)

/-- tanh of a positive magnitude below 9, as (1 - E) / (1 + E) with E = 2^(-2 x log2 e). -/
def tanhMag (m : Nat) (e : Int) : FVal :=
  let x := (units false m e (-(fixBits : Int))).toNat
  let y := 2 * x * log2eFix / 2 ^ fixBits
  let n := y / 2 ^ fixBits + 1
  let big := exp2Fix (n * 2 ^ fixBits - y)
  let num := 2 ^ (fixBits + n) - big
  let den := 2 ^ (fixBits + n) + big
  sticky false (num * 2 ^ fixBits / den) false (-(fixBits : Int))

/-- The value is a power of two: its exponent. -/
def powerOfTwo (m : Nat) (e : Int) : Option Int := if m == 2 ^ Nat.log2 m then some (Nat.log2 m + e) else none

/-- The F32 value `k` places above an encoding, in the order of values. -/
def stepF32 (x : Nat) (k : Int) : Nat :=
  let i : Int := (if x / 2 ^ 31 == 1 then -((x % 2 ^ 31 : Nat) : Int) else (x : Int)) + k
  if i < 0 || (i == 0 && x / 2 ^ 31 == 1) then 2 ^ 31 + i.natAbs else i.natAbs

/-- One of the encodings at most `r` places from the rounded reference, chosen freely (R470; DESIGN CHOICE, log 14). -/
def within (op r : Nat) (input : Word) (mods : Nat) (v : FVal) : Nat :=
  stepF32 (encodeF .f32 0 false v) (((Config.transPick op input mods) % (2 * r + 1) : Nat) - (r : Int))

/-- FEXP2 of a value as read (R470): an encoding before FTZ. -/
def exp2Code (input : Word) (mods : Nat) (sat : Bool) : FVal → Nat
  | .nan => FFmt.nanCode .f32
  | .inf n => if n then 0 else encodeF .f32 0 sat (.inf false)
  | .fin n m e =>
    let v : FVal := .fin n m e
    let i := toIntSat 1 (-1000) 1000 v
    if !v.lt (.fin false 128 0) then overflowF .f32 0 sat false
    else if m == 0 then 0x3F800000
    else if (ofInt i).eq v && -149 ≤ i then encodeF .f32 0 false (.fin false 1 i)
    else within 0 1 input mods (if v.lt (.fin true 256 0) then .fin false 1 (-1000)
      else if (ofInt i).eq v then .fin false 1 i else exp2Mag n m e)

/-- FLOG2 of a value as read (R470). -/
def log2Code (input : Word) (mods : Nat) (sat : Bool) : FVal → Nat
  | .nan => FFmt.nanCode .f32
  | .inf n => if n then FFmt.nanCode .f32 else encodeF .f32 0 sat (.inf false)
  | .fin n m e =>
    if m == 0 then encodeF .f32 0 sat (.inf true)
    else if n then FFmt.nanCode .f32
    else match powerOfTwo m e with
    | some k => encodeF .f32 0 false (ofInt k)
    | none => within 1 1 input mods (log2Mag m e)

/-- FRSQ of a value as read (R470). -/
def rsqrtCode (input : Word) (mods : Nat) (sat : Bool) : FVal → Nat
  | .nan => FFmt.nanCode .f32
  | .inf n => if n then FFmt.nanCode .f32 else 0
  | .fin n m e =>
    if m == 0 then encodeF .f32 0 sat (.inf n)
    else if n then FFmt.nanCode .f32
    else match powerOfTwo m e with
    | some k => if k % 2 == 0 then encodeF .f32 0 false (.fin false 1 (-(k / 2))) else within 2 1 input mods (rsqrtMag m e)
    | none => within 2 1 input mods (rsqrtMag m e)

/-- FTANH of a value as read (R470): odd, so that the choice depends on the input's magnitude alone. -/
def tanhCode (input : Word) (mods : Nat) : FVal → Nat
  | .nan => FFmt.nanCode .f32
  | .inf n => 0x3F800000 + (if n then 2 ^ 31 else 0)
  | .fin n m e =>
    let sign := if n then 2 ^ 31 else 0
    if m == 0 then sign
    else if !(FVal.fin false m e).lt (.fin false 9 0) then 0x3F800000 + sign
    else
      let c := within 3 2 (input &&& 0x7FFFFFFF) mods (tanhMag m e)
      if n then (if c < 2 ^ 31 then c + 2 ^ 31 else c - 2 ^ 31) else c

end Sys2Proof.Machine
end

