-- ==== Sys2Proof/Machine/Placement.lean ====
section
/-! DEFINITION. Job cards (R303, R304, R306), the card store (R307 to R309), how a convoy fits on cores (R25 to R32, R55, R310) and what its
placement makes (R48, R57, R310). -/

namespace Sys2Proof.Machine

/-! ### Cards (R303, R304) -/

/-- A job card from its 64 bytes, as a number (R303, R304). -/
def cardOf (n : Nat) : Card :=
  let sh := bits n 192 64
  { entry := BitVec.ofNat 64 (bits n 0 64), param := BitVec.ofNat 64 (bits n 64 64), stampAddr := BitVec.ofNat 64 (bits n 128 64),
    count := bits n 256 32, stampVal := BitVec.ofNat 32 (bits n 288 32), w0 := BitVec.ofNat 64 (bits n 320 64),
    w1 := BitVec.ofNat 64 (bits n 384 64), v0 := BitVec.ofNat 32 (bits n 448 32), v1 := BitVec.ofNat 32 (bits n 480 32),
    w0kind := bits sh 60 2, w1kind := bits sh 62 2, target := bits sh 58 2, prio := bits sh 56 2, bind := bits sh 54 2,
    gang := bits sh 53 1 == 1, scratch := bits sh 40 8, tiles := bits sh 35 5, ext := bits sh 30 5, regs := bits sh 25 5,
    waves := bits sh 20 5, crews := bits sh 16 4 }

/-- An address of a card is virtual and aligned (R306). -/
def virtualAligned (a : Dword) (n : Nat) : Bool := decide (a.toNat < 2 ^ 56) && a.toNat % n == 0

/-- The most crews of a convoy in a binding mode (R27). -/
def modeCrews (bind : Nat) : Nat := if bind == 3 then 2 else if bind == 2 then 4 else 8

/-- A card's fields lie in their ranges (R303, R304, R306). -/
def cardOk (n : Nat) : Bool :=
  let c := cardOf n
  let sh := bits n 192 64
  let word (kind : Nat) (w : Dword) : Bool := kind != 3 && (kind != 1 || virtualAligned w 4)
  virtualAligned c.entry 4 && (c.stampAddr == 0 || virtualAligned c.stampAddr 8) && word c.w0kind c.w0 && word c.w1kind c.w1 &&
  decide (1 ≤ c.count) && decide (c.count ≤ 2 ^ 24) && c.bind != 0 && decide (c.scratch ≤ 128) && decide (c.tiles ≤ 16) &&
  decide (c.ext ≤ 24) && decide (1 ≤ c.regs) && decide (c.regs ≤ 16) && decide (1 ≤ c.waves) && decide (c.waves ≤ 24) &&
  decide (1 ≤ c.crews) && decide (c.crews ≤ modeCrews c.bind) && bits sh 48 5 == 0 && bits sh 0 16 == 0

/-! ### A crew's share of its core (R29, R32, R55) -/

/-- Bytes that the stores of the idled front ends add to a crew's scratch (R29). -/
def addedStore (bind : Nat) : Nat := if bind == 3 then 6 * kib * kib else if bind == 2 then 2 * kib * kib else 0

/-- What a crew takes of its front end's own core store, but for the L1 (R55). -/
def Card.storeBytes (c : Card) : Nat := c.regBytes + (c.scratch * 64 * kib - addedStore c.bind)

/-- A crew's scratch size (R55). -/
def Card.scratchBytes (c : Card) : Nat := max (c.scratch * 64 * kib) (addedStore c.bind)

/-! ### Cores and runs (R22 to R27, R31) -/

/-- A binding-table entry (R23). -/
def bindingWord (s : State) (core : Nat) : Word := tgetD s.binding core 0

/-- The core is offered in a binding mode (R20, R24). -/
def offered (s : State) (core bind : Nat) : Bool := (bindingWord s core).getLsbD (28 + bind)

/-- Ring positions of the cores of a cluster in a binding mode (R27). -/
def modePositions (bind : Nat) : List Nat := if bind == 3 then [0, 4] else if bind == 2 then [0, 2, 4, 6] else List.range 8

/-- The runs of `n` ring-adjacent cores of a cluster in a mode (R31): for each start in the ring, the cores in order. -/
def ringRuns (cluster bind n : Nat) : List (List Nat) :=
  let ps := modePositions bind
  if ps.length < n then []
  else (List.range ps.length).map fun i => (List.range n).map fun j => 8 * cluster + ps.getD ((i + j) % ps.length) 0

/-- A convoy resides on a position of the quad (R26). -/
def quadBusy (s : State) (quad : Nat) : Bool :=
  s.convoys.any fun e => (e.2.residence == .placed || e.2.residence == .evicting) && e.2.cores.any fun c => coreQuad c == quad

/-- A core has room for a crew of a card (R310). The binding mode is looked at apart. -/
def roomOn (s : State) (card : Card) (core : Nat) : Bool :=
  let rs := residents s core
  offered s core card.bind && decide ((rs.map (·.waves)).sum + card.waves ≤ 24) && decide ((rs.map (·.tiles)).sum + card.tiles ≤ 32) &&
  decide ((rs.map Card.storeBytes).sum + card.storeBytes + 128 * kib ≤ 2048 * kib) && (card.bind == 1 || rs.isEmpty)

/-- A core's quad is in a mode, with no change in progress. -/
def inMode (s : State) (bind core : Nat) : Bool := let q := s.quad (coreQuad core); q.mode == bind && q.change.isNone

/-- A core's quad is in the mode, or can be changed to it (R26). -/
def canMode (s : State) (bind core : Nat) : Bool := inMode s bind core || ((s.quad (coreQuad core)).change.isNone && !quadBusy s (coreQuad core))

/-- The clusters that a card of a queue may be placed on (R307). -/
def queueClusters : Option Nat → List Nat
  | some c => [c]
  | none => List.range 64

/-- The first run of a card among clusters whose cores satisfy `p`: the lowest cluster, and in it the first start in the ring from the position
`start` on (DESIGN CHOICE, log 39). -/
def findRun (card : Card) (clusters : List Nat) (start : Nat) (p : Nat → Bool) : Option (Nat × List Nat) :=
  clusters.findSome? fun cl =>
    let runs := ringRuns cl card.bind card.crews
    let order := runs.filter (fun r => decide (start ≤ r.headD 0 % 8)) ++ runs.filter (fun r => decide (r.headD 0 % 8 < start))
    (order.find? fun r => r.all p).map fun r => (cl, r)

/-- A card fits on some cores of the empty package (R307). -/
def couldFit (s : State) (card : Card) (clusters : List Nat) : Bool :=
  let e := { s with convoys := [], waves := [], crews := [] }
  (findRun card clusters 0 (roomOn e card)).isSome

/-- The crews of a card that one core holds at once. -/
def Card.perCore (c : Card) : Nat :=
  if c.bind == 1 then
    let byTiles := if c.tiles == 0 then 24 else 32 / c.tiles
    min (min (24 / c.waves) byTiles) ((2048 * kib - 128 * kib) / c.storeBytes)
  else 1

/-- The convoys of a card that an empty cluster holds at once: on a whole ring they follow each other round it, on the runs of a broken ring
each run is filled. -/
def clusterHolds (s : State) (card : Card) (cl : Nat) : Nat :=
  let ps := modePositions card.bind
  let ok := ps.map fun p => offered s (8 * cl + p) card.bind
  let m := card.perCore
  if ok.all id then (if ps.length < card.crews then 0 else ps.length * m / card.crews)
  else
    let first := (ok.findIdx? (!·)).getD 0
    let turned := ok.drop first ++ ok.take first
    let runs := turned.foldl (fun (a : List Nat × Nat) b => if b then (a.1, a.2 + 1) else (a.1 ++ [a.2], 0)) ([], 0)
    ((runs.1 ++ [runs.2]).map fun l => l / card.crews * m).sum

/-- The package can never hold the card (R307): one convoy of it, or, for a gang, `n` of them at once. -/
def neverFits (s : State) (card : Card) (clusters : List Nat) (n : Nat) : Bool :=
  !couldFit s card clusters || (card.gang && decide ((clusters.map (clusterHolds s card)).sum < n))

/-! ### Placing a convoy (R48, R57, R310) -/

/-- The lowest free wave slots of a core (R48). -/
def freeSlotsOf (s : State) (core n : Nat) : List Nat :=
  let used := (s.waves.filter fun e => e.2.core == core && (tget s.convoys (keyConvoy e.1)).any fun v =>
    v.residence == .placed || v.residence == .evicting).map fun e => e.2.slot
  ((List.range 24).filter fun i => !used.contains i).take n

/-- A wave at its start, with its launch values (R57, R310). -/
def launchWave (core slot : Nat) (card : Card) (index : Dword) (launch : Word) (stamp : Nat) : Wave :=
  let w := Wave.start core slot card.entry
  let regs := ((w.sregs.setIfInBounds 1 card.param).setIfInBounds 2 index).setIfInBounds 3 (BitVec.ofNat 64 card.count)
  { w with
    sregs := regs.setIfInBounds 4 (launch.setWidth 64)
    div := w.div.setPath 0 { w.div.path 0 with readyAt := stamp } }

/-- A crew at its placement (R55, R57, R110). -/
def launchCrew (card : Card) : Crew := { scratchSize := card.scratchBytes, scratch := [], windows := [], tiles := [], poolFree := card.ext }

/-- Places a convoy on the cores of a run (R48, R57, R310). -/
def placeConvoy (s : State) (context : Nat) (launch : Word) (part : Nat) (card : Card) (index : Dword) (cluster : Nat) (cores : List Nat)
    (age : Nat) : State :=
  let s := countGatesOf s cores
  let v := s.nextUid
  let conv : Convoy := {
    context := context, launch := launch, part := part, card := card, index := index, desc := (s.context context).desc
    cluster := cluster, position := cores.headD 0 % 8, cores := cores, prio := card.prio, age := age, placedAt := s.clock
    residence := .placed, noEvictUntil := 0, chosenAt := none, abandon := false, edited := false, saveWait := false, halt := none }
  let s' := { s with nextUid := v + 1, convoys := tput s.convoys v conv, epoch := s.epoch + 1
                     disp := { s.disp with parts := tmod s.disp.parts part fun p => { p with uids := p.uids ++ [v] } } }
  (cores.mapIdx fun k c => (k, c)).foldl (fun s' kc =>
    let s' := s'.setCrew (crewKey v kc.1) (launchCrew card)
    ((freeSlotsOf s kc.2 card.waves).mapIdx fun i x => (i, x)).foldl (fun s' ix =>
      s'.setWave (waveKey v kc.1 ix.1) (launchWave kc.2 ix.2 card index launch s'.epoch)) s') s'

/-! ### The card store (R307 to R309) -/

/-- Puts a card into the store: its queue, its part of the launch, and the convoy indices from `first` up to `last` exclusive; none of them may be
this package's (R315). -/
def enqueueCard (s : State) (context : Nat) (launch : Word) (card : Card) (queue : Option Nat) (rank first last : Nat) (host : Bool)
    (seq : Option Dword) : State :=
  let d := s.disp
  let p : Part := { launch := launch, context := context, card := card, rank := rank, total := last - first, placed := 0, retired := 0,
                    hostSeq := seq, hostLaunch := host, uids := [], progressAt := s.clock, waiting := false }
  let c : StoredCard := { launch := launch, context := context, card := card, part := d.nextPart, queue := queue, age := s.clock,
                          held0 := false, held1 := false, failed0 := false, failed1 := false, next := first, last := last, ready := [], gate := [],
                          chosenAt := none }
  { s with disp := { d with cards := if first < last then tput d.cards d.nextCard c else d.cards, nextCard := d.nextCard + 1, parts := tput d.parts d.nextPart p,
                            nextPart := d.nextPart + 1 } }

/-- The address of a grid counter's RELEASE word (R312). -/
def releaseAddr (gridPa : Dword) (n : Nat) : Nat := gridPa.toNat + 128 * n

/-- Advances the RELEASE word of a grid counter (R312): a write of the dispatcher, to the context's page in the own package. -/
def bumpRelease (s : State) (gridPa : Dword) (n : Nat) : State :=
  let a := releaseAddr gridPa n
  if paPkg a == s.pkg then agentWrite s none a (bytesOf 4 ((peekNat s a 4 + 1) % 2 ^ 32)) else s

end Sys2Proof.Machine
end

