-- ==== Sys2Proof/Machine/Engine.lean ====
section
/-! DEFINITION. Accesses of the engines that act for a convoy (R133, R160, R176, R178, R244, R245): reading and writing its addresses, reports of
what they meet; and the barrier objects (R213 to R215). -/

namespace Sys2Proof.Machine

/-! ### Engines -/

/-- For whom an engine acts: the issuing wave with its convoy, crew, slot, context, core and instruction, and the root of the page table; `owned`
where its accesses have an issuing wave (R330). -/
structure Agent where
  key : Nat
  owned : Bool
  convoy : Nat
  crew : Nat
  slot : Nat
  context : Nat
  core : Nat
  pc : Dword
  root : Dword
  deriving DecidableEq, Repr

/-- The engine that acts for the issuing wave. -/
def Ctx.agent (c : Ctx) : Agent :=
  { key := c.key, owned := true, convoy := keyConvoy c.key, crew := keyCrew c.key, slot := c.w.slot, context := c.conv.context, core := c.w.core,
    pc := c.path.pc, root := c.conv.desc.root }

/-- What an engine finds at an address: a target, an absent page, a home that holds the access (R150, R153), a precise cause. -/
inductive Reach where
  | ok (s : State) (t : Target)
  | absent
  | held (pa kind : Nat)
  | cause (code : Nat)
  deriving DecidableEq, Repr

/-- Finds an address of an engine's convoy, an access of `n` bytes (R106 to R112, R125). -/
def reach (s : State) (a : Agent) (kind : Kind) (n : Nat) (ea : Dword) : Reach :=
  match decodeEa a.crew ea with
  | .virt va => match translate s a.core a.context a.root kind va with
    | .ok s' pa cache =>
      let k := if kind.writes then 1 else 0
      if lineHeld s' pa k then .held pa k else .ok s' (.mem pa cache)
    | .replay => .absent
    | .held pa k => .held pa k
    | .cause code => .cause code
  | e => match tget s.convoys a.convoy with
    | none => .cause 0x08
    | some conv => match spaceCause s conv a.convoy a.crew kind n e with
      | some code => .cause code
      | none => match e with
        | .scratch k off => .ok s (.scratch k off)
        | _ => .cause 0x08

/-- Translates an address for a unit of the base die (R296, R305, R313): a walk, which no core's TLB keeps. -/
def unitXlat (s : State) (root : Dword) (kind : Kind) (va : Nat) : Xlat :=
  match walkFrom s va walkLevels root.toNat with
  | .absent => .replay
  | .malformed => .cause 0x07
  | .poisoned => .cause 0x0B
  | .held addr => .held addr 0
  | .leaf addr level e => match leafRefuses e kind with
    | some x => x
    | none =>
      let e' := e ||| (if kind.writes then 3 else 1)
      if e' != e && lineHeld s addr 1 then .held addr 1 else
      .ok (if e' == e then s else agentWrite s none addr [BitVec.ofNat 8 (e'.toNat % 256)]) (leafPa e' level va) (pteCache e')

/-- A report about an access of an engine (R330). -/
def lossReport (s : State) (a : Agent) (cause sub : Nat) (addr : Dword) : Report :=
  let v := tget s.convoys a.convoy
  { cause := BitVec.ofNat 8 cause, sub := BitVec.ofNat 8 sub, addr := addr, pc := a.pc, lanes := 0, convoy := a.convoy, crew := a.crew,
    wave := if a.owned then some a.key else none, slot := a.slot, launch := (v.map (·.launch)).getD 0, index := (v.map (·.index)).getD 0
    context := a.context, cluster := coreCluster a.core }

/-- Adds a report about an access of an engine (R330). It is made for a precise cause too, and the line is dropped (DEDUCED, log 43). -/
def agentReport (s : State) (a : Agent) (cause sub : Nat) (addr : Dword) : State := addReport s (lossReport s a cause sub addr)

/-- A byte of memory as an engine of a stack reads it (R244): at its owner, in the stack's copy, or at the home. -/
def stackByte (s : State) (stack a cache : Nat) : Byte :=
  if paPkg a == s.pkg && paRegion a == 3 then vatStatusByte s (paOffset a)
  else if cache != 0 || coherentHere s a then currentByte s a
  else match copyOf s (lineOf a) stack with
    | some c => byteAt c.bytes (a % 128)
    | none => homeByte s a

/-- The target's bytes must come from another package. -/
def reachForeign (s : State) (core : Nat) (t : Target) : Bool := t.foreign s && !isHeld s core t

/-- The bytes of a target that the package holds. -/
def agentRead (s : State) (a : Agent) (n : Nat) : Target → List Byte
  | .scratch k off => readRun (s.crew (crewKey a.convoy k)).scratch off n
  | .mem pa cache => (List.range n).map fun i => stackByte s (coreStack a.core) (pa + i) cache
  | _ => []

/-- Bytes sent to another package by an engine (R181, R245): a packet of the flow, in the order that the convoy was placed with (R302), or, to a lost
package, a report (R269). -/
def agentSend (s : State) (a : Agent) (stream cls pa : Nat) (ea : Dword) (p : Payload) : State :=
  let dst := paPkg pa
  if isLost s dst then agentReport s a 0x09 0 ea
  else
    let s := if lineCoherent s pa then (List.range 4).foldl (fun s k => giveUp s (lineOf pa) k 1) s else leaveCopy s (lineOf pa) (coreStack a.core)
    let d := ((tget s.convoys a.convoy).map (·.desc)).getD (s.context a.context).desc
    sendPacket s none a.pc a.context dst stream cls (!d.unordered.getLsbD stream) 0 p (some (lossReport s a 0x09 0 ea)) none (some a.convoy)

/-- Writes bytes at a target (R112, R152, R181, R244): a store that a window refuses is dropped and reported. None where a home holds the line. -/
def agentPut (s : State) (a : Agent) (stream cls : Nat) (ea : Dword) (bs : List Byte) : Target → Option State
  | .scratch k off => match windowCause s a.convoy k a.crew (off / 128) true with
    | some code => some (agentReport s a code 0 ea)
    | none => some (noteWriteEa (writeScratch s none (crewKey a.convoy k) off bs) a.context a.convoy a.crew ea bs.length)
  | .mem pa cache =>
    let s := noteWriteEa s a.context a.convoy a.crew ea bs.length
    if paPkg pa == s.pkg then storeMem s none a.core pa cache bs
    else if writeLeased s a.core pa then some (storeLeased s a.core pa bs)
    else some (agentSend s a stream cls pa ea (.store (bs.mapIdx fun i b => (pa + i, b))))
  | _ => some s

/-- The packets that an engine has sent for an instruction and that have not committed (R178). -/
def agentPackets (s : State) (context : Nat) (pc : Dword) : Bool :=
  s.fabric.sent.any fun p => p.wave.isNone && p.pc == pc && p.packet.context == context && decide (p.stage < 2)

/-- An engine's miss on an absent page joins or takes a fault-buffer entry (R127, R133). -/
def agentMiss (s : State) (a : Agent) (kind : Kind) (ea : Dword) : State :=
  (missPage s (coreStack a.core) a.context (ea.toNat % 2 ^ 56 / 2 ^ 16) kind.code).1

/-- The last packet sent to a line carries poison (R339). -/
def poisonSent (s : State) (line : Nat) : State :=
  let mark (p : SentPacket) : SentPacket := { p with packet := { p.packet with poison := true } }
  let l := replaceFirst (fun p => p.stage == 0 && (payloadLines p.packet.payload).contains line) mark s.fabric.sent.reverse
  { s with fabric := { s.fabric with sent := l.reverse } }

/-- The lines of a target become poisoned (R339): in another package, where the packets that carry the bytes arrive. -/
def poisonTarget (s : State) (convoy : Nat) (t : Target) (n : Nat) : State :=
  match t with
  | .scratch k off => { s with poisoned := dedup (s.poisoned ++ (linesOf off n).map fun l => scratchPoison (crewKey convoy k) l) }
  | .mem pa _ =>
    if paPkg pa == s.pkg || (copyOf s (lineOf pa) 0).isSome then { s with poisoned := dedup (s.poisoned ++ linesOf pa n) }
    else (linesOf pa n).foldl poisonSent s
  | _ => s

/-- Carries the poison of the lines that were read to those that were written (R339). -/
def carryPoison (s : State) (convoy : Nat) (src dst : Target) (n : Nat) : State :=
  let lines (t : Target) : List Nat := match t with
    | .scratch k off => (linesOf off n).map fun l => scratchPoison (crewKey convoy k) l
    | .mem pa _ => linesOf pa n
    | _ => []
  if (lines src).any fun l => s.poisoned.contains l then poisonTarget s convoy dst n else s

/-! ### The checks of addresses at issue (R242) -/

/-- Where an address field may lie. -/
inductive Where where
  | virt | own | scratch | any
  deriving DecidableEq, Repr

/-- The cause that an address of a descriptor raises at issue (R107, R242): its alignment, its form, its space and its range. -/
def addrCause (s : State) (c : Ctx) (ea : Dword) (n align : Nat) (place : Where) : Option Nat :=
  let inRange (k off : Nat) : Bool := decide (k < c.conv.card.crews) && decide (off + n ≤ (s.crew (crewKey (keyConvoy c.key) k)).scratchSize)
  if ea.toNat % align != 0 then some 0x06
  else match decodeEa (keyCrew c.key) ea with
  | .bad => some 0x07
  | .virt va => if place == .own || place == .scratch then some 0x08 else if 2 ^ 56 < va + n then some 0x07 else none
  | .scratch k off =>
    if place == .virt || (place == .own && ea.toNat / 2 ^ 56 != 0xF1) || !inRange k off then some 0x08 else none
  | _ => some 0x08

/-- The first failing check of several addresses, in the order MISALIGNED, PAGE_FAULT, PERMISSION (R403). -/
def firstCause (s : State) (c : Ctx) (l : List (Dword × Nat × Nat × Where)) : Option Trap :=
  let found := l.filterMap fun x => (addrCause s c x.1 x.2.1 x.2.2.1 x.2.2.2).map fun code => (code, x.1)
  match found.find? fun f => f.1 == 0x06 with
  | some f => some (Trap.mk' f.1 f.2)
  | none => match found.find? fun f => f.1 == 0x07 with
  | some f => some (Trap.mk' f.1 f.2)
  | none => (found.head?).map fun f => Trap.mk' f.1 f.2

/-- The number in `n` bytes of the wave's own scratch at an own-scratch address. -/
def ownScratch (s : State) (c : Ctx) (ea : Dword) (n : Nat) : Nat := readNat (s.crew (keyCrewKey c.key)).scratch (ea.toNat % 2 ^ 24) n

/-! ### Barrier objects (R213 to R215) -/

/-- What an atomic does to a barrier object, as a number of 16 bytes (R213, R215): bytes taken from PENDING or added to it, an arrival, the marks.
Only an arrival or a subtraction completes a phase. -/
def barrierNew (x : Nat) (add sub : Nat) (arrive lost abandoned taken : Bool) : Nat :=
  let expected := bits x 0 32
  let arrived := (bits x 32 32 + arrive.toNat) % 2 ^ 32
  let pending := (bits x 64 32 + add + 2 ^ 32 - sub % 2 ^ 32) % 2 ^ 32
  let marks := (if bits x 97 1 == 1 || abandoned then 1 else 0) + 2 * (if bits x 98 1 == 1 || lost then 1 else 0)
  if (arrive || taken) && arrived == expected && pending == 0 then pack [(0, expected), (96, 1 - bits x 96 1), (97, marks)]
  else pack [(0, expected), (32, arrived), (64, pending), (96, bits x 96 1), (97, marks), (99, bits x 99 29)]

/-- The codes under which an arrival at a barrier of another package, and a subtraction from its PENDING, travel as atomics of 16 bytes. An arrival
carries ABANDONED, a subtraction its byte count and LOST. -/
def barrierArriveOp : Nat := 10

/-- The code of a subtraction. -/
def barrierSubOp : Nat := 11

/-- The code of an addition to PENDING (R214). -/
def barrierAddOp : Nat := 12

/-- An addition would carry PENDING past 0xFFFF_FFFF: it is held until it fits (R214). -/
def barrierHeld (op : Nat) (data : Dword) (old : Nat) : Bool := op == barrierAddOp && decide (2 ^ 32 ≤ bits old 64 32 + data.toNat)

/-- What an atomic on a barrier of this package does, by its code (R214, R215): none for another operation. -/
def barrierAtomOp (op : Nat) (data cmp : Dword) (old : Nat) : Option Nat :=
  if op == barrierAddOp then some (barrierNew old data.toNat 0 false false false false) else
  if op == barrierArriveOp then some (barrierNew old 0 0 true false (data != 0) false)
  else if op == barrierSubOp then some (barrierNew old 0 data.toNat false (cmp != 0) false true)
  else none

/-- Performs an atomic on the 16 bytes at a target of the package (R146, R158, R166): at the owning core; in the stack, which obtains a
hardware-coherent line; or at the home once the stack's copy of non-coherent memory has been written back. None where a home holds the line.
The old bytes are returned. -/
def barrierAtomic (s : State) (a : Agent) (ea : Dword) (f : Nat → Nat) (t : Target) (writer : Option Nat := none) : Option (State × Nat) :=
  match t with
  | .scratch k off =>
    let old := readNat (s.crew (crewKey a.convoy k)).scratch off 16
    some (noteWriteEa (writeScratch s writer (crewKey a.convoy k) off (bytesOf 16 (f old))) a.context a.convoy a.crew ea 16, old)
  | .mem pa cache =>
    if lineHeld s pa 1 then none
    else if coherentHere s pa then
      let old := peekNat s pa 16
      (storeMem s writer a.core pa cache (bytesOf 16 (f old))).map fun s => (noteWriteEa s a.context a.convoy a.crew ea 16, old)
    else
      let stack := coreStack a.core
      let s := cleanCopy s (lineOf pa) stack
      let s := if isHome s stack pa then s else dropCopy s (lineOf pa) stack
      let old := peekNat s pa 16
      some (noteWriteEa (agentWrite s writer pa (bytesOf 16 (f old))) a.context a.convoy a.crew ea 16, old)
  | _ => none

/-- The physical address of a target. -/
def Target.pa : Target → Nat
  | .mem pa _ => pa
  | _ => 0

/-- How an engine's access to a barrier or a stamp ends (R178, R214): done, a window that refuses it or a precise cause being reported; it must wait for
a home, at an address, for a read (0) or a write (1); its page is absent. -/
inductive BarrierDone where
  | ok (s : State)
  | hold (pa kind : Nat)
  | absent
  deriving DecidableEq, Repr

/-- Subtracts bytes from a barrier's PENDING, with the marks given (R178, R215, R283). -/
def barrierSub (s : State) (a : Agent) (stream cls : Nat) (ea : Dword) (n : Nat) (lost : Bool) : BarrierDone :=
  if ea == 0 then .ok s
  else match reach s a .atomic 16 ea with
  | .absent => .absent
  | .held pa kind => .hold pa kind
  | .cause code => .ok (agentReport s a code 0 ea)
  | .ok s t =>
    let refused := match t with | .scratch k off => windowCause s a.convoy k a.crew (off / 128) true | _ => none
    match refused, t with
    | some code, _ => .ok (agentReport s a code 0 ea)
    | none, .mem pa _ =>
      if paPkg pa != s.pkg then
        .ok (agentSend s a stream cls pa ea (.atomic barrierSubOp 16 false [(pa, BitVec.ofNat 64 n, BitVec.ofNat 64 lost.toNat)]))
      else match barrierAtomic s a ea (fun x => barrierNew x 0 n false lost false true) t with
        | some r => .ok r.1
        | none => .hold t.pa 1
    | none, t => match barrierAtomic s a ea (fun x => barrierNew x 0 n false lost false true) t with
      | some r => .ok r.1
      | none => .hold t.pa 1

/-- Sets LOST in a barrier (R283, R448). -/
def barrierLost (s : State) (a : Agent) (stream cls : Nat) (ea : Dword) : BarrierDone :=
  match reach s a .atomic 16 ea with
  | .absent => .absent
  | .held pa kind => .hold pa kind
  | .cause code => .ok (agentReport s a code 0 ea)
  | .ok s' t =>
    let mark (x : Nat) : Nat := barrierNew x 0 0 false true false false
    let make : BarrierDone := match barrierAtomic s' a ea mark t with | some r => .ok r.1 | none => .hold t.pa 1
    match t with
    | .scratch k off => match windowCause s' a.convoy k a.crew (off / 128) true with
      | some code => .ok (agentReport s' a code 0 ea)
      | none => make
    | .mem pa _ =>
      if paPkg pa != s'.pkg then .ok (agentSend s' a stream cls pa ea (.atomic 6 4 false [(pa + 12, 4, 0)])) else make
    | _ => .ok s'

/-- How the addition to PENDING ends at the issue of a command (R214): done; sent to another package, where it is performed later; a trap, an absent
page, or a wait. -/
inductive PendingDone where
  | ok (s : State)
  | sent (s : State)
  | trap (t : Trap)
  | absent
  | full
  | held (pa kind : Nat)
  | hold
  deriving DecidableEq, Repr

/-- Adds a command's bytes to a barrier's PENDING at its acceptance (R214). -/
def barrierAdd (s : State) (a : Agent) (stream cls : Nat) (ea : Dword) (n : Nat) : PendingDone :=
  if ea == 0 then .ok s
  else match reach s a .atomic 16 ea with
  | .absent => .absent
  | .held pa kind => .held pa kind
  | .cause code => .trap (Trap.mk' code ea)
  | .ok s t =>
    let refused := match t with | .scratch k off => windowCause s a.convoy k a.crew (off / 128) true | _ => none
    match refused, t with
    | some code, _ => .trap (Trap.mk' code ea)
    | none, .mem pa _ =>
      if isLost s (paPkg pa) then .ok (agentReport s a 0x09 0 ea)
      else if paPkg pa != s.pkg then .sent (agentSend s a stream cls pa ea (.atomic barrierAddOp 16 false [(pa, BitVec.ofNat 64 n, 0)]))
      else if 2 ^ 32 ≤ bits (peekNat s pa 16) 64 32 + n then .full
      else match barrierAtomic s a ea (fun x => barrierNew x n 0 false false false false) t with
        | some r => .ok r.1
        | none => .hold
    | none, .scratch k off =>
      if 2 ^ 32 ≤ bits (readNat (s.crew (crewKey a.convoy k)).scratch off 16) 64 32 + n then .full
      else match barrierAtomic s a ea (fun x => barrierNew x n 0 false false false false) t with
        | some r => .ok r.1
        | none => .hold
    | none, _ => .ok s

end Sys2Proof.Machine
end

