-- ==== Sys2Proof/Machine/Copy.lean ====
section
/-! DEFINITION. The copy chain of a core: CPY and CPYM (R241 to R245, R449), VSEND (R554, R555), and the events of the copy engine. -/

namespace Sys2Proof.Machine

/-! ### Issue -/

/-- A command that has been accepted joins the chain, and its sequence number goes to a scalar register (R243). -/
def joinChain (s : State) (c : Ctx) (d : Option Nat) (x : CopyCmd) : State :=
  let k := s.core c.w.core
  let s := s.setCore c.w.core { k with chain := k.chain ++ [x], accepted := k.accepted + 1 }
  match d with
  | some d => s.modWave c.key fun w => w.setSreg d (k.accepted + 1)
  | none => s

/-- The chain holds 64 commands (R243). -/
def chainFull (s : State) (c : Ctx) : Bool := decide (64 ≤ (s.core c.w.core).chain.length)

/-- The destination bytes of a copy whose ranges overlap (R242). -/
def copyOverlap (crew : Nat) (src dst : Dword) (len : Nat) : List (Nat × Nat) :=
  (overlapEa (canonEa crew dst) len (canonEa crew src) len).toList

/-- A descriptor's fields lie in their ranges (R242). -/
def copyFieldsOk (n : Nat) (multi : Bool) (crews : Nat) : Bool :=
  let len := bits n 128 32
  let mask := bits n 328 8
  bits n 336 176 == 0 && bits n 322 6 == 0 && bits n 320 2 != 3 && decide (len ≤ 0x10000000) && len % 4 == 0 &&
  (if multi then mask != 0 && decide (mask < 2 ^ crews) else mask == 0)

/-- The addresses of a descriptor with their checks (R242). -/
def copyAddrs (n : Nat) (multi : Bool) : List (Dword × Nat × Nat × Where) :=
  let f (lo : Nat) : Dword := BitVec.ofNat 64 (bits n lo 64)
  let len := bits n 128 32
  [(f 0, len, 4, if multi then Where.virt else Where.any), (f 64, len, 4, if multi then Where.own else Where.any)] ++
  (if f 192 == 0 then [] else [(f 192, 4, 4, Where.any)]) ++ (if f 256 == 0 then [] else [(f 256, 16, 16, Where.any)])

/-- The command that a descriptor makes. -/
def copyCmd (c : Ctx) (n : Nat) (multi : Bool) (scope stream : Nat) : CopyCmd :=
  let f (lo : Nat) : Dword := BitVec.ofNat 64 (bits n lo 64)
  { kind := if multi then 1 else 0, wave := c.key, convoy := keyConvoy c.key, crew := keyCrew c.key, context := c.conv.context,
    pc := c.path.pc, scope := scope, stream := stream, src := f 0, dst := f 64, len := bits n 128 32, stampAddr := f 192,
    stampVal := BitVec.ofNat 32 (bits n 160 32), barrier := f 256, cls := bits n 320 2, mask := BitVec.ofNat 8 (bits n 328 8), row := none,
    peer := 0, done := 0, moved := false, waiting := false,
    conflict := if multi then [] else copyOverlap (keyCrew c.key) (f 0) (f 64) (bits n 128 32) }

/-- The wave issues its next instruction only once the addition that a packet carries has been performed (R214). -/
def noteAdding (s : State) (c : Ctx) (tag : Nat) : State := s.modWave c.key fun w => { w with adding := some tag }

/-- CPY and CPYM (R241 to R243, R449). The checks of the descriptor's address come before those of its fields (DEDUCED, log 42). -/
def copyIssue (i : Instr) (multi : Bool) (a : BitVec 6) (sc : BitVec 3) (st : BitVec 4) (d : BitVec 6) (s : State) :
    Host.Outcome State Fault Refusal :=
  run i { kinds := 0x10, inTx := false } s fun c =>
    let ea := c.w.sreg a.toNat
    match firstCause s c [(ea, 64, 64, .own)] with
    | some t => .trap t
    | none =>
      let n := ownScratch s c ea 64
      if !copyFieldsOk n multi c.conv.card.crews then .trap (Trap.mk' 0x02 (wordOf i))
      else match firstCause s c (copyAddrs n multi) with
      | some t => .trap t
      | none =>
        let x := copyCmd c n multi sc.toNat st.toNat
        if chainFull s c then .wait 19 0
        else match barrierAdd s c.agent x.stream x.cls x.barrier x.len with
        | .trap t => .trap t
        | .absent => .stay (parkWave s c.key c.p c.path.pc 0xFFFFFFFF .atomic [x.barrier.toNat % 2 ^ 56])
        | .full => .wait 20 0
        | .held pa kind => walkWait s pa kind
        | .hold => .wait 31 0
        | .ok s => .next (joinChain s c (some d.toNat) x)
        | .sent t => .next (noteAdding (joinChain t c (some d.toNat) x) c s.fabric.nextTag)

/-- `cpy` (R449). -/
def execCpy (a : BitVec 6) (sc : BitVec 3) (st : BitVec 4) (d : BitVec 6) (s : State) : Host.Outcome State Fault Refusal :=
  copyIssue (.cpy a sc st d) false a sc st d s

/-- `cpym` (R244, R449). -/
def execCpym (a : BitVec 6) (sc : BitVec 3) (st : BitVec 4) (d : BitVec 6) (s : State) : Host.Outcome State Fault Refusal :=
  copyIssue (.cpym a sc st d) true a sc st d s

/-- The checks of VSEND's row and status addresses (R554), in the order MISALIGNED, PAGE_FAULT, PERMISSION. -/
def sendCause (s : State) (c : Ctx) (row : Dword) (n : Nat) (status : Dword) : Option Trap :=
  match firstCause s c ([(row, n, 4, .own)] ++ (if status == 0 then [] else [(status, 4, 4, .any)])) with
  | some t => some t
  | none => if status.toNat / 2 ^ 56 == 0xF0 then some (Trap.mk' 0x08 status) else none

/-- `vsend` (R554, R555): one command of the copy chain, of scope pod in stream 0. -/
def execVsend (a h st : BitVec 6) (s : State) : Host.Outcome State Fault Refusal :=
  run (.vsend a h st) { inTx := false } s fun c =>
    let w := (c.w.sreg h.toNat).toNat
    let len := bits w 48 16
    let f32 := bits w 47 1 == 1
    let n := len * (if f32 then 4 else 2)
    let row := c.w.sreg a.toNat
    let status := c.w.sreg st.toNat
    if len == 0 || 16384 < len then .trap (Trap.mk' 0x02 (wordOf (.vsend a h st)))
    else match sendCause s c row n status with
    | some t => .trap t
    | none =>
      if chainFull s c then .wait 19 0
      else
        let x : CopyCmd := {
          kind := 2, wave := c.key, convoy := keyConvoy c.key, crew := keyCrew c.key, context := c.conv.context, pc := c.path.pc
          scope := 4, stream := 0, src := row, dst := c.w.sreg h.toNat, len := n, stampAddr := status, stampVal := 0, barrier := 0
          cls := 0, mask := 0, row := none, peer := bits w 40 7, done := 0, moved := false, waiting := false, conflict := [] }
        .next (joinChain s c none x)

/-! ### The engine -/

/-- The descriptor by which a command acts (R302): the one that its convoy was placed with, else the context's. -/
def CopyCmd.desc (x : CopyCmd) (s : State) : Descriptor := ((tget s.convoys x.convoy).map (·.desc)).getD (s.context x.context).desc

/-- For whom a command acts. -/
def CopyCmd.agent (s : State) (core : Nat) (x : CopyCmd) : Agent :=
  let root := (x.desc s).root
  let slot := match tget s.waves x.wave with | some w => w.slot | none => 0
  { key := x.wave, owned := true, convoy := x.convoy, crew := x.crew, slot := slot, context := x.context, core := core, pc := x.pc, root := root }

/-- Every store and atomic that the wave issued in the command's stream has been performed (R176). -/
def copyReady (s : State) (x : CopyCmd) : Bool := (scratchOut s x.wave x.stream).isEmpty && (packetsOut s x.wave x.stream).isEmpty

/-- An offset lies in one of the ranges. -/
def inRanges (l : List (Nat × Nat)) (o : Nat) : Bool := l.any fun r => decide (r.1 ≤ o) && decide (o < r.1 + r.2)

/-- Bytes from an offset of a command on, undefined where they lie in its conflicts (R177). -/
def blur (s : State) (x : CopyCmd) (o : Nat) (bs : List Byte) : List Byte :=
  if x.conflict.isEmpty then bs
  else bs.mapIdx fun i b => if inRanges x.conflict (o + i) then Config.freeByte s.draws 600 (o + i) else b

/-- The destination addresses of a command's bytes at an offset (R242, R244). -/
def CopyCmd.targets (x : CopyCmd) (o : Nat) : List Dword :=
  if x.kind == 1 then (bitsSet x.mask).map fun k => canonEa k x.dst + BitVec.ofNat 64 o else [x.dst + BitVec.ofNat 64 o]

/-- How the moving of a command's bytes ends: all moved, with the bytes of other packages that were not needed; stopped at an absent
page; held up by a home, at an address, for a read (0) or a write (1); or short of bytes of other packages. -/
inductive Moved where
  | all (s : State) (rest : List Byte)
  | absent (s : State) (o : Nat)
  | hold (s : State) (o pa kind : Nat)
  | short
  deriving DecidableEq, Repr

/-- Writes bytes at each target in turn. -/
def putAll (s : State) (a : Agent) (x : CopyCmd) (bs : List Byte) : List (Dword × Target) → Option State
  | [] => some s
  | t :: rest => match agentPut s a x.stream x.cls t.1 bs t.2 with
    | some s => putAll s a x bs rest
    | none => none

/-- What stops the targets of a piece: an absent page, or a home that holds an access. -/
inductive Stop where
  | absent (ea : Dword)
  | held (pa kind : Nat)
  deriving DecidableEq, Repr

/-- Finds the targets of a piece; a precise cause is reported, and the target left out. -/
def reachAll (s : State) (a : Agent) (n : Nat) : List Dword → Sum (State × List (Dword × Target)) Stop
  | [] => .inl (s, [])
  | ea :: rest => match reach s a .copyWrite n ea with
    | .absent => .inr (.absent ea)
    | .held pa kind => .inr (.held pa kind)
    | .cause code => reachAll (agentReport s a code 0 ea) a n rest
    | .ok s t => match reachAll s a n rest with
      | .inl r => .inl (r.1, (ea, t) :: r.2)
      | .inr x => .inr x

/-- The bytes to the end of a line of the source or of the destination, whichever comes first. -/
def pieceLen (x : CopyCmd) (o : Nat) : Nat :=
  min (min (128 - (x.src.toNat + o) % 128) (128 - (x.dst.toNat + o) % 128)) (x.len - o)

/-- Undefined bytes, where a source cannot be read. -/
def lostBytes (s : State) (o n : Nat) : List Byte := (List.range n).map fun i => Config.freeByte s.draws 601 (o + i)

/-- The bytes of a piece of the source, and what is left of those that other packages have supplied. A precise cause is reported, and the
bytes are undefined. -/
def fetchPiece (s : State) (a : Agent) (x : CopyCmd) (o n : Nat) (data : List Byte) :
    Sum (State × Option Target × List Byte × List Byte) Stop :=
  let ea := x.src + BitVec.ofNat 64 o
  match reach s a .copyRead n ea with
  | .absent => .inr (.absent ea)
  | .held pa kind => .inr (.held pa kind)
  | .cause code => .inl (agentReport s a code 0 ea, none, lostBytes s o n, data)
  | .ok s t =>
    let lost := match t with | .mem pa _ => isLost s (paPkg pa) | _ => false
    if reachForeign s a.core t then (if lost then .inl (s, none, lostBytes s o n, data) else .inl (s, some t, data.take n, data.drop n))
    else .inl (s, some t, agentRead s a n t, data)

/-- The first address of memory among the targets. -/
def firstPa : List (Dword × Target) → Nat
  | [] => 0
  | (_, .mem pa _) :: _ => pa
  | _ :: rest => firstPa rest

/-- Moves a command's bytes from an offset on, line by line (R133, R243 to R245, R339). -/
def moveBytes : Nat → State → Agent → CopyCmd → Nat → List Byte → Moved
  | 0, s, _, _, _, data => .all s data
  | fuel + 1, s, a, x, o, data =>
    if x.len ≤ o then .all s data
    else
      let n := pieceLen x o
      match fetchPiece s a x o n data with
      | .inr (.absent ea) => .absent (agentMiss s a .copyRead ea) o
      | .inr (.held pa kind) => .hold s o pa kind
      | .inl (s', src, bs, rest) =>
        if bs.length != n then .short
        else match reachAll s' a n (x.targets o) with
        | .inr (.absent ea) => .absent (agentMiss s a .copyWrite ea) o
        | .inr (.held pa kind) => .hold s o pa kind
        | .inl (s', ts) => match putAll s' a x (blur s x o bs) ts with
          | none => .hold s o (firstPa ts) 1
          | some s' =>
            let s' := match src with
              | some t => ts.foldl (fun s' u => carryPoison s' a.convoy t u.2 n) s'
              | none => s'
            moveBytes fuel s' a x (o + n) rest

/-- Sets the command at an index of a core's chain. -/
def setCmd (s : State) (core i : Nat) (x : CopyCmd) : State :=
  let k := s.core core
  s.setCore core { k with chain := k.chain.set i x }

/-- The pod holds the package: its own, or one of the ring's order (R268). -/
def inPod (s : State) (p : Nat) : Bool := p == s.pkg || s.settings.ringOrder.any fun b => b.toNat == p

/-- The elements of a row from its bytes (R554). -/
def rowElems (f32 : Bool) (len : Nat) (bs : List Byte) : List Word :=
  (List.range len).map fun i => BitVec.ofNat 32 (leNat ((bs.drop (if f32 then 4 * i else 2 * i)).take (if f32 then 4 else 2)))

/-- VSEND starts (R555): its row is read and sent; one to a package that is lost or not in the pod is reported and completes (R300). -/
def startSend (s : State) (core i : Nat) (x : CopyCmd) : State :=
  let a := x.agent s core
  let w := x.dst.toNat
  if isLost s x.peer || !inPod s x.peer then
    setCmd (agentReport s a 0x09 0 x.src) core i { x with moved := true, stampAddr := 0 }
  else
    let f32 := bits w 47 1 == 1
    let off := x.src.toNat % 2 ^ 24
    let crew := crewKey x.convoy x.crew
    let bs := blur s x 0 (readRun (s.crew crew).scratch off x.len)
    let row : VatRow := {
      id := s.nextId, src := s.pkg, context := x.context, handle := BitVec.ofNat 32 (bits w 0 32), expert := bits w 32 8
      len := bits w 48 16, infmt := f32, elems := rowElems f32 (bits w 48 16) bs
      poison := (linesOf off x.len).any fun l => s.poisoned.contains (scratchPoison crew l) }
    let s := setCmd { s with nextId := s.nextId + 1 } core i { x with row := some row }
    if x.peer == s.pkg then s
    else (partsOf (if f32 then 64 else 128) row.elems).foldl (fun s p =>
      sendPacket s none x.pc x.context x.peer 0 0 (!(x.desc s).unordered.getLsbD 0) 0
        (.row row.handle.toNat row.expert row.len row.infmt p.1 p.2) none none none row.poison) s

/-- The parts of a command's source, from its first untransferred byte on, that lie in other packages: package, address, length, line by line. -/
def foreignParts : Nat → State → Agent → CopyCmd → Nat → List (Nat × Nat)
  | 0, _, _, _, _ => []
  | fuel + 1, s, a, x, o =>
    if x.len ≤ o then []
    else
      let n := pieceLen x o
      match reach s a .copyRead n (x.src + BitVec.ofNat 64 o) with
      | .ok s' (.mem pa cache) => (if reachForeign s' a.core (.mem pa cache) then [(pa, n)] else []) ++ foreignParts fuel s' a x (o + n)
      | _ => foreignParts fuel s a x (o + n)

/-- The requests of a command for source bytes of other packages, in its CLASS (R245), once. -/
def askParts (s : State) (core i : Nat) (a : Agent) (x : CopyCmd) (l : List (Nat × Nat)) : State :=
  let s := l.foldl (fun s r =>
    if isLost s (paPkg r.1) then s
    else sendPacket s none x.pc x.context (paPkg r.1) x.stream x.cls false 0 (.read r.1 r.2) none none (some a.convoy)) s
  setCmd s core i { x with asked := true }

/-- COPY_COMMAND_START (R176, R243, R245): the engine takes the first command that it has not started, once the wave's earlier stores of its stream
are performed, unless a command before it stands at a fault (R133); it asks other packages for the bytes of its source that they hold. `data` are
those that they have returned, in order. -/
def execCopyCommandStart (core : Nat) (data : List Byte) (s : State) : Host.Outcome State Fault Refusal :=
  let k := s.core core
  match k.chain.findIdx? fun x => !x.moved && x.row.isNone with
  | none => .next s
  | some i => match k.chain[i]? with
    | none => .next s
    | some x =>
      if (k.chain.take (i + 1)).any (·.waiting) || !copyReady s x then .next s
      else
        let s0 := s
        let s := { s with epoch := s.epoch + 1, draws := s.draws + 1 }
        if x.kind == 2 then .next (startSend s core i x)
        else
          let a := x.agent s core
          let parts := if x.asked || !data.isEmpty then [] else foreignParts (x.len / 4 + 1) s a x x.done
          if !parts.isEmpty then .next (askParts s core i a x parts) else
          .next (withRelease s (coreStack core) x.scope fun s =>
            let alone := s.setCore core { k with chain := k.chain.eraseIdx i }
            let back (s : State) (x : CopyCmd) : State :=
              let k := s.core core
              s.setCore core { k with chain := k.chain.insertIdx i x }
            match moveBytes (x.len / 4 + 1) alone a x x.done data with
            | .all s rest => if rest.isEmpty then back s { x with done := x.len, moved := true } else s0
            | .absent s o => back s { x with done := o, waiting := true }
            | .hold s o pa kind => if o == x.done then askLine s0 pa kind else askLine (back s { x with done := o }) pa kind
            | .short => s0)

/-! ### Completion -/

/-- Writes undefined values over the destination bytes of a command's conflicts (R177). -/
def smear (s : State) (a : Agent) (x : CopyCmd) : State :=
  let fresh := x.conflict.flatMap fun r => (List.range r.2).map fun i => r.1 + i
  fresh.foldl (fun s o => match reachAll s a 1 (x.targets o) with
    | .inr _ => s
    | .inl (s', ts) => (putAll s' a x [Config.freeByte s.draws 602 o] ts).getD s) s

/-- Takes the first command off a core's chain, and counts it (R243). -/
def popChain (s : State) (core : Nat) : State :=
  let k := s.core core
  s.setCore core { k with chain := k.chain.tail, completed := k.completed + 1 }

/-- A stamp of `n` bytes written by an engine. -/
def putStamp (s : State) (a : Agent) (stream cls : Nat) (ea : Dword) (n v : Nat) : BarrierDone :=
  if ea == 0 then .ok s
  else match reach s a .copyWrite n ea with
  | .absent => .absent
  | .held pa kind => .hold pa kind
  | .cause code => .ok (agentReport s a code 0 ea)
  | .ok t g => match agentPut t a stream cls ea (bytesOf n v) g with
    | some t => .ok t
    | none => .hold g.pa 1

/-- The end of the first command (R178, R243): the write-backs of its scope, its stamp, its barrier, its count; nothing where a home holds it up, but
for the leases that it asks back (R150). -/
def endCommand (s : State) (core : Nat) (x : CopyCmd) : State :=
  let a := x.agent s core
  let wait (ea : Dword) : State := setCmd (agentMiss s a .copyWrite ea) core 0 { x with waiting := true }
  withRelease s (coreStack core) x.scope fun s1 =>
    match putStamp s1 a x.stream x.cls x.stampAddr 4 x.stampVal.toNat with
    | .absent => wait x.stampAddr
    | .hold pa kind => askLine s pa kind
    | .ok s2 => match barrierSub s2 a x.stream x.cls x.barrier x.len false with
      | .hold pa kind => askLine s pa kind
      | .absent => wait x.barrier
      | .ok s3 => popChain s3 core

/-- COPY_COMPLETION (R178, R243, R555): the first command of the chain completes. `code` is what a Vat of another package has decided on a row. -/
def execCopyCompletion (core code : Nat) (s : State) : Host.Outcome State Fault Refusal :=
  match (s.core core).chain with
  | [] => .next s
  | x :: _ =>
    let told := x.kind == 2 && x.row.isSome && x.peer != s.pkg && decide (1 ≤ code) && decide (code ≤ 5)
    let x := if told && !x.moved then { x with moved := true, stampVal := BitVec.ofNat 32 code } else x
    if !x.moved || x.waiting || (x.kind != 2 && agentPackets s x.context x.pc) then .next s
    else
      let s' := { s with epoch := s.epoch + 1, draws := s.draws + 1 }
      if x.kind != 2 && !x.conflict.isEmpty then
        let k := s'.core core
        let s' := smear (s'.setCore core { k with chain := k.chain.tail }) (x.agent s' core) x
        let k := s'.core core
        .next (s'.setCore core { k with chain := { x with conflict := [] } :: k.chain })
      else .next (endCommand (setCmd s' core 0 x) core x)

end Sys2Proof.Machine
end

