-- ==== Sys2Proof/Machine/Units.lean ====
section
/-! DEFINITION. Accesses of the units of the base die, the dispatcher and the Vat, through a context's page table (R296, R305, R313, R318). -/

namespace Sys2Proof.Machine

/-- How an access of a unit ends: done; held up by a home, at an address, for a read (0) or a write (1); stopped at an absent page; or refused with a precise cause. -/
inductive UnitDone where
  | ok (s : State)
  | hold (s : State) (pa kind : Nat)
  | absent (s : State)
  | cause (s : State) (code : Nat)
  deriving DecidableEq, Repr

/-- A fault-log record about an access of a unit for a context (R330, R334). -/
def unitReport (s : State) (context cause : Nat) (addr : Dword) : State :=
  logFault s { FaultInfo.blank with addr := addr, context := context, cause := cause, exited := true }

/-- A unit's write of bytes within one line at a virtual address of a context (R133, R296): to another package they travel in stream 0. The poison
that they carry goes with them (R339). -/
def unitWrite (s : State) (context : Nat) (d : Descriptor) (ea : Dword) (bs : List Byte) (poison : Bool) : UnitDone :=
  if 2 ^ 56 ≤ ea.toNat then .cause (unitReport s context 0x07 ea) 0x07
  else match unitXlat s d.root .copyWrite ea.toNat with
  | .replay => .absent (missPage s 0 context (ea.toNat / 2 ^ 16) 5).1
  | .held pa kind => .hold s pa kind
  | .cause code => .cause (unitReport s context code ea) code
  | .ok s' pa _ =>
    let s' := noteWriteEa s' context 0 0 ea bs.length
    let dst := paPkg pa
    if dst == s.pkg then
      if lineHeld s pa 1 then .hold s pa 1
      else
        let s' := agentWrite s' none pa bs
        .ok (if poison then { s' with poisoned := dedup (s'.poisoned ++ linesOf pa bs.length) } else s')
    else if isLost s dst then .ok (unitReport s context 0x09 ea)
    else .ok (sendPacket s' none 0 context dst 0 (streamClass d 0) (!d.unordered.getLsbD 0) 0 (.store (bs.mapIdx fun i b => (pa + i, b))))

/-- A unit's write of many bytes, line by line from an offset on: how far it came, and how it stopped. A line that a precise cause refuses is
dropped, having been reported (R133, R330). -/
def unitWriteRun : Nat → State → Nat → Descriptor → Dword → List Byte → Bool → Nat → Nat × UnitDone
  | 0, s, _, _, _, _, _, o => (o, .ok s)
  | fuel + 1, s, context, d, base, bs, poison, o =>
    if bs.length ≤ o then (o, .ok s)
    else
      let ea := base + BitVec.ofNat 64 o
      let n := min (128 - ea.toNat % 128) (bs.length - o)
      match unitWrite s context d ea ((bs.drop o).take n) poison with
      | .ok s' | .cause s' _ => unitWriteRun fuel s' context d base bs poison (o + n)
      | .hold t pa kind => (o, .hold t pa kind)
      | .absent s' => (o, .absent s')

/-- Bulk packets that a unit has sent for a context and that have not committed. -/
def unitPackets (s : State) (context : Nat) : Bool :=
  s.fabric.sent.any fun p => p.wave.isNone && p.pc == 0 && p.packet.context == context && decide (p.stage < 2)

end Sys2Proof.Machine
end

