-- ==== Sys2Proof/Machine/VatUnit.lean ====
section
/-! DEFINITION. The Vat (R285 to R300): VOPEN, VDROP (R553, R556), the arrival and the completion of rows, deadlines, order queues and
release. -/

namespace Sys2Proof.Machine

/-! ### Slots -/

/-- A slot of the Vat. -/
def State.vatSlot (s : State) (i : Nat) : VatSlot := tgetD s.vat.slots i VatSlot.free

/-- Sets a slot of the Vat. -/
def State.setVatSlot (s : State) (i : Nat) (v : VatSlot) : State :=
  { s with vat := { s.vat with slots := tset VatSlot.free s.vat.slots i v } }

/-- Pages of the hold pool returned to it. -/
def State.addPages (s : State) (n : Nat) : State := { s with vat := { s.vat with freePages := s.vat.freePages + n } }

/-- A write of a Vat status word at an offset, seen by those who watch its line (R197). -/
def vatMark (s : State) (offset : Nat) : State := markChanged s none (memPlace (lineOf (mkPa s.pkg 3 offset)))

/-- The changes of the Vat's status words, of every slot that moves, seen by those who watch their lines (R197, R299). -/
def vatTold (old new : State) : State :=
  ([0, 0x80, 0x100] ++ (dedup ((old.vat.slots ++ new.vat.slots).map Prod.fst)).map fun i => 0x10000 + 16 * i).foldl (fun s o =>
    if (List.range 16).all fun i => vatStatusByte old (o + i) == vatStatusByte new (o + i) then s else vatMark s o) new

/-- A release, or a VDROP that has effect, writes FREESLOTS and FREEPAGES, the same values included (R289, R297). -/
def vatWritten (s : State) : State := vatMark (vatMark s 0) 0x80

/-- Pages of 4 KiB for a number of bytes. -/
def pagesFor (n : Nat) : Nat := (n + 4095) / 4096

/-- Pages of a slot's accumulator (R286). -/
def VatSlot.accPages (v : VatSlot) : Nat := pagesFor (4 * v.len)

/-- Pages that a held row of the slot takes (R286). -/
def VatSlot.rowPages (v : VatSlot) : Nat := pagesFor ((if v.infmt then 4 else 2) * v.len)

/-- Pages that the slot's held rows have taken. -/
def VatSlot.heldPages (v : VatSlot) : Nat := (v.held.map (·.pages)).sum

/-- Pages that the slot has of the pool (R286): its accumulator's, unless VDROP has returned them, and its held rows'. -/
def VatSlot.poolPages (v : VatSlot) : Nat := (if v.state == 0 || v.dropped then 0 else v.accPages) + v.heldPages

/-- Experts expected (R287). -/
def VatSlot.count (v : VatSlot) : Nat := v.experts.length

/-- The lowest position that is neither folded nor substituted (R291). -/
def VatSlot.lowest (v : VatSlot) : Nat :=
  ((List.range v.count).find? fun i => !v.foldedMask.getLsbD i && !v.subMask.getLsbD i).getD v.count

/-- The key of an order queue (R295). -/
def orderKey (context ordq : Nat) : Nat := 16 * context + ordq

/-- NEXT of the slot's order queue (R295). -/
def nextOf (s : State) (v : VatSlot) : Word := tgetD s.vat.queueNext (orderKey v.context v.ordq) 0

/-- Every position of the slot is folded or substituted (R292). -/
def VatSlot.resolved (v : VatSlot) : Bool := v.lowest == v.count

/-- How far a sequence number lies from NEXT. -/
def aheadOf (next seq : Word) : Nat := (seq - next).toNat

/-- The slots of an order queue. -/
def queueSlots (s : State) (context ordq : Nat) : List (Nat × VatSlot) :=
  s.vat.slots.filter fun e => e.2.state != 0 && e.2.inOrder && e.2.context == context && e.2.ordq == ordq

/-! ### Folding (R291, R292) -/

/-- An element of a row widened to binary32 (R291). -/
def widenElem (f32 : Bool) (x : Word) : FVal := if f32 then f32Val x else decodeF .bf16 (x.toNat % 2 ^ 16)

/-- rne32 of a value, NaN being the canonical one. -/
def rne32 (v : FVal) : Word := BitVec.ofNat 32 (writeF .f32 0 false false v)

/-- One element folded: rne32(acc + rne32(W x y)). -/
def foldElem (w acc : Word) (y : FVal) : Word := rne32 (FVal.add 0 (f32Val acc) (f32Val (rne32 (FVal.mul (f32Val w) y))))

/-- A row folded into the slot at its position. -/
def VatSlot.foldRow (v : VatSlot) (r : HeldRow) : VatSlot :=
  { v with
    acc := List.zipWith (fun a y => foldElem (v.weights.getD r.position 0) a (widenElem v.infmt y)) v.acc r.elems
    foldedMask := v.foldedMask ||| (1#8 <<< r.position)
    held := v.held.filter fun x => x.position != r.position
    poison := v.poison || r.poison }

/-- Folds every row that is present and whose lower positions are resolved, in ascending position: the slot, and the pages freed. -/
def VatSlot.settle : Nat → VatSlot → VatSlot × Nat
  | 0, v => (v, 0)
  | n + 1, v => match v.held.find? fun r => r.position == v.lowest && r.complete with
    | none => (v, 0)
    | some r =>
      let x := (v.foldRow r).settle n
      (x.1, x.2 + r.pages)

/-! ### Order queues (R295) -/

/-- Lets the slots of an order queue go whose turn it is, skipping numbers that no slot holds below one whose deadline has fired. -/
def pumpQueue : Nat → State → Nat → Nat → State
  | 0, s, _, _ => s
  | n + 1, s, context, ordq =>
    let key := orderKey context ordq
    let next := tgetD s.vat.queueNext key 0
    let slots := queueSlots s context ordq
    let go (s : State) : State :=
      pumpQueue n { s with vat := { s.vat with queueNext := tset 0 s.vat.queueNext key (next + 1) } } context ordq
    match slots.find? fun e => e.2.seq == next with
    | some e =>
      if e.2.state == 2 && e.2.resolved then go (s.setVatSlot e.1 { e.2 with state := 3 })
      else if e.2.state == 4 then go s
      else s
    | none => if slots.any fun e => e.2.forced && decide (aheadOf next e.2.seq ≤ 63) then go s else s

/-- A slot folds what it can and, once every position is resolved or its deadline has been applied, goes to release (R292, R293, R298): COMPLETE is
passed through. A slot past its deadline that waits for the rest of an accepted row stands in RELEASING, or in READY, until that row is folded (R290).
A slot that is not next in its queue stays OPEN (DEDUCED, log 58). -/
def settleSlot (s : State) (i : Nat) : State :=
  let r := (s.vatSlot i).settle 8
  let s := (s.setVatSlot i r.1).addPages r.2
  if r.1.state == 1 && (r.1.resolved || r.1.byDeadline) then
    if r.1.inOrder then pumpQueue 128 (s.setVatSlot i { r.1 with state := 2 }) r.1.context r.1.ordq
    else s.setVatSlot i { r.1 with state := 3 }
  else if r.1.state == 2 then pumpQueue 128 s r.1.context r.1.ordq
  else s

/-! ### VOPEN (R287, R288, R553) -/

/-- The slot that a descriptor describes, or none where it is malformed (R287, R288). -/
def slotOf (n : Nat) (context : Nat) (d : Descriptor) (clock : Nat) : Option VatSlot :=
  let count := bits n 384 8
  let len := bits n 352 16
  let mode := bits n 392 8
  let es := (List.range count).map fun i => bits n (8 * i) 8
  let dst : Dword := BitVec.ofNat 64 (bits n 448 64)
  let stamp : Dword := BitVec.ofNat 64 (bits n 512 64)
  let us := bits n 368 16
  let rising := (List.range (count - 1)).all fun i => decide (es.getD i 0 < es.getD (i + 1) 0)
  if bits n 576 448 != 0 || bits n 400 48 != 0 || count == 0 || decide (8 < count) || len == 0 || decide (16384 < len) || !rising ||
      !virtualAligned dst (if bits mode 0 1 == 1 then 4 else 2) || !virtualAligned stamp 8 then none
  else
    some { VatSlot.free with
      state := 1, context := context, desc := d, experts := es
      weights := (List.range count).map fun i => BitVec.ofNat 32 (bits n (64 + 32 * i) 32)
      len := len, outfmt := bits mode 0 1 == 1, infmt := bits mode 1 1 == 1, renorm := bits mode 2 1 == 1, inOrder := bits mode 3 1 == 1
      ordq := bits mode 4 4, seq := BitVec.ofNat 32 (bits n 320 32), dst := dst, stampAddr := stamp
      deadline := (if us == 0 then 0 else clock + us * Config.cyclesPerUs), acc := List.replicate len 0x80000000 }

/-- The in-order rule refuses a sequence number (R295): too far from NEXT, held by an open slot, or skipped. -/
def orderRefuses (s : State) (v : VatSlot) : Bool :=
  let ahead := aheadOf (nextOf s v) v.seq
  v.inOrder && (decide (63 < ahead) || (queueSlots s v.context v.ordq).any fun e =>
    e.2.seq == v.seq || (e.2.forced && decide (aheadOf (nextOf s v) e.2.seq ≤ 63) && decide (ahead < aheadOf (nextOf s v) e.2.seq)))

/-- Opens a slot (R288): the state, the status, and the handle. The slot keeps the descriptor of its opening convoy, and its release goes by that one's
ROOT, CLASSMAP and UNORDERED (DESIGN CHOICE, log 92: R296 says only the context's). -/
def openSlot (s : State) (n context : Nat) (d : Descriptor) : State × Nat × Nat :=
  match slotOf n context d s.clock with
  | none => (s, 4, 0)
  | some v =>
    if orderRefuses s v then (s, 3, 0)
    else match (List.range Config.vatSlots).find? fun i => (s.vatSlot i).state == 0 with
    | none => (s, 1, 0)
    | some i =>
      if s.vat.freePages < v.accPages then (s, 2, 0)
      else
        let g := (s.vatSlot i).generation
        let t := { s with vat := { s.vat with freePages := s.vat.freePages - v.accPages } }
        (vatTold s (t.setVatSlot i { v with generation := g }), 0, g.toNat * 4096 + i)

/-- `vopen sD, sA` (R288, R553). -/
def execVopen (a d : BitVec 6) (s : State) : Host.Outcome State Fault Refusal :=
  run (.vopen a d) { inTx := false } s fun c =>
    let ea := c.w.sreg a.toNat
    match firstCause s c [(ea, 128, 128, .own)] with
    | some t => .trap t
    | none =>
      let r := openSlot s (ownScratch s c ea 128) c.conv.context c.conv.desc
      .next (r.1.modWave c.key fun w => w.setSreg d.toNat (BitVec.ofNat 64 (r.2.1 * 2 ^ 32 + r.2.2)))

/-! ### Release (R294, R296) -/

/-- The exact quotient of two values as far as one rounding can tell: NaN, an infinity, a zero, or a value with a sticky last bit. -/
def FVal.quotient : FVal → FVal → FVal
  | .nan, _ => .nan
  | _, .nan => .nan
  | .inf _, .inf _ => .nan
  | .inf a, .fin b _ _ => .inf (a != b)
  | .fin a _ _, .inf b => .fin (a != b) 0 0
  | .fin a m e, .fin b n g =>
    if n == 0 then (if m == 0 then .nan else .inf (a != b))
    else
      let q := m * 2 ^ 128 / n
      let sticky := if m * 2 ^ 128 % n == 0 then 0 else 1
      .fin (a != b) (2 * q + sticky) (e - g - 129)

/-- The output elements of a slot (R294). -/
def VatSlot.output (v : VatSlot) : List Nat :=
  let f : FFmt := if v.outfmt then .f32 else .bf16
  if v.renorm && v.subMask != 0 then
    let here := (List.range v.count).filter fun i => v.arrivedMask.getLsbD i
    if here.isEmpty then v.acc.map fun _ => 0
    else
      let sum := here.foldl (fun (t : Word) i => rne32 (FVal.add 0 (f32Val t) (f32Val (v.weights.getD i 0)))) 0x80000000
      v.acc.map fun a => writeF f 0 false false (FVal.quotient (f32Val a) (f32Val sum))
  else v.acc.map fun a => writeF f 0 false false (f32Val a)

/-- The row that a slot releases. -/
def VatSlot.rowBytes (v : VatSlot) : List Byte := v.output.flatMap fun x => bytesOf (if v.outfmt then 4 else 2) x

/-- The completion word (R296). -/
def VatSlot.stamp (v : VatSlot) : Nat :=
  pack [(0, v.seq.toNat), (32, v.subMask.toNat), (40, v.byDeadline.toNat), (41, v.dropped.toNat)]

/-- The slot is freed and its generation rises (R285, R296). -/
def freeSlot (s : State) (i : Nat) : State := s.setVatSlot i { VatSlot.free with generation := (s.vatSlot i).generation + 1 }

/-- The slot is freed with the pages that it has, and a release or a VDROP has ended (R289, R296). -/
def endSlot (s : State) (i : Nat) : State := vatWritten ((freeSlot s i).addPages (s.vatSlot i).poolPages)

/-- Writes the slot's stamp and, once it has been written, frees it (R296): in another package it has been written when its packet has committed. -/
def stampSlot (s : State) (i : Nat) : State :=
  let v := s.vatSlot i
  if v.stampAddr == 0 || v.stamped then endSlot s i
  else match unitWrite s v.context v.desc v.stampAddr (bytesOf 8 v.stamp) false with
    | .ok s => if unitPackets s v.context then s.setVatSlot i { v with stamped := true } else endSlot s i
    | .cause s _ => endSlot s i
    | .hold s pa kind => askLine s pa kind
    | .absent s => s.setVatSlot i { v with waiting := true }

/-- A slot that is dropped has its turn: at once where it is as-complete, else once NEXT has passed it (R295, R297). -/
def dropDue (s : State) (v : VatSlot) : Bool := !v.inOrder || decide (63 < aheadOf (nextOf s v) v.seq)

/-- A slot of the same order queue that releases comes before this one (R295). -/
def releaseBehind (s : State) (v : VatSlot) : Bool :=
  v.inOrder && (queueSlots s v.context v.ordq).any fun e => (e.2.state == 3 || (e.2.state == 4 && dropDue s e.2)) && (e.2.seq - v.seq).slt 0

/-- The slot waits for packets of its row, or of its stamp, to commit (R296). -/
def VatSlot.awaits (v : VatSlot) (s : State) : Bool :=
  (v.stamped || (v.state == 3 && v.written == v.rowBytes.length)) && unitPackets s v.context

/-- A slot whose release can go on: RELEASING with every position resolved, or DROPPING at its turn. -/
def releaseDue (s : State) (v : VatSlot) : Bool :=
  !v.waiting && !v.awaits s && ((v.state == 3 && v.resolved) || (v.state == 4 && dropDue s v)) && !releaseBehind s v

/-- Goes on with a slot's release (R296): the row, and once it has committed the stamp, by the descriptor saved at VOPEN (DESIGN CHOICE, log 92). -/
def releaseSlot (s : State) (i : Nat) : State :=
  let v := s.vatSlot i
  if v.state == 4 || v.stamped then stampSlot s i
  else
    let bs := v.rowBytes
    let r := unitWriteRun (bs.length / 128 + 2) s v.context v.desc v.dst bs v.poison v.written
    let at' (s : State) : State := s.setVatSlot i { s.vatSlot i with written := r.1 }
    match r.2 with
    | .ok t | .cause t _ =>
      if r.1 == bs.length && !unitPackets t v.context then stampSlot (at' t) i else at' t
    | .hold t pa kind => if r.1 == v.written then askLine s pa kind else askLine (at' t) pa kind
    | .absent t => (at' t).setVatSlot i { v with written := r.1, waiting := true }

/-- VAT_RELEASE_DONE (R296): the release of a slot goes on; where its stamp is written the slot is freed. -/
def execVatReleaseDone (s : State) : Host.Outcome State Fault Refusal :=
  match s.vat.slots.find? fun e => releaseDue s e.2 && releaseSlot s e.1 != s with
  | none => .next s
  | some e => .next { (vatTold s (releaseSlot s e.1)) with epoch := s.epoch + 1 }

/-! ### VDROP (R297, R556) -/

/-- `vdrop sD, sH` (R297, R556). An as-complete slot whose stamp meets an absent page stays in DROPPING until replay (DESIGN CHOICE, log 40). -/
def execVdrop (h d : BitVec 6) (s : State) : Host.Outcome State Fault Refusal :=
  run (.vdrop h d) { inTx := false } s fun c =>
    let x := (c.w.sreg h.toNat).toNat
    let i := x % 4096
    let v := s.vatSlot i
    let put (s : State) (n : Nat) : State := s.modWave c.key fun w => w.setSreg d.toNat (BitVec.ofNat 64 n)
    if 2 ^ 32 ≤ x then .trap (Trap.mk' 0x02 (wordOf (.vdrop h d)))
    else if (v.state == 1 || v.state == 2) && v.generation.toNat == x / 4096 && v.context == c.conv.context then
      let t := (s.setVatSlot i { v with state := 4, dropped := true, acc := [], held := [] }).addPages v.poolPages
      if v.inOrder then .next (put (vatTold s (vatWritten (pumpQueue 128 t v.context v.ordq))) 1)
      else .next (put (vatTold s (vatWritten (stampSlot t i))) 0)
    else .next (put s 2)

/-! ### Arrivals (R290 to R292) -/

/-- The Vat's decision on a row (R290), with its position in the slot's list. -/
def decideRow (s : State) (r : VatRow) : Nat × Nat :=
  let v := s.vatSlot (r.handle.toNat % 4096)
  if v.generation.toNat != r.handle.toNat / 4096 || v.state != 1 || v.byDeadline then (3, 0)
  else match v.experts.findIdx? (· == r.expert) with
    | none => (4, 0)
    | some p =>
      if v.context != r.context || r.len != v.len || r.infmt != v.infmt then (4, 0)
      else if v.arrivedMask.getLsbD p then (5, 0)
      else if v.lowest != p && decide (s.vat.freePages < v.rowPages) then (2, 0)
      else (1, p)

/-- Counts a row by its outcome (R290, R299). -/
def Vat.counted (v : Vat) (code : Nat) : Vat :=
  if code == 2 then { v with refused := v.refused + 1 }
  else if code == 3 then { v with late := v.late + 1 }
  else if code == 4 then { v with rejected := v.rejected + 1 }
  else if code == 5 then { v with duplicate := v.duplicate + 1 }
  else v

/-- An accepted row joins its slot (R290, R292): it is held, with the pages it needs, until it can be folded. -/
def joinRow (s : State) (r : VatRow) (p : Nat) (complete : Bool) : State :=
  let i := r.handle.toNat % 4096
  let v := s.vatSlot i
  let pages := if v.lowest == p then 0 else v.rowPages
  let h : HeldRow := { row := r.id, position := p, src := r.src, complete := complete, pages := pages, elems := r.elems, poison := r.poison }
  let s := { s with vat := { s.vat with freePages := s.vat.freePages - pages } }
  settleSlot (s.setVatSlot i { v with arrivedMask := v.arrivedMask ||| (1#8 <<< p), held := v.held ++ [h] }) i

/-- The core and index of the command of a copy chain that sends a row of this package. -/
def senderOf (s : State) (r : VatRow) : Option (Nat × Nat × CopyCmd) :=
  s.cores.findSome? fun e => (e.2.chain.findIdx? fun x => x.row == some r && !x.moved).bind fun i =>
    (e.2.chain[i]?).map fun x => (e.1, i, x)

/-- The elements of a row of a command some of whose source bytes were written while it was being sent are undefined (R177). -/
def blurRow (s : State) (x : CopyCmd) (r : VatRow) : VatRow :=
  let n := if r.infmt then 4 else 2
  if x.conflict.isEmpty then r
  else { r with elems := r.elems.mapIdx fun k w =>
    if (List.range n).any fun o => inRanges x.conflict (n * k + o) then
      BitVec.ofNat 32 ((Config.freeWord s.draws 610 k).toNat % 2 ^ (8 * n)) else w }

/-- VAT_ARRIVAL (R290): the Vat decides on a row whose first packet it has accepted, and tells the sender. A row of this package is all there. -/
def execVatArrival (row : VatRow) (s : State) : Host.Outcome State Fault Refusal :=
  let d := decideRow s row
  let counted := { s with vat := s.vat.counted d.1, epoch := s.epoch + 1, draws := s.draws + 1 }
  if row.src == s.pkg then
    match senderOf s row with
    | none => .next s
    | some (core, k, x) =>
      let t := if d.1 == 1 then joinRow counted (blurRow s x row) d.2 true else counted
      .next (vatTold s (setCmd t core k { x with stampVal := BitVec.ofNat 32 d.1, moved := true }))
  else if isLost s row.src then .next s
  else
    let t := if d.1 == 1 then joinRow counted row d.2 false else counted
    .next (vatTold s { t with vat := { t.vat with answers := t.vat.answers ++ [(row.src, row.id, d.1)] } })

/-- VAT_ROW_COMPLETE (R290, R292): every packet of an accepted row of another package is present, and the row can be folded. -/
def execVatRowComplete (src row : Nat) (s : State) : Host.Outcome State Fault Refusal :=
  let here (r : HeldRow) : Bool := r.src == src && r.row == row && !r.complete
  match s.vat.slots.find? fun e => e.2.held.any here with
  | none => .next s
  | some e =>
    let v := { e.2 with held := replaceFirst here (fun r => { r with complete := true }) e.2.held }
    .next { (vatTold s (settleSlot (s.setVatSlot e.1 v) e.1)) with epoch := s.epoch + 1 }

/-! ### Deadlines (R293, R295) -/

/-- The rows of lost packages that are incomplete are taken out of a slot past its deadline, and their positions substituted (R290). -/
def substituteLost (s : State) (i : Nat) : State :=
  let v := s.vatSlot i
  let gone := v.held.filter fun r => !r.complete && isLost s r.src
  let mask := gone.foldl (fun (m : BitVec 8) r => m ||| (1#8 <<< r.position)) 0
  if gone.isEmpty then s
  else (s.setVatSlot i { v with arrivedMask := v.arrivedMask &&& ~~~mask, subMask := v.subMask ||| mask
                                held := v.held.filter fun r => r.complete || !isLost s r.src }).addPages (gone.map (·.pages)).sum

/-- A slot in OPEN is resolved (R293): what has not arrived is substituted, and what has is folded. -/
def resolveSlot (s : State) (i : Nat) : State :=
  let v := s.vatSlot i
  if v.state != 1 || v.byDeadline then s
  else
    let all : BitVec 8 := BitVec.ofNat 8 (2 ^ v.count - 1)
    settleSlot (substituteLost (s.setVatSlot i { v with byDeadline := true, subMask := all &&& ~~~v.arrivedMask }) i) i

/-- The open slots of a queue up to a slot's sequence number, lowest first (R295). -/
def lowerSlots (s : State) (v : VatSlot) : List Nat :=
  let next := nextOf s v
  let ahead := aheadOf next v.seq
  (List.range 64).flatMap fun k =>
    ((queueSlots s v.context v.ordq).filter fun e => aheadOf next e.2.seq == k && decide (k ≤ ahead)).map (·.1)

/-- The deadline of a slot has been set and can be applied: the slot is in OPEN, or is an in-order one in READY (R293, R295). -/
def VatSlot.timed (v : VatSlot) : Bool := v.deadline != 0 && (v.state == 1 || v.state == 2)

/-- The deadline of a slot is applied (R293, R295). -/
def fireDeadline (s : State) (slot : Nat) : State :=
  let v := s.vatSlot slot
  let t := { (s.setVatSlot slot { v with deadline := 0, forced := v.inOrder }) with epoch := s.epoch + 1 }
  vatTold s (if v.inOrder then pumpQueue 128 ((lowerSlots s v).foldl resolveSlot t) v.context v.ordq else resolveSlot t slot)

/-- VAT_DEADLINE (R293, R295): the deadline of a slot in OPEN, or of an in-order slot in READY, has passed. -/
def execVatDeadline (slot : Nat) (s : State) : Host.Outcome State Fault Refusal :=
  let v := s.vatSlot slot
  .next (if !v.timed || decide (s.clock < v.deadline) then s else fireDeadline s slot)

/-- Time passes: a deadline that has not fired within the microsecond after it fires at its end (R293). -/
def passTime (s : State) (cycles : Nat) : State :=
  let s := { s with clock := s.clock + cycles }
  (s.vat.slots.map (·.1)).foldl (fun s i =>
    if (s.vatSlot i).timed && decide ((s.vatSlot i).deadline + Config.cyclesPerUs ≤ s.clock) then fireDeadline s i else s) s

/-- A package has been lost (R269, R290): slots past their deadlines no longer wait for the rest of its rows. -/
def vatLost (s : State) : State :=
  vatTold s (s.vat.slots.foldl (fun t e => if e.2.byDeadline && !e.2.resolved then settleSlot (substituteLost t e.1) e.1 else t) s)

/-- A context is torn down (R285, R295, R299): its slots are freed with their pages, and its order queues are as at its creation. -/
def vatTeardown (s : State) (context : Nat) : State :=
  let mine := (s.vat.slots.filter fun e => e.2.state != 0 && e.2.context == context).map (·.1)
  let t := mine.foldl (fun s i => (freeSlot s i).addPages (s.vatSlot i).poolPages) s
  vatTold s { t with vat := { t.vat with queueNext := t.vat.queueNext.filter fun e => e.1 / 16 != context } }

/-- The rows on their way to a lost package, that its Vat has not decided on, are reported, and their commands complete (R300). -/
def sendsLost (s : State) (p : Nat) : State :=
  s.cores.foldl (fun s e => (List.range e.2.chain.length).foldl (fun s i => match e.2.chain[i]? with
    | some x => if x.row.isSome && x.peer == p && !x.moved then
        setCmd (agentReport s (x.agent s e.1) 0x09 0 x.src) e.1 i { x with moved := true, stampAddr := 0 } else s
    | none => s) s) s

end Sys2Proof.Machine
end

