-- ==== Sys2Proof/Machine/Collective.lean ====
section
/-! DEFINITION. Collectives (R281 to R284, R444 to R448, R561), combining sessions (R275 to R278), and their events. -/

namespace Sys2Proof.Machine

/-! ### Combining (R276, R277) -/

/-- The value of an element of a float format, and an element from it. -/
def combineVal (fmt : Nat) (x : Word) : FVal := if fmt == 1 then decodeF .bf16 (x.toNat % 2 ^ 16) else f32Val x

/-- An element of a format from a value, in RNE. -/
def combineCode (fmt : Nat) (v : FVal) : Word := BitVec.ofNat 32 (writeF (if fmt == 1 then .bf16 else .f32) 0 false false v)

/-- One step of SUM, MAX or MIN (R276). -/
def combineElem (op fmt : Nat) (x y : Word) : Word :=
  if fmt == 2 then
    if op == 0 then x + y else if op == 1 then (if x.slt y then y else x) else (if x.slt y then x else y)
  else
    let a := combineVal fmt x
    let b := combineVal fmt y
    combineCode fmt (if op == 0 then FVal.add 0 a b else if op == 1 then FVal.max a b else FVal.min a b)

/-- exp2 of a word, as FEXP2 gives it without FTZ (R277, R470). -/
def rsxExp (d : Word) : Word := BitVec.ofNat 32 (exp2Code d 0 false (f32Val d))

/-- rne32 of a product. -/
def mulWord (x y : Word) : Word := rne32 (FVal.mul (f32Val x) (f32Val y))

/-- rne32 of a sum. -/
def addWord (x y : Word) : Word := rne32 (FVal.add 0 (f32Val x) (f32Val y))

/-- One step of RSX (R277). -/
def rsxStep (x y : List Word) : List Word :=
  let m1 := x.getD 0 0
  let m2 := y.getD 0 0
  let nan : Word := 0x7FC00000
  if (f32Val m1).isNan || (f32Val m2).isNan then x.map fun _ => nan
  else
    let m := rne32 (FVal.max (f32Val m1) (f32Val m2))
    if m == 0xFF800000 then m :: x.tail.map fun _ => 0
    else
      let d (mi : Word) : Word := if (f32Val mi).eq (f32Val m) then 0 else rne32 (FVal.add 0 (f32Val mi) (f32Val m).neg)
      let a := rsxExp (d m1)
      let b := rsxExp (d m2)
      m :: List.zipWith (fun u v => addWord (mulWord u a) (mulWord v b)) x.tail y.tail

/-- Splits a list into groups of `n`. -/
def groupsOf {α : Type} : Nat → Nat → List α → List (List α)
  | 0, _, _ => []
  | fuel + 1, n, l => if l.isEmpty then [] else l.take n :: groupsOf fuel n (l.drop n)

/-- One step over the elements of two chunks. -/
def combineStep (op fmt rsxn : Nat) (x y : List Word) : List Word :=
  if op == 3 then
    (List.zipWith rsxStep (groupsOf x.length (rsxn + 2) x) (groupsOf y.length (rsxn + 2) y)).flatten
  else List.zipWith (combineElem op fmt) x y

/-- The contributions of a chunk, folded left to right in ascending input number (R275). -/
def combineAll (op fmt rsxn : Nat) : List (List Word) → List Word
  | [] => []
  | x :: rest => rest.foldl (combineStep op fmt rsxn) x

/-! ### The descriptor (R444, R445) -/

/-- Bytes of an element word: 4, or 2 for BF16. -/
def elemWord (fmt : Nat) : Nat := if fmt == 1 then 2 else 4

/-- The element size e (R444). -/
def collElem (kind op fmt rsxn : Nat) : Nat := if kind ≤ 1 && op == 3 then 4 * (rsxn + 2) else elemWord fmt

/-- The fields of a descriptor lie in their values and go together (R445), the tile apart. -/
def collFieldsOk (n pkg : Nat) : Bool :=
  let kind := bits n 480 8
  let op := bits n 488 8
  let fmt := bits n 496 8
  let flags := bits n 504 8
  let tile := bits n 512 8
  let rsxn := bits n 536 8
  let e := collElem kind op fmt rsxn
  let members := bits n 256 128
  let size := (bitsSet (BitVec.ofNat 128 members)).length
  let chunk := bits n 416 32
  let len := bits n 384 32
  bits n 544 480 == 0 && decide (kind ≤ 4) && (decide (2 ≤ kind) || decide (op ≤ 3)) && decide (fmt ≤ 2) && decide (flags < 8) &&
  bits flags 0 2 != 3 && decide (tile < 32) && decide (bits n 528 8 < 128) && decide (1 ≤ rsxn) && decide (rsxn ≤ 62) &&
  !(decide (kind ≤ 1) && op == 3 && fmt != 0) && !(bits flags 2 1 == 1 && (bits flags 0 2 != 0 || kind != 0)) &&
  decide (256 ≤ chunk) && decide (chunk ≤ 0x100000) && chunk % e == 0 && decide (4 ≤ len) && decide (len ≤ 0x10000000) && len % e == 0 &&
  bits members pkg 1 == 1 && !(kind == 3 && bits members (bits n 528 8) 1 == 0) &&
  !((kind == 1 || kind == 2 || kind == 4) && len % (size * e) != 0) && bits n 128 64 != 0 &&
  !(bits tile 4 1 == 1 && (!(kind == 0 || kind == 3) || bits n 0 128 != 0))

/-- The tile that a descriptor names. -/
def collTile (n : Nat) : Option Nat := if bits n 516 1 == 1 then some (bits n 512 4) else none

/-- The tile has the size and the tag that the descriptor needs (R445). -/
def collTileOk (s : State) (c : Ctx) (n : Nat) : Bool :=
  match collTile n with
  | none => true
  | some t =>
    let fmt := bits n 496 8
    let b := c.conv.card.bind
    decide (c.conv.card.tiles ≤ t) ||
    (bits n 384 32 == 4 * tileRows b * tileCols b && (s.tile (keyCrewKey c.key) t).tag == (if fmt == 0 then 1 else if fmt == 2 then 4 else 0xE))

/-- The collective that a descriptor makes, with the leader's engine. -/
def collOf (c : Ctx) (n stream : Nat) : Collective :=
  let f (lo : Nat) : Dword := BitVec.ofNat 64 (bits n lo 64)
  { wave := c.key, context := c.conv.context, convoy := keyConvoy c.key, crew := keyCrew c.key, core := c.w.core, pc := c.path.pc
    collid := bits n 448 32, kind := bits n 480 8, op := bits n 488 8, fmt := bits n 496 8, rsxn := bits n 536 8
    members := BitVec.ofNat 128 (bits n 256 128), len := bits n 384 32, chunk := bits n 416 32, src := f 0, dst := f 64, barrier := f 128
    status := f 192, tile := collTile n, root := bits n 528 8, stream := stream, cls := bits n 504 2, session := none, combined := []
    moved := false, conflict := [], undefined := false, stopped := false, waiting := false, lost := [], dropped := [], reports := [] }

/-- The addresses of a descriptor with their checks (R242, R444, R445). -/
def collAddrs (x : Collective) : List (Dword × Nat × Nat × Where) :=
  let w := elemWord x.fmt
  [(x.barrier, 16, 16, Where.any)] ++
  (if x.tile.isSome then [] else
    [(x.src, if x.kind == 2 then x.slice else x.len, w, Where.any), (x.dst, x.destLen, w, Where.any)]) ++
  (if x.status == 0 then [] else [(x.status, 16, 16, Where.virt)])

/-- The trap of the checks of a descriptor (R445), in the order of R403. -/
def collTrap (s : State) (c : Ctx) (n stream : Nat) (word : Dword) : Option Trap :=
  if !collFieldsOk n s.pkg || !collTileOk s c n then some (Trap.mk' 0x02 word)
  else match collTile n with
  | some t => if c.conv.card.tiles ≤ t then some (Trap.mk' 0x11 (BitVec.ofNat 64 (0x100 + t))) else firstCause s c (collAddrs (collOf c n stream))
  | none => firstCause s c (collAddrs (collOf c n stream))

/-! ### Schedules (R250, R561) -/

/-- The members all stand in one row, or all in one column, of the pod (R250, R561). -/
def oneLine (members : BitVec 128) : Bool :=
  let ps := bitsSet members
  (ps.all fun p => p / 8 == (ps.headD 0) / 8) || (ps.all fun p => p % 8 == (ps.headD 0) % 8)

/-- The port of a package that faces another of its row or column (R250). -/
def portTo (pkg p : Nat) : Option Nat :=
  if p == pkg then none
  else if p / 8 == pkg / 8 then some (if p % 8 < pkg % 8 then p % 8 else p % 8 - 1)
  else if p % 8 == pkg % 8 then some (7 + (if p / 8 < pkg / 8 then p / 8 else p / 8 - 1))
  else none

/-- The package that a port faces (R250): none for a spare port. -/
def portPeer (pkg port : Nat) : Option Nat := (List.range 128).find? fun p => portTo pkg p == some port

/-- The inputs of the session of a collective at this package (R561): the ports facing the members, and the local input 24. -/
def sessionInputs (pkg : Nat) (members : BitVec 128) : BitVec 25 :=
  (bitsSet members).foldl (fun (m : BitVec 25) p => m ||| (1#25 <<< ((portTo pkg p).getD 24))) 0

/-- A collective needs a wayside processor (R251): one of its four ports faces a member. -/
def Collective.needs (x : Collective) (pkg w : Nat) : Bool :=
  (bitsSet x.members).any fun p => match portTo pkg p with | some k => k / 4 == w | none => false

/-- The firmware has the schedule for the descriptor's kind and flags (R448, R561), every processor that the collective needs runs it (R280), and every
member is in the pod. Any image serves what R561 lists (DEDUCED, log 59). -/
def scheduleOk (s : State) (x : Collective) (sched : Nat) (inSwitch : Bool) : Bool :=
  ((List.range 6).all fun w => !x.needs s.pkg w || (vget s.waysides w { image := none, next := none }).image.isSome) &&
  ((sched == 1 && x.kind == 3) || (sched == 3 && x.kind == 0 && inSwitch && oneLine x.members)) &&
  (bitsSet x.members).all fun p => inPod s p

/-- A processor that a collective needs is to load an image, from the acceptance of the FWLOAD that names it (R385). -/
def imageAwaited (s : State) (x : Collective) : Bool :=
  (List.range 6).any fun w => x.needs s.pkg w &&
    ((vget s.waysides w { image := none, next := none }).next.isSome ||
     s.hostq.commands.any fun c => c.op == 6 && !c.started && (c.payload.headD 0).getLsbD w)

/-! ### The engine's accesses -/

/-- For whom a collective acts. -/
def Collective.agent (s : State) (x : Collective) : Agent :=
  let root := match tget s.convoys x.convoy with | some v => v.desc.root | none => (s.context x.context).desc.root
  let slot := match tget s.waves x.wave with | some w => w.slot | none => 0
  { key := x.wave, owned := false, convoy := x.convoy, crew := x.crew, slot := slot, context := x.context, core := x.core, pc := x.pc, root := root }

/-- What reading the source finds: its bytes, with the offsets of those in poisoned lines; an absent page; a home that holds
it; or bytes of another package. -/
inductive CollSource where
  | ok (s : State) (bytes : List Byte) (poison : List Nat)
  | absent (ea : Dword)
  | held (pa kind : Nat)
  | away
  deriving DecidableEq, Repr

/-- Reads `n` source bytes from an address, line by line. A precise cause is reported, and the bytes are undefined. -/
def readSource : Nat → State → Agent → Dword → Nat → Nat → CollSource
  | 0, s, _, _, _, _ => .ok s [] []
  | fuel + 1, s, a, base, n, o =>
    if n ≤ o then .ok s [] []
    else
      let ea := base + BitVec.ofNat 64 o
      let k := min (128 - ea.toNat % 128) (n - o)
      let rest (s : State) (bs : List Byte) (bad : Bool) : CollSource :=
        match readSource fuel s a base n (o + k) with
        | .ok s tl p => .ok s (bs ++ tl) ((if bad then (List.range k).map (o + ·) else []) ++ p)
        | r => r
      match reach s a .copyRead k ea with
      | .absent => .absent ea
      | .held pa kind => .held pa kind
      | .cause code => rest (agentReport s a code 0 ea) (lostBytes s o k) false
      | .ok s t => if reachForeign s a.core t then .away else rest s (agentRead s a k t) (readsPoison s a.convoy t)

/-- The bytes of a tile, row by row. -/
def tileImage (x : Tile) (rows cols : Nat) : List Byte :=
  (List.range rows).flatMap fun i => (List.range cols).flatMap fun j => bytesOf 4 (x.elem i j).toNat

/-- Rows and columns of the tiles of a collective's convoy. -/
def collShape (s : State) (x : Collective) : Nat × Nat :=
  match tget s.convoys x.convoy with | some v => (tileRows v.card.bind, tileCols v.card.bind) | none => (32, 32)

/-- The source bytes of this package from an offset. -/
def collSource (s : State) (x : Collective) (o n : Nat) : CollSource :=
  match x.tile with
  | some t => .ok s (((tileImage (s.tile (crewKey x.convoy x.crew) t) (collShape s x).1 (collShape s x).2).drop o).take n) []
  | none => readSource (n / 128 + 2) s (x.agent s) (x.src + BitVec.ofNat 64 o) n 0

/-! ### Losses (R282 to R284) -/

/-- The status word (R284). -/
def Collective.statusWord (x : Collective) : Nat :=
  let l (i : Nat) : Nat × Nat := x.lost.getD i (0xFF, 0)
  pack [(0, (l 0).2), (32, (l 0).1), (64, min 3 x.lost.length), (72, x.stopped.toNat), (88, (l 1).1), (96, (l 1).2)]

/-- Queues a record at the package's tap (R527), with where its result goes. -/
def queueRecord (s : State) (r : Record) (result : Option (Nat × Nat × Nat)) : State :=
  let q := vget s.ring.queues r.cls []
  { s with ring := { s.ring with queues := s.ring.queues.setIfInBounds r.cls (q ++ [(r, result)]) } }

/-- A RING DONE record of this package (R273, R282): the chunks it has completed, and the members it sees live. -/
def doneRecord (s : State) (x : Collective) (completed : Nat) (live : BitVec 128) : Record :=
  { milestone := 0, context := x.context, origin := s.pkg, cls := 0, length := 48, kind := 10
    payload := bytesOf 48 (pack [(0, 2), (8, s.pkg), (32, x.collid), (64, completed), (256, live.toNat)]) }

/-- The members that this package sees live. -/
def Collective.live (x : Collective) : BitVec 128 :=
  (x.dropped ++ x.lost.map (·.1)).foldl (fun (m : BitVec 128) p => m &&& ~~~(1#128 <<< p)) x.members

/-- Bytes of a chunk of a collective: the last may be short. -/
def Collective.chunkLen (x : Collective) (index : Nat) : Nat := min x.chunk (x.destLen - index * x.chunk)

/-- Chunks of a collective. -/
def Collective.chunks (x : Collective) : Nat := (x.destLen + x.chunk - 1) / x.chunk

/-- The chunks, from 0 on, that this package has completed (R282). -/
def Collective.completed (x : Collective) : Nat := ((List.range x.chunks).find? fun i => !x.done.contains i).getD x.chunks

/-- The members that no agreement has excluded, in ascending rank (R283). -/
def Collective.alive (x : Collective) : List Nat := (bitsSet x.members).filter fun p => !x.lost.any fun l => l.1 == p

/-- The member at which the chunks are formed (R561): ROOT, or the lowest-ranked member that is not lost. -/
def Collective.owner (x : Collective) : Nat := if x.sched == 1 then x.root else x.alive.headD 0

/-- The id of a collective's session in the switch of its owner, which its members know too. -/
def Collective.sessionKey (x : Collective) : Nat := x.context * 2 ^ 32 + x.collid

/-- This package drops a member of a collective (R282), and posts what it has completed. -/
def dropMember (s : State) (id p : Nat) : State :=
  match tget s.collectives id with
  | none => s
  | some x =>
    if x.stopped || p == s.pkg || !x.live.getLsbD p then s
    else
      let x := { x with dropped := x.dropped ++ [p] }
      queueRecord { s with collectives := tput s.collectives id x, epoch := s.epoch + 1 } (doneRecord s x x.completed x.live) none

/-- The time within which a chunk must come (R282): 20 µs in class 0, 2 ms in classes 1 and 2. -/
def Collective.limit (x : Collective) : Nat := (if x.sched == 3 || x.cls == 0 then 20 else 2000) * Config.cyclesPerUs

/-- A session goes on without a lost member, its chunks from AGREED on computed again (R283). -/
def Session.without (y : Session) (pkg p agreed : Nat) : Session :=
  { y with inputs := y.inputs &&& ~~~(match portTo pkg p with | some k => 1#25 <<< k | none => 0)
           chunks := y.chunks.filter fun e => decide (e.1 < agreed), began := y.began.filter (fun e => decide (e.1 < agreed)), parts := [] }

/-- The session of a collective at its owner (R275, R561): the inputs are the ports that face the members, and the local input; the output is local
delivery. -/
def Collective.newSession (x : Collective) (pkg id : Nat) : Session :=
  let alive := x.alive.foldl (fun (m : BitVec 128) p => m ||| (1#128 <<< p)) 0
  { op := x.op, fmt := x.fmt, rsxn := x.rsxn, inputs := sessionInputs pkg alive, output := 25
    perChunk := x.chunk / collElem x.kind x.op x.fmt x.rsxn, chunks := [], began := [], collective := id }

/-- A collective after an agreement (R283): the chunks from AGREED on are computed again, among the members that are left; a third loss stops it, and
so does the loss of a BROADCAST's ROOT (R448). What has been lost is then told (R284). -/
def Collective.agreed (x : Collective) (clock agreed : Nat) (fresh : List Nat) : Collective :=
  let lost := x.lost ++ fresh.map fun p => (p, agreed)
  { x with
    lost := lost, reports := [], dropped := x.dropped.filter fun p => !fresh.contains p
    combined := x.combined.filter (fun e => decide (e.1 < agreed)), got := x.got.filter (fun e => decide (e.1 < agreed))
    done := x.done.filter (fun i => decide (i < agreed)), sent := min x.sent agreed, part := 0, moved := x.moved && decide (x.chunks ≤ agreed)
    since := clock, owed := 2, pieces := [], stopped := decide (3 ≤ lost.length) || (x.kind == 3 && lost.any fun l => l.1 == x.root) }

/-- Agreement, once every member not declared lost has reported (R282, R283): the reports of the others count for nothing. -/
def agree (s : State) (id : Nat) : State :=
  match tget s.collectives id with
  | none => s
  | some x =>
    let need := x.alive.filter fun p => !isLost s p
    let reports := x.reports.filter fun r => need.contains r.package
    let all := need.all fun p => reports.any fun r => r.package == p
    if reports.isEmpty || !all || x.stopped then s
    else
      let agreed := reports.foldl (fun m r => min m r.count) (2 ^ 32)
      let fresh := x.alive.filter fun p => reports.any fun r => !r.members.getLsbD p
      if fresh.isEmpty then { s with collectives := tput s.collectives id { x with reports := [] } }
      else
        let x := x.agreed s.clock agreed fresh
        let mine := x.sched == 3 && x.owner == s.pkg
        let key := x.sessionKey
        let x := { x with session := if mine then some key else none }
        { s with
          collectives := tput s.collectives id x
          sessions := if !mine then s.sessions else match tget s.sessions key with
            | some y => tput s.sessions key (fresh.foldl (fun y p => y.without s.pkg p agreed) y)
            | none => tput s.sessions key (x.newSession s.pkg id) }

/-- A DONE record is applied (R282). -/
def applyDone (s : State) (context collid pkg count : Nat) (members : BitVec 128) : State :=
  match s.collectives.find? fun e => e.2.context == context && e.2.collid == collid with
  | none => s
  | some (id, x) =>
    let r : DoneReport := { package := pkg, count := count, members := members }
    agree { s with collectives := tput s.collectives id { x with reports := (x.reports.filter fun y => y.package != pkg) ++ [r] } } id

/-! ### Sessions (R275, R278) -/

/-- Elements as words from bytes, and back. -/
def wordsOf (fmt : Nat) (bs : List Byte) : List Word :=
  (List.range (bs.length / elemWord fmt)).map fun i => BitVec.ofNat 32 (leNat ((bs.drop (elemWord fmt * i)).take (elemWord fmt)))

/-- The bytes of elements. -/
def bytesOfWords (fmt : Nat) (ws : List Word) : List Byte := ws.flatMap fun w => bytesOf (elemWord fmt) w.toNat

/-- Every store and atomic that the convoy's waves issued before in the stream has been performed (R176, R447). -/
def collReady (s : State) (x : Collective) : Bool :=
  s.waves.all fun e => keyConvoy e.1 != x.convoy || ((scratchOut s e.1 x.stream).isEmpty && (packetsOut s e.1 x.stream).isEmpty)

/-- The context's packets of a stream commit in order, as its convoy was placed (R302). -/
def collOrdered (s : State) (x : Collective) : Bool :=
  !(((tget s.convoys x.convoy).map (·.desc)).getD (s.context x.context).desc).unordered.getLsbD x.stream

/-- A chunk sent to the other members, as payload writes, in ascending rank (R281, R561). -/
def spread (s : State) (x : Collective) (cls index : Nat) (bs : List Byte) (poison : Bool) : State :=
  (x.alive.filter fun p => p != s.pkg && !isLost s p).foldl (fun s p => (partsOf 256 bs).foldl (fun s b =>
    sendPacket s none x.pc x.context p x.stream cls (collOrdered s x) 0 (.member x.context x.collid x.lost.length index b.1 b.2) none none
      (some x.convoy) poison) s) s

/-- A contribution to a chunk sent to a session, in packets of up to 256 bytes of class 0 (R252, R275). -/
def sendPartial (s : State) (x : Collective) (owner index : Nat) (elems : List Word) (session : Nat) (poison : Bool) : State :=
  (partsOf (256 / elemWord x.fmt) elems).foldl (fun s b =>
    sendPacket s none x.pc x.context owner x.stream 0 (collOrdered s x) 0 (.chunk session index b.1 b.2 x.lost.length) none none (some x.convoy) poison) s

/-- A chunk of a session is complete: its contributions are combined and leave by the output (R275); what is delivered locally goes to every member
(R561). -/
def deliverChunk (s : State) (id index : Nat) (y : Session) (got : Table (List Word)) : State :=
  let out := combineAll y.op y.fmt y.rsxn (got.map (·.2))
  let y := { y with chunks := tdel y.chunks index, began := tdel y.began index }
  let s := { s with sessions := tput s.sessions id y }
  match tget s.collectives y.collective with
  | none => s
  | some x =>
    if y.output == 25 then
      let s := spread s x 0 index (bytesOfWords x.fmt out) false
      { s with collectives := tput s.collectives y.collective { x with combined := tput x.combined index out, since := s.clock } }
    else match portPeer s.pkg y.output with
      | some p => sendPartial s x p index out id false
      | none => s

/-- A session takes a contribution to a chunk from an input. -/
def putChunk (s : State) (id index port : Nat) (y : Session) (elems : List Word) : State :=
  let got := tput (tgetD y.chunks index []) port elems
  let s := { s with epoch := s.epoch + 1 }
  if (bitsSet y.inputs).all fun p => (tget got p).isSome then deliverChunk s id index y got
  else
    let began := if (tget y.began index).isSome then y.began else tput y.began index s.clock
    { s with sessions := tput s.sessions id { y with chunks := tput y.chunks index got, began := began } }

/-- A session has room for a contribution to a chunk: at most 64 chunks are in flight (R275). -/
def Session.fits (y : Session) (index : Nat) : Bool :=
  let l := dedup (y.chunks.map Prod.fst ++ y.parts.map Prod.fst)
  l.contains index || decide (l.length < 64)

/-- A session awaits a contribution to a chunk from an input: it names it, has not had it, and has not combined the chunk. -/
def awaitsChunk (x : Collective) (y : Session) (index port : Nat) : Bool :=
  y.inputs.getLsbD port && decide (port < 25) && decide (index < x.chunks) && (tget x.combined index).isNone && !x.done.contains index &&
  (tget (tgetD y.chunks index []) port).isNone

/-- The elements are a contribution that a session awaits. -/
def wantsChunk (x : Collective) (y : Session) (index port : Nat) (elems : List Word) : Bool :=
  awaitsChunk x y index port && elems.length * elemWord x.fmt == x.chunkLen index

/-- An engine of a collective stands at a fault (R133). -/
def collFault (s : State) (id : Nat) (x : Collective) (kind : Kind) (ea : Dword) : State :=
  let s := agentMiss s (x.agent s) kind ea
  { s with collectives := tput s.collectives id { x with waiting := true }, epoch := s.epoch + 1 }

/-- COMBINE_CHUNK (R275): an input delivers a chunk of a session. The local contribution is read from the collective's source, once the waves' earlier
stores of its stream are performed (R176). -/
def execCombineChunk (session index port : Nat) (elems : List Word) (s : State) : Host.Outcome State Fault Refusal :=
  match tget s.sessions session with
  | none => .next s
  | some y => match tget s.collectives y.collective with
    | none => .next s
    | some x =>
      let take (s : State) (elems : List Word) : State := if wantsChunk x y index port elems then putChunk s session index port y elems else s
      if !y.fits index then .next s
      else if port != 24 then .next (take s elems)
      else if x.waiting || !collReady s x || !y.inputs.getLsbD 24 || x.chunks ≤ index || (tget x.combined index).isSome ||
          (tget (tgetD y.chunks index []) 24).isSome then .next s
      else match collSource s x (index * x.chunk) (x.chunkLen index) with
        | .ok _ bs _ => .next (take s (wordsOf x.fmt bs))
        | .absent ea => .next (collFault s y.collective x .copyRead ea)
        | .held pa kind => .next (askLine s pa kind)
        | .away => .next (take s elems)

/-- An input of a session has not delivered a chunk for 20 µs (R278): they run from the first contribution to that chunk (DESIGN CHOICE, log 88). -/
def inputLate (s : State) (y : Session) (port index : Nat) : Bool :=
  y.inputs.getLsbD port &&
  (tget y.chunks index).any fun e => (tget e port).isNone && decide (tgetD y.began index s.clock + 20 * Config.cyclesPerUs ≤ s.clock)

/-- SESSION_INPUT_TIMEOUT (R278): the wayside processor drops the member of an input that is late with a chunk. -/
def execSessionInputTimeout (session port index : Nat) (s : State) : Host.Outcome State Fault Refusal :=
  match tget s.sessions session with
  | none => .next s
  | some y => match portPeer s.pkg port with
    | some p => if inputLate s y port index then .next (dropMember s y.collective p) else .next s
    | none => .next s

/-! ### Start (R443, R447, R448) -/

/-- The collective's bytes are added to PENDING at the start (R447). -/
def collPending (s : State) (x : Collective) : PendingDone := barrierAdd s (x.agent s) x.stream x.cls x.barrier x.destLen

/-- The collective joins those in flight (R446 to R448): with schedule 3 its owner sets a session of its switch (R561). One that reuses a COLLID makes
both undefined. -/
def joinCollective (s : State) (x : Collective) (sched : Nat) : State :=
  let same (y : Collective) : Bool := y.context == x.context && y.collid == x.collid
  let reused := s.collectives.any fun e => same e.2
  let blot (y : Collective) : Collective := if same y then { y with undefined := true, reused := true } else y
  let id := s.nextId
  let own := sched == 3 && (bitsSet x.members).headD 0 == s.pkg
  let x := { x with sched := sched, since := s.clock, undefined := x.undefined || reused, reused := reused }
  let x := { x with session := if own && !reused then some x.sessionKey else none }
  { s with nextId := id + 1, collectives := tput (tmap s.collectives fun _ y => blot y) id x
           sessions := if own && !reused then tput s.sessions x.sessionKey (x.newSession s.pkg id) else s.sessions }

/-- A collective that the firmware cannot run stops at once (R448): STOPPED with no loss; it has no bytes to write, and tells of it. -/
def stopAtOnce (s : State) (x : Collective) : State :=
  let x := { x with stopped := true, moved := true, owed := 2, since := s.clock }
  { s with nextId := s.nextId + 1, collectives := tput s.collectives s.nextId x }

/-- The switch has no entry for another session (R275). -/
def sessionsFull (s : State) (x : Collective) (sched : Nat) : Bool :=
  sched == 3 && (bitsSet x.members).headD 0 == s.pkg && decide (256 ≤ s.sessions.length)

/-- Starts a collective whose checks have passed and whose bytes are in PENDING. -/
def startCollective (s : State) (x : Collective) (sched : Nat) (inSwitch : Bool) : State :=
  if scheduleOk s x sched inSwitch then joinCollective s x sched else stopAtOnce s x

/-! ### The steps of a collective (R133, R281, R447, R561) -/

/-- The destination bytes that are undefined (R177, R283, R443, R448). -/
def Collective.freeRanges (x : Collective) : List (Nat × Nat) :=
  let from' (k : Nat) : Nat := match x.lost[k]? with | some l => l.2 * x.chunk | none => 0
  (if x.undefined then [(0, x.destLen)] else []) ++
  (if x.stopped then [(from' (x.lost.length - 1), x.destLen)] else []) ++ x.conflict ++
  (if x.kind == 2 || x.kind == 4 then x.lost.map fun l =>
      let lo := max (x.rank l.1 * x.slice) (l.2 * x.chunk)
      (lo, (x.rank l.1 + 1) * x.slice - lo)
    else [])

/-- This package has a chunk of its source to send (R561): ROOT to every member, or a member to the owner's switch. -/
def Collective.sends (x : Collective) (pkg : Nat) : Bool :=
  decide (x.sent < x.chunks) && !x.stopped && (if x.sched == 1 then x.root == pkg else x.sched == 3 && x.owner != pkg)

/-- Sends the next chunk of the source: `data` are its bytes where another package holds them. None where it must wait. -/
def sendChunk (s : State) (id : Nat) (x : Collective) (data : List Byte) : Option State :=
  let n := x.chunkLen x.sent
  let go (s : State) (bs : List Byte) (bad : List Nat) : State :=
    let y := { x with sent := x.sent + 1 }
    if x.sched == 1 then
      let s := spread s x x.cls x.sent bs (!bad.isEmpty)
      { s with collectives := tput s.collectives id
                 { y with got := tput x.got x.sent bs, bad := x.bad ++ bad.map (x.sent * x.chunk + ·) } }
    else
      let s := if isLost s x.owner then s else sendPartial s x x.owner x.sent (wordsOf x.fmt bs) x.sessionKey (!bad.isEmpty)
      { s with collectives := tput s.collectives id y }
  match collSource s x (x.sent * x.chunk) n with
  | .ok t bs bad => some (go t bs bad)
  | .absent ea => some (collFault s id x .copyRead ea)
  | .held pa kind => if (unasked s (lineOf pa) kind (.stack (homeStack pa))).isEmpty then none else some (askLine s pa kind)
  | .away => if data.length == n then some (go s data []) else none

/-- The bytes of a chunk that can be written: combined in the own switch, delivered, or, of a collective that has stopped or whose COLLID has been used
twice, undefined. -/
def Collective.known (x : Collective) (s : State) (i : Nat) : Option (List Byte) :=
  match tget x.combined i, tget x.got i with
  | some ws, _ => some (bytesOfWords x.fmt ws)
  | none, some bs => some bs
  | none, none =>
    if x.stopped || x.reused then some ((List.range (x.chunkLen i)).map fun j => Config.freeByte s.draws 620 (i * x.chunk + j)) else none

/-- How the writing of a chunk ends: all written; at an absent page; or held up by a home; with how far it has come. -/
inductive CollMoved where
  | all (s : State)
  | absent (s : State) (ea : Dword) (o : Nat)
  | hold (s : State) (pa kind o : Nat)
  deriving DecidableEq, Repr

/-- Writes bytes of the destination that start at `base`, line by line from an offset of them on. -/
def writeDest : Nat → State → Agent → Collective → List Byte → Nat → Nat → CollMoved
  | 0, s, _, _, _, _, _ => .all s
  | fuel + 1, s, a, x, bs, base, o =>
    if bs.length ≤ o then .all s
    else
      let ea := x.dst + BitVec.ofNat 64 (base + o)
      let k := min (128 - ea.toNat % 128) (bs.length - o)
      match reach s a .copyWrite k ea with
      | .absent => .absent s ea o
      | .held pa kind => .hold s pa kind o
      | .cause code => writeDest fuel (agentReport s a code 0 ea) a x bs base (o + k)
      | .ok s t => match agentPut s a x.stream x.cls ea ((bs.drop o).take k) t with
        | none => .hold s t.pa 1 o
        | some s =>
          let bad := x.bad.any fun p => decide (base + o ≤ p) && decide (p < base + o + k)
          writeDest fuel (if bad then poisonTarget s a.convoy t k else s) a x bs base (o + k)

/-- Puts a tile's bytes back, row by row. -/
def tileFrom (x : Tile) (rows cols : Nat) (bs : List Byte) : Tile :=
  { x with elems := tileElems rows cols fun i j => BitVec.ofNat 32 (leNat ((bs.drop (4 * (cols * i + j))).take 4)) }

/-- A chunk has been written. -/
def Collective.wrote (x : Collective) (i : Nat) : Collective :=
  let done := x.done ++ [i]
  { x with done := done, got := tdel x.got i, combined := if x.session.isSome then x.combined else tdel x.combined i, part := 0
           moved := (List.range x.chunks).all fun k => done.contains k }

/-- The first chunk that can be written, with its bytes. -/
def Collective.nextChunk (x : Collective) (s : State) : Option (Nat × List Byte) :=
  (List.range x.chunks).findSome? fun i => if x.done.contains i then none else (x.known s i).map fun bs => (i, bs)

/-- Writes the first chunk that can be written; none where it must wait. -/
def writeChunk (s : State) (id : Nat) (x : Collective) : Option State :=
  match x.nextChunk s with
  | none => none
  | some (i, bs) =>
    let base := i * x.chunk
    let bs := bs.mapIdx fun j b => if inRanges x.freeRanges (base + j) then Config.freeByte s.draws 621 (base + j) else b
    match x.tile with
    | some t =>
      let crew := crewKey x.convoy x.crew
      let (rows, cols) := collShape s x
      let old := tileImage (s.tile crew t) rows cols
      let s := s.setTile crew t (tileFrom (s.tile crew t) rows cols (old.take base ++ bs ++ old.drop (base + bs.length)))
      some { s with collectives := tput s.collectives id (x.wrote i) }
    | none =>
      let alone := { s with collectives := tdel s.collectives id }
      let back (s : State) (y : Collective) : State := { s with collectives := tput s.collectives id y }
      match writeDest (bs.length / 4 + 2) alone (x.agent s) x bs base x.part with
      | .all t => some (back t (x.wrote i))
      | .absent t ea o => some (back (agentMiss t (x.agent s) .copyWrite ea) { x with waiting := true, part := o })
      | .hold t pa kind o =>
        if o != x.part then some (askLine (back t { x with part := o }) pa kind)
        else if (unasked s (lineOf pa) kind (.stack (homeStack pa))).isEmpty then none else some (askLine s pa kind)

/-- Tells of losses (R283, R284): the status word first, and once it can be seen by every acquirer the LOST bit of the barrier. -/
def tellLoss (s : State) (id : Nat) (x : Collective) : Option State :=
  let a := x.agent s
  let step (s : State) : Option State := some { s with collectives := tput s.collectives id { x with owed := x.owed - 1 } }
  if x.owed == 2 then
    match putStamp s a x.stream x.cls x.status 16 x.statusWord with
    | .ok t => step t
    | .absent => some (collFault s id x .copyWrite x.status)
    | .hold pa kind => if (unasked s (lineOf pa) kind (.stack (homeStack pa))).isEmpty then none else some (askLine s pa kind)
  else if agentPackets s x.context x.pc then none
  else
    let t := cleanStack s (coreStack x.core) 4
    if backsOut t (coreStack x.core) then (if t == s then none else some t)
    else match barrierLost t a x.stream x.cls x.barrier with
      | .ok t => step t
      | .absent => some (collFault s id x .copyWrite x.barrier)
      | .hold pa kind => if (unasked s (lineOf pa) kind (.stack (homeStack pa))).isEmpty then none else some (askLine s pa kind)

/-- The end of a collective (R447): its bytes go out of PENDING as a release at pod scope. -/
def endCollective (s : State) (id : Nat) (x : Collective) : State :=
  let a := x.agent s
  withRelease s (coreStack x.core) 4 fun s1 =>
    match barrierSub s1 a x.stream x.cls x.barrier x.destLen (!x.lost.isEmpty || x.stopped) with
    | .hold pa kind => askLine s pa kind
    | .absent => collFault s id x .copyWrite x.barrier
    | .ok s3 => { s3 with
        collectives := tdel s3.collectives id
        sessions := match x.session with | some k => tdel s3.sessions k | none => s3.sessions }

/-- COLLECTIVE_COMPLETION (R281, R446, R447): the next step of a collective. It tells of losses; a chunk of its source is sent, `data` being the bytes
that another package holds of it; a chunk that is there is written; and once all have been written and committed, it completes. -/
def execCollectiveCompletion (collective : Nat) (data : List Byte) (s : State) : Host.Outcome State Fault Refusal :=
  match tget s.collectives collective with
  | none => .next s
  | some x =>
    let t := { s with epoch := s.epoch + 1, draws := s.draws + 1 }
    if x.waiting || !collReady s x then .next s
    else if x.owed != 0 then .next ((tellLoss t collective x).getD s)
    else match (if x.sends s.pkg then sendChunk t collective x data else none) with
    | some u => .next u
    | none =>
      if !x.moved then .next ((writeChunk t collective x).getD s)
      else if agentPackets s x.context x.pc then .next s
      else
        let u := endCollective t collective x
        .next (if u.collectives == s.collectives then { s with leases := u.leases, fabric := u.fabric } else u)

end Sys2Proof.Machine
end

