-- ==== Sys2Proof/Machine/Boot.lean ====
section
/-! DEFINITION. The binding (R16 to R24), reset and boot (R384), wayside images (R279, R280, R385), the loss of power (R267), and the operating points
(R387 to R389). -/

namespace Sys2Proof.Machine

/-! ### The binding (R16 to R18, R23) -/

/-- A unit: its driving front end, the sites of its west and east halves, and whether it is a composite (R17). -/
structure SlabUnit where
  fe : Nat
  west : Nat
  east : Nat
  comp : Bool
  deriving DecidableEq, Repr

/-- A part of a site of a stack is good. -/
def goodPart (bad : List Nat) (stack k : Nat) : Bool := !bad.contains (136 * stack + k)

/-- A site whose front end and both halves are good (R18, step 1). -/
def nativeSite (f : Fuses) (stack k : Nat) : Bool := goodPart f.badFront stack k && goodPart f.badWest stack k && goodPart f.badEast stack k

/-- The composite of a pair of adjacent sites (R17). -/
def composite (f : Fuses) (stack k : Nat) : Option SlabUnit :=
  if !goodPart f.badFront stack k then none
  else if goodPart f.badWest stack k && goodPart f.badEast stack (k + 1) then some { fe := k, west := k, east := k + 1, comp := true }
  else if goodPart f.badEast stack k && goodPart f.badWest stack (k + 1) then some { fe := k, west := k + 1, east := k, comp := true }
  else none

/-- The units of the remaining sites of a domain, from a site on (R18, step 2). -/
def scanSites (f : Fuses) (stack last : Nat) : Nat → Nat → List SlabUnit
  | 0, _ => []
  | n + 1, k =>
    if last < k then []
    else if nativeSite f stack k then { fe := k, west := k, east := k, comp := false } :: scanSites f stack last n (k + 1)
    else if k == last || nativeSite f stack (k + 1) then scanSites f stack last n (k + 1)
    else match composite f stack k with
      | some u => u :: scanSites f stack last (n - 1) (k + 2)
      | none => scanSites f stack last n (k + 1)

/-- The units that take the 16 positions of a domain (R18, steps 3 to 5): the scan finds them in ascending order of front end. -/
def domainUnits (f : Fuses) (stack d : Nat) : List SlabUnit := (scanSites f stack (17 * d + 16) 17 (17 * d)).take 16

/-- A binding-table entry (R23, R24) of position `i` of a domain. -/
def bindingEntry (us : List SlabUnit) (i : Nat) : Word :=
  match us[i]? with
  | none => 0
  | some u =>
    let valid (j : Nat) : Bool := decide (j < us.length)
    BitVec.ofNat 32 (pack [(31, ((List.range 4).all fun j => valid (i / 4 * 4 + j)).toNat), (30, (valid (i / 2 * 2) && valid (i / 2 * 2 + 1)).toNat),
      (29, 1), (28, u.comp.toNat), (27, 1), (16, u.fe), (8, u.west), (0, u.east)])

/-- The binding that boot builds (R18). -/
def buildBinding (f : Fuses) : Table Word :=
  (List.range 4).flatMap fun stack => (List.range 8).flatMap fun d =>
    let us := domainUnits f stack d
    (List.range 16).filterMap fun i => let w := bindingEntry us i; if w == 0 then none else some (128 * stack + 16 * d + i, w)

/-! ### Reset and boot (R384) -/

/-- The wayside image verifies (R280, R385): against the Gelsor key, which is key 4, or against an enrolled key that is not revoked.
Whether a signature verifies is a constant with no body (DESIGN CHOICE, log 15). -/
def imageOk (f : Fuses) (image : List Byte) : Bool :=
  Config.signatureOk image 4 || (List.range 4).any fun k => f.enrolled.getLsbD k && !f.revoked.getLsbD k && Config.signatureOk image k

/-- The wayside processors after boot (R384, stage 3): one whose image fails stays stopped. -/
def bootWaysides (f : Fuses) : Vector Wayside 6 :=
  ⟨((List.range 6).map fun w => { image := (f.flash[w]?).filter (imageOk f), next := none }).toArray, by simp⟩

/-- What a reset keeps: the host's memory, the fuses and flash, the agenda and the free values already drawn. -/
def afterReset (s : State) (pkg : Nat) : State :=
  { State.reset with pkg := pkg % 128, fuses := s.fuses, agenda := s.agenda, draws := s.draws, mem := s.mem.filter fun e => paRegion e.1 == 8 }

/-- PACKAGE_RESET (R384): the package boots, stage by stage. -/
def execPackageReset (boot : BootReport) (s : State) : Host.Outcome State Fault Refusal :=
  let t := afterReset s boot.package
  if !boot.firmwareOk || decide (boot.imageVersion < t.fuses.rollback) then .next (signal { t with bootState := 2, failStage := 1 } 5)
  else if !boot.memoryOk then .next (signal { t with bootState := 2, failStage := 2 } 5)
  else .next (signal { t with bootState := 1, binding := buildBinding t.fuses, waysides := bootWaysides t.fuses } 5)

/-- PACKAGE_POWER_LOSS (R267): the package stops, and its tap passes light straight through. -/
def execPackagePowerLoss (s : State) : Host.Outcome State Fault Refusal := .next { s with power := { s.power with stopped := true } }

/-! ### Wayside images (R385) -/

/-- A wayside processor. -/
def State.wayside (s : State) (w : Nat) : Wayside := vget s.waysides w { image := none, next := none }

/-- The processors named by an FWLOAD's mask have loaded their images. -/
def imagesLoaded (s : State) (c : Command) : Bool :=
  (List.range 6).all fun w => !((c.payload.headD 0).getLsbD w) || (s.wayside w).next.isNone

/-- FWLOAD commands whose images have been loaded complete (R385). -/
def finishLoads (s : State) : State :=
  match s.hostq.commands.find? fun c => c.op == 6 && c.started && imagesLoaded s c with
  | some c => postCompletion s c.seq 0 0
  | none => s

/-- WAYSIDE_IMAGE_LOAD (R385): a processor that has finished its sessions and collectives loads the image that waits for it, and resumes. -/
def execWaysideImageLoad (s : State) : Host.Outcome State Fault Refusal :=
  match (List.range 6).find? fun w => (s.wayside w).next.isSome && s.collectives.all fun e => !e.2.needs s.pkg w with
  | none => .next s
  | some w =>
    let s := { s with waysides := s.waysides.setIfInBounds w { image := (s.wayside w).next, next := none }, epoch := s.epoch + 1 }
    .next (finishLoads s)

/-! ### Operating points (R387 to R389) -/

/-- The package goes to an operating point (R387): a change pauses issue for 30 µs. -/
def setPoint (s : State) (point : Nat) : State :=
  if s.power.point == point then s
  else { s with power := { s.power with point := point, paused := some (s.clock + 30 * Config.cyclesPerUs) } }

/-- DVFS_POINT_SELECT (R387): the driver selects a point. -/
def execDvfsPointSelect (point : Nat) (s : State) : Host.Outcome State Fault Refusal :=
  .next (if 2 < point then s else setPoint { s with power := { s.power with selected := point } } point)

/-- DVFS_PAUSE_END (R387). -/
def execDvfsPauseEnd (s : State) : Host.Outcome State Fault Refusal :=
  match s.power.paused with
  | some t => .next (if t ≤ s.clock then { s with power := { s.power with paused := none }, epoch := s.epoch + 1 } else s)
  | none => .next s

/-- POWER_MEASUREMENT (R388): every 10 µs. Above PCAP the package steps down, and below point 0 it idles issue cycles; after 10 ms below 90% of
PCAP, a thousand measurements, it steps up again, to the point selected at most. It does not step above the selected point (DEDUCED, log 73). -/
def execPowerMeasurement (watts : Nat) (s : State) : Host.Outcome State Fault Refusal :=
  let p := s.power
  if p.pcap < watts then
    let s := { s with power := { p with below := 0, idle := p.idle || p.point == 0 } }
    .next (if p.point == 0 then s else setPoint s (p.point - 1))
  else if 10 * watts < 9 * p.pcap then
    if p.below + 1 < 1000 then .next { s with power := { p with below := p.below + 1 } }
    else if p.idle then .next { s with power := { p with below := 0, idle := false } }
    else
      let s := { s with power := { p with below := 0 } }
      .next (if p.point < p.selected then setPoint s (p.point + 1) else s)
  else .next { s with power := { p with below := 0 } }

/-- JUNCTION_TEMPERATURE (R389): at 100 °C the package is forced to point 0, at 110 °C it stops. -/
def execJunctionTemperature (celsius : Nat) (s : State) : Host.Outcome State Fault Refusal :=
  .next (if 110 ≤ celsius then { s with power := { s.power with stopped := true } } else if 100 ≤ celsius then setPoint s 0 else s)

end Sys2Proof.Machine
end

