-- ==== Sys2Proof/Machine/Store.lean ====
section
/-! DEFINITION. Stores: ST (R540, R541) and SST (R536, R537). -/

namespace Sys2Proof.Machine

/-- What holds a store or atomic back before it is performed (R114, R167, R169, R170, R467): the stall reason (R361). -/
def writeWaits (s : State) (c : Ctx) (stream : Nat) (release : Bool) (accs : List Acc) : Option Nat :=
  if acquireOut s c.key stream || storeWaits s c stream accs then
    some (if (loadsOut s c.key stream).isEmpty then 11 else 7)
  else if release && releaseWaits s c.key stream then some 11
  else if remoteFull c accs then some 12
  else none

/-- A release writes back what its scope reaches (R169, R173): at package scope or wider it waits until what the stack has written back to other
packages has committed there (R164). -/
def withClean (s : State) (c : Ctx) (scope reason : Nat) (streams : BitVec 16) (body : State → Res) : Res :=
  let stack := coreStack c.w.core
  let t := cleanStack s stack scope
  if scope < 3 || !backsOut t stack then body t
  else if t.fabric.sent.length == s.fabric.sent.length then .wait reason streams
  else .hold t reason streams

/-- The lanes of a store that wait for its lower lanes' stores to peer scratch are left to its retry (R161). -/
def laterLanes (s : State) (c : Ctx) (rest : List Acc) : State :=
  s.modWave c.key fun w => { w with retry := some { path := c.p, pc := c.path.pc, lanes := laneMask (rest.map (·.lane)), pages := [] } }

/-- A store inside a transaction goes into the write buffer (R200). -/
def txStore (s : State) (c : Ctx) (l : List LaneStore) : Res :=
  if l.any fun x => (trackedPlace s c x.1.tgt).isNone then .abort s (txCause "UNTRACKABLE")
  else match txStores s c c.w.txn l with
    | none => .abort s (txCause "WRITE_OVERFLOW")
    | some t => .next (s.modWave c.key fun w => { w with txn := { t with reads := w.txn.reads } })

/-- A store of `n` bytes in the lanes given (R541, R537): `data` gives each lane's value. -/
def doStore (s : State) (c : Ctx) (n stream scope : Nat) (release scalar : Bool) (data : Nat → Nat) (lanes : List (Nat × Dword)) : Res :=
  let pc := c.path.pc
  if streamHeld c stream then .wait (heldReason c stream) 0
  else match resolve s c .write n scalar lanes with
  | .trap t => .trap t
  | .poison a => consumePoison s c a 0
  | .held pa kind => walkWait s pa kind
  | .fault s' _ _ vas =>
    let s' := parkWave s' c.key c.p pc (retryLanes c.w c.p pc) .write vas
    if c.w.txn.depth != 0 then .abort s' (txCause "FAULT") else .stay s'
  | .ok s' accs =>
    let l : List LaneStore := accs.map fun a => (a, bytesOf n (data a.lane))
    if c.w.txn.depth != 0 then txStore s' c l
    else match writeWaits s c stream release accs with
      | some r => .wait r 0
      | none =>
        let seg := storeSegment (keyCrew c.key) accs false
        let body (t : State) : Res := match storeLanes t c stream (seg.1.map fun a => (a, bytesOf n (data a.lane))) with
          | none => homeWait t c 1 accs
          | some t => if seg.2.isEmpty then .next t else .hold (laterLanes t c seg.2) 11 0
        if release then withClean s' c (actScope scope accs) 11 0 body else body s'

/-- A lane of a register, or of a register pair, as a number. -/
def dataLane (s : State) (c : Ctx) (r : Nat) (pair : Bool) (L : Nat) : Nat :=
  (lane (regLanes s c r) L).toNat + (if pair then 2 ^ 32 * (lane (regLanes s c (r + 1)) L).toNat else 0)

/-- `st.b32` (R540, R541): it accepts every tag. -/
def execStB32 (d a : BitVec 7) (m : BitVec 1) (st : BitVec 4) (sc : BitVec 3) (o : BitVec 2) (s : State) :
    Host.Outcome State Fault Refusal :=
  run (.stB32 d a m st sc o) { kinds := 0x1C, modMask := modPlain, opnds := [opD d] ++ opAdr a m, tags := (fun c => needAdr c a m) } s fun c =>
    doStore s c 4 st.toNat sc.toNat (o == 2) false (dataLane s c ((opD d).reg c) false) (laneAddrs s c a m 4 (c.acting &&& retryLanes c.w c.p c.path.pc))

/-- `st.i64` (R540, R541): both registers of the pair are W64 or RAW. -/
def execStI64 (d a : BitVec 7) (m : BitVec 1) (st : BitVec 4) (sc : BitVec 3) (o : BitVec 2) (s : State) :
    Host.Outcome State Fault Refusal :=
  let sp : IssueSpec := {
    kinds := 0x1C, modMask := modPlain, opnds := [(opD d).group 2] ++ opAdr a m
    tags := (fun c => needGroup c ((opD d).group 2) [0xF, 0] ++ needAdr c a m) }
  run (.stI64 d a m st sc o) sp s fun c =>
    doStore s c 8 st.toNat sc.toNat (o == 2) false (dataLane s c ((opD d).reg c) true) (laneAddrs s c a m 8 (c.acting &&& retryLanes c.w c.p c.path.pc))

/-- SST (R536, R537): it acts once, whatever the active mask. -/
def sstOnce (i : Instr) (n : Nat) (d a : BitVec 6) (st : BitVec 4) (sc : BitVec 3) (o : BitVec 2) (s : State) :
    Host.Outcome State Fault Refusal :=
  run i { kinds := 0x18 } s fun c =>
    doStore s c n st.toNat sc.toNat (o == 2) true (fun _ => (c.w.sreg d.toNat).toNat) [(0, c.w.sreg a.toNat + c.off)]

/-- `sst.n8`. -/
def execSstN8 (d a : BitVec 6) (st : BitVec 4) (sc : BitVec 3) (o : BitVec 2) (s : State) : Host.Outcome State Fault Refusal :=
  sstOnce (.sstN8 d a st sc o) 1 d a st sc o s
/-- `sst.n16`. -/
def execSstN16 (d a : BitVec 6) (st : BitVec 4) (sc : BitVec 3) (o : BitVec 2) (s : State) : Host.Outcome State Fault Refusal :=
  sstOnce (.sstN16 d a st sc o) 2 d a st sc o s
/-- `sst.n32`. -/
def execSstN32 (d a : BitVec 6) (st : BitVec 4) (sc : BitVec 3) (o : BitVec 2) (s : State) : Host.Outcome State Fault Refusal :=
  sstOnce (.sstN32 d a st sc o) 4 d a st sc o s
/-- `sst.n64`. -/
def execSstN64 (d a : BitVec 6) (st : BitVec 4) (sc : BitVec 3) (o : BitVec 2) (s : State) : Host.Outcome State Fault Refusal :=
  sstOnce (.sstN64 d a st sc o) 8 d a st sc o s

end Sys2Proof.Machine
end

