-- ==== Sys2Proof/Machine/Groups.lean ====
section
/-! DEFINITION. Group membership: GJOIN, GLEAVE (R50 to R52, R480); extended-register grants: RACQ, RREL (R59, R219, R517); scratch
queues: QPUSH, QPOP (R217, R218, R516). -/

namespace Sys2Proof.Machine

/-! ### Groups -/

/-- `gjoin g` (R51, R480). -/
def execGjoin (g : BitVec 4) (s : State) : Host.Outcome State Fault Refusal :=
  run (.gjoin g) { inTx := false } s fun c => .next (s.modWave c.key fun w => { w with groups := w.groups ||| (1#16 <<< g.toNat) })

/-- `gleave g` (R51, R480). A wave whose own path is stalled at a joint instruction has no other path that could issue it (R52). -/
def execGleave (g : BitVec 4) (s : State) : Host.Outcome State Fault Refusal :=
  run (.gleave g) { inTx := false } s fun c => .next (s.modWave c.key fun w => { w with groups := w.groups &&& ~~~(1#16 <<< g.toNat) })

/-! ### Extended registers -/

/-- The register file of a wave that has been granted a block (R59): v128 to v255 hold undefined values with tag RAW. -/
def grantedRegs (w : Wave) : Vector VReg 256 :=
  w.vregs.mapIdx fun n r => if 128 ≤ n then { VReg.zero with undef := BitVec.allOnes 128 } else r

/-- A free block goes to a wave (R59): a change of its crew's pool line (R219). -/
def takeBlock (s : State) (k : Nat) : State :=
  let s := { s with crews := tmod s.crews (keyCrewKey k) fun x => { x with poolFree := x.poolFree - 1 } }
  let s := s.modWave k fun w => { w with grant := true, vregs := grantedRegs w }
  markChanged s (some k) (poolPlace (keyCrewKey k))

/-- `racq pD` (R59, R219, R517). -/
def execRacq (d : BitVec 3) (s : State) : Host.Outcome State Fault Refusal :=
  run (.racq d) {} s fun c =>
    let r := if c.w.txn.depth == 0 then (s, false) else addRead s c.key (poolPlace (keyCrewKey c.key))
    if r.2 then .abort r.1 (txCause "READ_OVERFLOW")
    else
      let put (s : State) (x : Word) : State := s.modWave c.key fun w => w.setPreg d.toNat x
      if c.w.grant then .next (put r.1 0xFFFFFFFF)
      else if (s.crew (keyCrewKey c.key)).poolFree == 0 then .next (put r.1 0)
      else .next (put (takeBlock r.1 c.key) 0xFFFFFFFF)

/-- `rrel` (R59, R517). -/
def execRrel (s : State) : Host.Outcome State Fault Refusal := run .rrel { inTx := false } s fun c => .next (returnGrant s c.key)

/-! ### Scratch queues -/

/-- The fields of a queue descriptor (R217): where it lies, and what it holds. -/
structure Queue where
  crew : Nat
  off : Nat
  head : Nat
  capl : Nat
  ring : Nat
  tail : Nat
  deriving DecidableEq, Repr

/-- Reads the descriptor at an offset of a crew's scratch (R217). -/
def readQueue (s : State) (convoy crew off : Nat) : Queue :=
  let b (o n : Nat) : Nat := readNat (s.crew (crewKey convoy crew)).scratch (off + o) n
  { crew := crew, off := off, head := b 0 4, capl := b 4 1, ring := b 8 4, tail := b 128 4 }

/-- The queue's capacity is legal and its ring lies wholly within the crew's scratch (R217).
A RING that is no multiple of 4 counts as malformed (DEDUCED, log 57). -/
def Queue.ok (q : Queue) (size : Nat) : Bool := decide (q.capl ≤ 12) && q.ring % 4 == 0 && decide (q.ring + 4 * 2 ^ q.capl ≤ size)

/-- The offset of the ring slot of a count. -/
def Queue.slot (q : Queue) (n : Nat) : Nat := q.ring + 4 * (n % 2 ^ q.capl)

/-- The effective address of an offset in a crew's scratch (R106). -/
def scratchEa (crew off : Nat) : Dword := BitVec.ofNat 64 (0xF0 * 2 ^ 56 + crew * 2 ^ 24 + off)

/-- Writes bytes of a crew's scratch for the issuing wave. -/
def queueWrite (s : State) (c : Ctx) (crew off : Nat) (bs : List Byte) : State :=
  noteCopies (writeScratch s (some c.key) (crewKey (keyConvoy c.key) crew) off bs) c (scratchEa crew off) bs.length

/-- A malformed queue (R217): the predicate, the scalar, the descriptor and what lies of the ring in the scratch become undefined. -/
def queueUndefined (s : State) (c : Ctx) (q : Queue) (d v : Nat) : State :=
  let size := (s.crew (crewKey (keyConvoy c.key) q.crew)).scratchSize
  let free (site n : Nat) : List Byte := (List.range n).map fun i => Config.freeByte s.draws site i
  let s := queueWrite s c q.crew q.off (free 710 256)
  let s := queueWrite s c q.crew q.ring (free 711 (min (size - q.ring) (4 * 2 ^ q.capl)))
  s.modWave c.key fun w => (w.setPreg d (Config.freeWord s.draws 712 0)).setSreg v (Config.freeDword s.draws 713)

/-- What a queue operation finds (R218): its queue, or the trap of its checks; `slotOf` is the ring slot that it touches. -/
def findQueue (s : State) (c : Ctx) (ea : Dword) (slotOf : Queue → Option Nat) : Except Trap Queue :=
  match firstCause s c [(ea, 256, 128, .scratch)] with
  | some t => .error t
  | none => match decodeEa (keyCrew c.key) ea with
    | .scratch k off =>
      let q := readQueue s (keyConvoy c.key) k off
      let size := (s.crew (crewKey (keyConvoy c.key) k)).scratchSize
      let slot := if q.ok size then (slotOf q).toList.map (· / 128) else []
      match ([off / 128, off / 128 + 1] ++ slot).findSome? fun l => windowCause s (keyConvoy c.key) k (keyCrew c.key) l true with
      | some code => .error (Trap.mk' code ea)
      | none => .ok q
    | _ => .error (Trap.mk' 0x08 ea)

/-- A line that a queue operation reads is poisoned (R340). -/
def queuePoison (s : State) (c : Ctx) (q : Queue) (slot : Option Nat) : Bool :=
  ([q.off / 128, q.off / 128 + 1] ++ slot.toList.map (· / 128)).any fun l =>
    s.poisoned.contains (scratchPoison (crewKey (keyConvoy c.key) q.crew) l)

/-- The slot that a push writes: none where the queue is full (R218). -/
def Queue.pushSlot (q : Queue) : Option Nat := if 2 ^ q.capl ≤ (q.tail + 2 ^ 32 - q.head) % 2 ^ 32 then none else some (q.slot q.tail)

/-- The slot that a pop reads: none where the queue is empty (R218). -/
def Queue.popSlot (q : Queue) : Option Nat := if q.tail == q.head then none else some (q.slot q.head)

/-- A queue operation on a peer crew's scratch counts one remote store for each line that it touches, until it is acknowledged (R114, R160). -/
def countQueue (s : State) (c : Ctx) (q : Queue) (slot : Nat) : State :=
  if q.crew == keyCrew c.key then s
  else countPeer s c 0 1 4 false ((dedup [q.off / 128, q.off / 128 + 1, slot / 128]).map fun l => (q.crew, l))

/-- The count of remote stores has room for a queue operation (R114). -/
def queueFull (c : Ctx) (q : Queue) : Bool := q.crew != keyCrew c.key && decide (0xFFFF < c.w.remoteStores.toNat + 3)

/-- `qpush pD, sQ, sV` (R218, R516): a release at cluster scope in stream 0. -/
def execQpush (d : BitVec 3) (q v : BitVec 6) (s : State) : Host.Outcome State Fault Refusal :=
  run (.qpush d q v) { inTx := false, onePath := true } s fun c =>
    match findQueue s c (c.w.sreg q.toNat) Queue.pushSlot with
    | .error t => .trap t
    | .ok x =>
      if streamHeld c 0 then .wait (heldReason c 0) 0
      else if releaseWaits s c.key 0 then .wait 11 0
      else if queueFull c x then .wait 12 0
      else if queuePoison s c x none then consumePoison s c (c.w.sreg q.toNat) 0
      else if !x.ok (s.crew (crewKey (keyConvoy c.key) x.crew)).scratchSize then .next (queueUndefined s c x d.toNat v.toNat)
      else match x.pushSlot with
        | none => .next (s.modWave c.key fun w => w.setPreg d.toNat 0)
        | some slot =>
          let s := queueWrite s c x.crew slot (bytesOf 4 ((c.w.sreg v.toNat).toNat % 2 ^ 32))
          let s := queueWrite s c x.crew (x.off + 128) (bytesOf 4 ((x.tail + 1) % 2 ^ 32))
          let s := countQueue s c x slot
          .next (s.modWave c.key fun w => w.setPreg d.toNat 0xFFFFFFFF)

/-- `qpop pD, sQ, sV` (R218, R516): an acquire at cluster scope in stream 0. -/
def execQpop (d : BitVec 3) (q v : BitVec 6) (s : State) : Host.Outcome State Fault Refusal :=
  run (.qpop d q v) { inTx := false, onePath := true } s fun c =>
    match findQueue s c (c.w.sreg q.toNat) Queue.popSlot with
    | .error t => .trap t
    | .ok x =>
      let acquired (s : State) : State := acquireFor s c.key c.w.core 1
      if streamHeld c 0 then .wait (heldReason c 0) 0
      else if acquireOut s c.key 0 || !(loadsOut s c.key 0).isEmpty then .wait 7 0
      else if !(scratchOut s c.key 0).isEmpty then .wait 11 0
      else if queueFull c x then .wait 12 0
      else if queuePoison s c x x.popSlot then consumePoison s c (c.w.sreg q.toNat) 0
      else if !x.ok (s.crew (crewKey (keyConvoy c.key) x.crew)).scratchSize then .next (acquired (queueUndefined s c x d.toNat v.toNat))
      else match x.popSlot with
        | none => .next (acquired (s.modWave c.key fun w => w.setPreg d.toNat 0))
        | some slot =>
          let e := readNat (s.crew (crewKey (keyConvoy c.key) x.crew)).scratch slot 4
          let s := queueWrite s c x.crew x.off (bytesOf 4 ((x.head + 1) % 2 ^ 32))
          let s := countQueue s c x slot
          .next (acquired (s.modWave c.key fun w => (w.setPreg d.toNat 0xFFFFFFFF).setSreg v.toNat (BitVec.ofNat 64 e)))

end Sys2Proof.Machine
end

