-- ==== Sys2Proof/Machine/Atomic.lean ====
section
/-! DEFINITION. Atomics: ATOM (R425 to R428) and RED (R518, R519), in every location (R158, R166, R181). -/

namespace Sys2Proof.Machine

/-! ### The operation (R425, R407) -/

/-- The new value of an atomic, 0 ADD to 9 CAS, on `n` bytes: the old value, the data and the comparand. A float operation rounds
RNE, keeps subnormals and gives the canonical NaN. -/
def atomNew (op n : Nat) (float : Bool) (old d c : Nat) : Nat :=
  let w := 8 * n
  let i (x : Nat) : Int := signedNat w x
  let f (x : Nat) : FVal := readF .f32 false x
  if float && op == 0 then writeF .f32 0 false false (FVal.add 0 (f old) (f d))
  else if float && op == 1 then writeF .f32 0 false false (FVal.min (f old) (f d))
  else if float && op == 2 then writeF .f32 0 false false (FVal.max (f old) (f d))
  else if op == 0 then (old + d) % 2 ^ w
  else if op == 1 then (if i d < i old then d else old)
  else if op == 2 then (if i old < i d then d else old)
  else if op == 3 then min old d
  else if op == 4 then max old d
  else if op == 5 then old &&& d
  else if op == 6 then old ||| d
  else if op == 7 then old ^^^ d
  else if op == 8 then d
  else if old == c then d else old

/-- The 4-byte tags that an operation accepts (R425). -/
def atomTags (op : Nat) : List (BitVec 4) :=
  if op == 0 then [4, 5, 0, 1] else if op == 1 || op == 2 then [4, 0, 1] else if op == 3 || op == 4 then [5, 0] else anyTag

/-- An atomic as it is issued. -/
structure AtomOp where
  op : Nat
  bytes : Nat
  float : Bool
  stream : Nat
  scope : Nat
  deriving DecidableEq, Repr

/-! ### Performing it -/

/-- An atomic on memory of this package (R146, R158, R166): at the home for host memory, and for non-coherent memory at package
scope or wider, once the issuing stack has written its dirty bytes back and dropped the line; else in the issuing stack's
copy. None where the home holds it. The old value is returned. -/
def atomMem (s : State) (writer : Nat) (core pa cache : Nat) (a : AtomOp) (d c : Nat) : Option (State × Nat) :=
  let line := lineOf pa
  let stack := coreStack core
  let atHome := isSoftware s pa && (paRegion pa == 8 || cache != 0 || decide (3 ≤ a.scope))
  if isSwitching s pa then none
  else if atHome then
    let s := cleanCopy s line stack
    let s := if isHome s stack pa then dropL1 s line fun x => coreStack x == stack else dropCopy s line stack
    let old := leNat ((List.range a.bytes).map fun i => homeByte s (pa + i))
    some (agentWrite s (some writer) pa (bytesOf a.bytes (atomNew a.op a.bytes a.float old d c)), old)
  else
    match touchWrite s core pa cache with
    | none => none
    | some s =>
      let s := dropL1 s line (· == core)
      let old := leNat ((List.range a.bytes).map fun i => viewByte s core (pa + i) cache)
      (storeMem s (some writer) core pa cache (bytesOf a.bytes (atomNew a.op a.bytes a.float old d c))).map fun s => (s, old)

/-- An atomic on another package's line that is performed in the issuing stack's copy: of a line that software manages, at a scope narrower than
the package (R166). -/
def atomHere (s : State) (core scope : Nat) : Target → Bool
  | .mem pa cache => cache == 0 && decide (scope < 3) && writeLeased s core pa && !lineCoherent s pa
  | _ => false

/-- Such an atomic. The old value is returned. -/
def atomCopy (s : State) (core pa : Nat) (a : AtomOp) (d c : Nat) : State × Nat :=
  let old := leNat ((List.range a.bytes).map fun i => viewByte s core (pa + i) 0)
  (storeLeased s core pa (bytesOf a.bytes (atomNew a.op a.bytes a.float old d c)), old)

/-- An atomic on a crew's scratch, performed at the owning core. -/
def atomScratch (s : State) (writer crew off : Nat) (op n : Nat) (float : Bool) (d c : Nat) : State × Nat :=
  let old := readNat (s.crew crew).scratch off n
  (writeScratch s (some writer) crew off (bytesOf n (atomNew op n float old d c)), old)

/-- The lanes of an atomic that a peer's window refuses, with the cause (R112). -/
def refusedLanes (s : State) (x : Ctx) (accs : List Acc) : List (Acc × Nat) :=
  accs.filterMap fun y => match y.tgt with
    | .scratch k off =>
      if k == keyCrew x.key then none
      else (windowCause s (keyConvoy x.key) k (keyCrew x.key) (off / 128) true).map fun cause => (y, cause)
    | _ => none

/-- The reports of an ATOM's lanes that peer windows refuse: the check takes the lanes in one window together, so each window gives one report
(R112, R428). -/
def refusedReports (s : State) (x : Ctx) (accs : List Acc) : State :=
  let bad := refusedLanes s x accs
  (dedup (bad.map fun y => y.1.ea.toNat / 128)).foldl (fun s line =>
    let mine := bad.filter fun y => y.1.ea.toNat / 128 == line
    match mine.head? with
    | some y => addReport s (waveReport x y.2 0 y.1.ea (laneMask (mine.map (·.1.lane))))
    | none => s) s

/-- Performs the lanes that stay in the package, in ascending order (R427), except a RED to peer scratch, which is queued. A peer's atomic that its
window refuses is dropped, and returns an undefined value (R112, R428). -/
def atomEach (s : State) (x : Ctx) (a : AtomOp) (red : Bool) (data cmp : Nat → Nat) : List Acc → Option (State × List (Nat × Nat))
  | [] => some (s, [])
  | acc :: rest =>
    let L := acc.lane
    let next (s : State) (old : Nat) : Option (State × List (Nat × Nat)) :=
      (atomEach (noteCopies s x acc.ea a.bytes) x a red data cmp rest).map fun r => (r.1, (L, old) :: r.2)
    match acc.tgt with
    | .scratch k off =>
      let own := keyCrew x.key
      if red && k != own then atomEach s x a red data cmp rest
      else match (if k == own then none else windowCause s (keyConvoy x.key) k own (off / 128) true) with
        | some _ =>
          (atomEach s x a red data cmp rest).map fun r =>
            (r.1, (L, (Config.freeDword (s.draws + L) 7).toNat % 2 ^ (8 * a.bytes)) :: r.2)
        | none =>
          let r := atomScratch s x.key (crewKey (keyConvoy x.key) k) off a.op a.bytes a.float (data L) (cmp L)
          next r.1 r.2
    | .mem pa cache =>
      if atomHere s x.w.core a.scope acc.tgt then (let r := atomCopy s x.w.core pa a (data L) (cmp L); next r.1 r.2)
      else if paPkg pa != s.pkg then atomEach s x a red data cmp rest
      else match atomMem s x.key x.w.core pa cache a (data L) (cmp L) with
        | none => none
        | some r => next r.1 r.2
    | _ => atomEach s x a red data cmp rest

/-- What an atomic does in the package: its refused lanes are reported, the others performed. -/
def atomLocal (s : State) (x : Ctx) (a : AtomOp) (red : Bool) (data cmp : Nat → Nat) (accs : List Acc) : Option (State × List (Nat × Nat)) :=
  atomEach (if red then s else refusedReports s x accs) x a red data cmp accs

/-- Sends the lanes that go to other packages, one packet for each line (R181, R428). -/
def atomAway (s : State) (x : Ctx) (a : AtomOp) (red : Bool) (data cmp : Nat → Nat) (accs : List Acc) : State :=
  let lines := dedup (accs.filterMap fun y => match y.tgt with
    | .mem pa _ => if paPkg pa != s.pkg && !atomHere s x.w.core a.scope y.tgt then some (lineOf pa) else none
    | _ => none)
  lines.foldl (fun s' line =>
    let mine := accs.filter fun y => match y.tgt with | .mem pa _ => lineOf pa == line | _ => false
    let items := mine.filterMap fun y => match y.tgt with
      | .mem pa _ => some (pa, BitVec.ofNat 64 (data y.lane), BitVec.ofNat 64 (cmp y.lane))
      | _ => none
    let s' := mine.foldl (fun s' y => noteCopies s' x y.ea a.bytes) s'
    waveSend s' x a.stream (128 * line) ((mine.head?.map (·.ea)).getD 0) (laneMask (mine.map (·.lane))) red
      (.atomic a.op a.bytes a.float items)) s

/-- Peer accesses of an ATOM count until the owning core acknowledges them (R114); they have been performed. -/
def atomCount (s : State) (x : Ctx) (a : AtomOp) (accs : List Acc) : State :=
  countPeer s x a.stream (a.op + 1) a.bytes a.float (peerLines (keyCrew x.key) accs)

/-- The body of ATOM and RED. A RED's lanes follow each other as a store's do where some go to peer scratch (R519, R161). -/
def doAtom (s : State) (x : Ctx) (a : AtomOp) (red release acquire : Bool) (dreg : Nat) (data cmp : Nat → Nat)
    (lanes : List (Nat × Dword)) : Res :=
  let pc := x.path.pc
  if streamHeld x a.stream then .wait (heldReason x a.stream) 0
  else match resolve s x .atomic a.bytes false lanes with
  | .trap t => .trap t
  | .poison ea => consumePoison s x ea 0
  | .held pa kind => walkWait s pa kind
  | .fault s' _ _ vas => .stay (parkWave s' x.key x.p pc (retryLanes x.w x.p pc) .atomic vas)
  | .ok s' accs =>
    let lost := accs.filter fun y => match y.tgt with | .mem pa _ => y.tgt.foreign s && isLost s (paPkg pa) | _ => false
    match writeWaits s x a.stream release accs with
    | some r => .wait r 0
    | none =>
      if loadWaits s x a.stream accs then .wait (if loadReason s x a.stream accs == 7 then 7 else 11) 0
      else if leasedDirty s accs then .wait 31 0
      else
        let s' := if red then s' else checkReads s' x accs
        let bad := accs.filter fun y => readsPoison s' (keyConvoy x.key) y.tgt
        if !red && !(bad ++ lost).isEmpty then
          consumePoison s' x (firstEa (bad ++ lost) fun _ => true) (laneMask ((bad ++ lost).map (·.lane)))
        else
          let scope := actScope a.scope accs
          let seg := if red then storeSegment (keyCrew x.key) accs false else (accs, [])
          let accs := seg.1
          let body (s' : State) : Res := match atomLocal s' x { a with scope := scope } red data cmp accs with
          | none => homeWait s' x 1 accs
          | some (s', olds) =>
            let s' := atomAway s' x { a with scope := scope } red data cmp accs
            if red then
              let s' := sendPeer s' x a.stream (a.op + 1) a.bytes a.float (accs.map fun y => (y, BitVec.ofNat 64 (data y.lane)))
              if seg.2.isEmpty then .next s' else .hold (laterLanes s' x seg.2) 11 0
            else
              let away := accs.filter fun y => y.tgt.foreign s && !atomHere s x.w.core scope y.tgt
              let op : LoadOp := { bytes := a.bytes, scalar := false, stream := a.stream, scope := a.scope, acquire := acquire,
                                   dest := .atomic dreg (a.bytes == 8) }
              let s' := atomCount s' x a accs
              let s' := s'.modWave x.key fun w => if olds.isEmpty then w else w.loaded op.dest olds
              let s' := sendLoads s' x op away
              .next (if acquire && away.isEmpty then acquireFor s' x.key x.w.core scope else s')
          if release then withClean s' x scope 11 0 body else body s'

/-! ### ATOM and RED -/

/-- ATOM and RED: the width is that of DV's tag (R407). DV, and for CAS the register or pair after it, lie in one group (R426). -/
def atomLanes (i : Instr) (op : Nat) (atom : Bool) (d a : BitVec 7) (m : BitVec 1) (st : BitVec 4) (sc : BitVec 3) (o : BitVec 2)
    (s : State) : Host.Outcome State Fault Refusal :=
  let wide := match issueCtx s with
    | some c => (c.w.vreg ((opD d).reg c)).tag == 0xF
    | none => false
  let tag : BitVec 4 := match issueCtx s with
    | some c => (c.w.vreg ((opD d).reg c)).tag
    | none => 0
  let unit := if wide then 2 else 1
  let regs := if op == 9 then 2 * unit else unit
  let sp : IssueSpec := {
    kinds := 0x1C, modMask := modPlain, opnds := [(opD d).group regs] ++ opAdr a m, inTx := false
    tags := (fun c => need c (opD d) (atomTags op ++ [0xF]) ++ needAdr c a m)
    fields := (fun _ => decide (d.toNat + regs ≤ 128)) }
  run i sp s fun c =>
    let r := (opD d).reg c
    let n := 4 * unit
    doAtom s c { op := op, bytes := n, float := tag == 1 && decide (op ≤ 2), stream := st.toNat, scope := sc.toNat } (!atom)
      (o.getLsbD 1) (atom && o.getLsbD 0) r (dataLane s c r wide) (dataLane s c (r + unit) wide) (laneAddrs s c a m n (c.acting &&& retryLanes c.w c.p c.path.pc))

/-- `atom.add`. -/
def execAtomAdd (d a : BitVec 7) (m : BitVec 1) (st : BitVec 4) (sc : BitVec 3) (o : BitVec 2) (s : State) :
    Host.Outcome State Fault Refusal := atomLanes (.atomAdd d a m st sc o) 0 true d a m st sc o s
/-- `atom.smin`. -/
def execAtomSmin (d a : BitVec 7) (m : BitVec 1) (st : BitVec 4) (sc : BitVec 3) (o : BitVec 2) (s : State) :
    Host.Outcome State Fault Refusal := atomLanes (.atomSmin d a m st sc o) 1 true d a m st sc o s
/-- `atom.smax`. -/
def execAtomSmax (d a : BitVec 7) (m : BitVec 1) (st : BitVec 4) (sc : BitVec 3) (o : BitVec 2) (s : State) :
    Host.Outcome State Fault Refusal := atomLanes (.atomSmax d a m st sc o) 2 true d a m st sc o s
/-- `atom.umin`. -/
def execAtomUmin (d a : BitVec 7) (m : BitVec 1) (st : BitVec 4) (sc : BitVec 3) (o : BitVec 2) (s : State) :
    Host.Outcome State Fault Refusal := atomLanes (.atomUmin d a m st sc o) 3 true d a m st sc o s
/-- `atom.umax`. -/
def execAtomUmax (d a : BitVec 7) (m : BitVec 1) (st : BitVec 4) (sc : BitVec 3) (o : BitVec 2) (s : State) :
    Host.Outcome State Fault Refusal := atomLanes (.atomUmax d a m st sc o) 4 true d a m st sc o s
/-- `atom.and`. -/
def execAtomAnd (d a : BitVec 7) (m : BitVec 1) (st : BitVec 4) (sc : BitVec 3) (o : BitVec 2) (s : State) :
    Host.Outcome State Fault Refusal := atomLanes (.atomAnd d a m st sc o) 5 true d a m st sc o s
/-- `atom.or`. -/
def execAtomOr (d a : BitVec 7) (m : BitVec 1) (st : BitVec 4) (sc : BitVec 3) (o : BitVec 2) (s : State) :
    Host.Outcome State Fault Refusal := atomLanes (.atomOr d a m st sc o) 6 true d a m st sc o s
/-- `atom.xor`. -/
def execAtomXor (d a : BitVec 7) (m : BitVec 1) (st : BitVec 4) (sc : BitVec 3) (o : BitVec 2) (s : State) :
    Host.Outcome State Fault Refusal := atomLanes (.atomXor d a m st sc o) 7 true d a m st sc o s
/-- `atom.exch`. -/
def execAtomExch (d a : BitVec 7) (m : BitVec 1) (st : BitVec 4) (sc : BitVec 3) (o : BitVec 2) (s : State) :
    Host.Outcome State Fault Refusal := atomLanes (.atomExch d a m st sc o) 8 true d a m st sc o s
/-- `atom.cas`. -/
def execAtomCas (d a : BitVec 7) (m : BitVec 1) (st : BitVec 4) (sc : BitVec 3) (o : BitVec 2) (s : State) :
    Host.Outcome State Fault Refusal := atomLanes (.atomCas d a m st sc o) 9 true d a m st sc o s
/-- `red.add`. -/
def execRedAdd (d a : BitVec 7) (m : BitVec 1) (st : BitVec 4) (sc : BitVec 3) (o : BitVec 2) (s : State) :
    Host.Outcome State Fault Refusal := atomLanes (.redAdd d a m st sc o) 0 false d a m st sc o s
/-- `red.smin`. -/
def execRedSmin (d a : BitVec 7) (m : BitVec 1) (st : BitVec 4) (sc : BitVec 3) (o : BitVec 2) (s : State) :
    Host.Outcome State Fault Refusal := atomLanes (.redSmin d a m st sc o) 1 false d a m st sc o s
/-- `red.smax`. -/
def execRedSmax (d a : BitVec 7) (m : BitVec 1) (st : BitVec 4) (sc : BitVec 3) (o : BitVec 2) (s : State) :
    Host.Outcome State Fault Refusal := atomLanes (.redSmax d a m st sc o) 2 false d a m st sc o s
/-- `red.umin`. -/
def execRedUmin (d a : BitVec 7) (m : BitVec 1) (st : BitVec 4) (sc : BitVec 3) (o : BitVec 2) (s : State) :
    Host.Outcome State Fault Refusal := atomLanes (.redUmin d a m st sc o) 3 false d a m st sc o s
/-- `red.umax`. -/
def execRedUmax (d a : BitVec 7) (m : BitVec 1) (st : BitVec 4) (sc : BitVec 3) (o : BitVec 2) (s : State) :
    Host.Outcome State Fault Refusal := atomLanes (.redUmax d a m st sc o) 4 false d a m st sc o s
/-- `red.and`. -/
def execRedAnd (d a : BitVec 7) (m : BitVec 1) (st : BitVec 4) (sc : BitVec 3) (o : BitVec 2) (s : State) :
    Host.Outcome State Fault Refusal := atomLanes (.redAnd d a m st sc o) 5 false d a m st sc o s
/-- `red.or`. -/
def execRedOr (d a : BitVec 7) (m : BitVec 1) (st : BitVec 4) (sc : BitVec 3) (o : BitVec 2) (s : State) :
    Host.Outcome State Fault Refusal := atomLanes (.redOr d a m st sc o) 6 false d a m st sc o s
/-- `red.xor`. -/
def execRedXor (d a : BitVec 7) (m : BitVec 1) (st : BitVec 4) (sc : BitVec 3) (o : BitVec 2) (s : State) :
    Host.Outcome State Fault Refusal := atomLanes (.redXor d a m st sc o) 7 false d a m st sc o s

end Sys2Proof.Machine
end

