-- ==== Sys2Proof/Machine/Control.lean ====
section
/-! DEFINITION. Control instructions: uniform branches (R432 to R437, R524), divergent branches and reconvergence (R41 to R46, R523), TRAP,
TRAMP, TOOL, BKPT (R431, R344, R346, R552), NOP, YIELD (R506, R560), EXT (R70, R71, R456), and words that no instruction has (R402). -/

namespace Sys2Proof.Machine

/-! ### Uniform branches -/

/-- A target a signed number of words from the path's instruction (R406, R432). -/
def wordsAway {n : Nat} (c : Ctx) (o : BitVec n) : Dword := c.path.pc + (o.signExtend 64 <<< 2)

/-- `br label` (R432). -/
def execBr (o : BitVec 18) (s : State) : Host.Outcome State Fault Refusal :=
  run (.br o) {} s fun c => .jump s (wordsAway c o)

/-- `brc` (R432): the condition is that of MODE over the path's acting lanes. -/
def execBrc (p m : BitVec 3) (o : BitVec 18) (s : State) : Host.Outcome State Fault Refusal :=
  run (.brc p m o) {} s fun c =>
    if branchTaken m.toNat (c.w.preg p.toNat) c.acting then .jump s (wordsAway c o) else .next s

/-- A branch to an address in a register: a misaligned one traps and the path does not branch (R435, R436, R524). -/
def branchTo (c : Ctx) (s : State) (t : Dword) : Res :=
  if t.toNat % 4 != 0 then .trap { Trap.mk' 0x06 t with lanes := some c.active } else .jump s t

/-- `brx sA` (R435). -/
def execBrx (a : BitVec 6) (s : State) : Host.Outcome State Fault Refusal :=
  run (.brx a) {} s fun c => branchTo c s (c.w.sreg a.toNat)

/-- CALL: the target is read before s63 is written (R436). -/
def callTo (s : State) (c : Ctx) (t : Dword) : Res := branchTo c (s.modWave c.key fun w => w.setSreg 63 (c.path.pc + 4)) t

/-- `call label` (R436). -/
def execCall (o : BitVec 18) (s : State) : Host.Outcome State Fault Refusal :=
  run (.call o) {} s fun c => callTo s c (wordsAway c o)

/-- `call sA` (R436). -/
def execCallIndirect (a : BitVec 6) (s : State) : Host.Outcome State Fault Refusal :=
  run (.callIndirect a) {} s fun c => callTo s c (c.w.sreg a.toNat)

/-- `ret` (R524). -/
def execRet (s : State) : Host.Outcome State Fault Refusal := run .ret {} s fun c => branchTo c s (c.w.sreg 63)

/-! ### Divergent branch and rejoin -/

/-- Pushes an entry on a strand's stack; a full stack first loses its empty entries (R45). -/
def Strand.push (x : Strand) (e : Deferred) : Strand :=
  let es := if x.depth.toNat == 4 then x.entries.filter fun y => y.mask != 0 else x.entries
  let es := es ++ [e]
  { x with depth := BitVec.ofNat 3 es.length, stack := Vector.ofFn fun i : Fin 4 => es.getD i.val Deferred.empty }

/-- Pops a strand's top entry. -/
def Strand.pop (x : Strand) : Strand :=
  { x with depth := x.depth - 1, stack := x.stack.setIfInBounds (x.depth.toNat - 1) Deferred.empty }

/-- The top entry of a strand's stack. -/
def Strand.top (x : Strand) : Option Deferred :=
  if x.depth = 0 then none else some (vget x.stack (x.depth.toNat - 1) Deferred.empty)

/-- What BRD does to a strand (R43): the strand, its next PC; an empty entry at the top is popped first (R45). -/
def brdStrand (x : Strand) (cond : BitVec 4) (pc target : Dword) : Strand × Dword :=
  let x := Strand.popEmpty 4 x
  let t := x.active &&& cond
  let n := x.active &&& ~~~cond
  if t == 0 then (x, pc + 4)
  else if n == 0 then (x, target)
  else ({ (x.push { mask := t, pc := target }) with active := n }, pc + 4)

/-- What REJOIN does to a strand (R44); an empty entry that reaches the top is popped (R45). -/
def rejoinStrand (x : Strand) (pc named : Dword) : Strand × Dword :=
  let x := Strand.popEmpty 4 x
  match x.top with
  | none => (x, pc + 4)
  | some e =>
    if e.pc == (pc ||| 1) then (Strand.popEmpty 4 { x.pop with active := x.active ||| e.mask }, pc + 4)
    else if e.pc == named then ({ (x.pop.push { mask := x.active, pc := pc ||| 1 }) with active := e.mask }, named)
    else (x, pc + 4)

/-- A path whose strands go their ways by `f` (R42): the latches are lost where the path splits or an active mask changes (R68). -/
def splitBy (s : State) (c : Ctx) (f : Nat → Strand → Strand × Dword) : Res :=
  .whole (s.modWave c.key fun w =>
    let ks := bitsSet (w.div.path c.p).mask
    let outs := ks.map fun k => (k, f k (w.div.strand k))
    let lost := outs.any fun o => o.2.1.active != (w.div.strand o.1).active
    let d := outs.foldl (fun d o => d.setStrand o.1 o.2.1) w.div
    let d := d.split c.p (outs.map fun o => (o.1, o.2.2)) (c.path.pc + 4) lost (s.epoch + 1)
    { w with div := d.setPath c.p (d.path c.p).stepped, retry := w.retryAfter c.p })

/-- `brd` (R43): the predicate is read once for each lane. -/
def brdWith (s : State) (c : Ctx) (q : Word) (o : BitVec 18) : Res :=
  splitBy s c fun k x => brdStrand x (strandLanes q k) c.path.pc (wordsAway c o)

/-- `brd pN, label` (R41, R43). -/
def execBrd (p : BitVec 3) (o : BitVec 18) (s : State) : Host.Outcome State Fault Refusal :=
  run (.brd p o) { inTx := false } s fun c => brdWith s c (c.w.preg p.toNat) o

/-- `brd.not pN, label` (R41, R43). -/
def execBrdNot (p : BitVec 3) (o : BitVec 18) (s : State) : Host.Outcome State Fault Refusal :=
  run (.brdNot p o) { inTx := false } s fun c => brdWith s c (~~~c.w.preg p.toNat) o

/-- `rejoin` (R44). -/
def execRejoin (o : BitVec 18) (s : State) : Host.Outcome State Fault Refusal :=
  run (.rejoin o) { inTx := false } s fun c => splitBy s c fun _ x => rejoinStrand x c.path.pc (wordsAway c o)

/-! ### REGANG (R46, R523) -/

/-- A path is parked at REGANG. -/
def Path.atRegang (p : Path) : Bool := p.hold == .regang

/-- Merges the paths parked at the lowest REGANG address, once every live path is parked (R46): the lowest-indexed entry goes on with
all their strands. Its latches go where another path merges into it (R68). It is halted where a path that a debugger steps merges (R354). -/
def mergeRegang (w : Wave) (stamp : Nat) : Wave :=
  let d := w.div
  let ps := d.valid
  if ps.isEmpty || !(ps.all fun p => (d.path p).atRegang) then w
  else
    let low := ps.foldl (fun (m : Nat) p => min m (d.path p).pc.toNat) (2 ^ 64)
    let group := ps.filter fun p => (d.path p).pc.toNat == low
    let keep := group.headD 0
    let mask := group.foldl (fun (m : BitVec 8) p => m ||| (d.path p).mask) 0
    let q := d.path keep
    let q := if 1 < group.length then q.dropLatches else q
    let stepping := group.any fun p => (d.path p).stepping
    let d := (group.filter (· != keep)).foldl (fun d p => d.setPath p Path.free) d
    let q : Path := { q with
      mask := mask, pc := q.pc + 4, hold := .none, readyAt := stamp, kept := false, skipBreak := false, waitedLong := false
      stepping := stepping }
    { w with div := d.setPath keep q.stepped }

/-- `regang` (R46). -/
def execRegang (s : State) : Host.Outcome State Fault Refusal :=
  run .regang { inTx := false } s fun c =>
    .whole (s.modWave c.key fun w =>
      mergeRegang { w with div := w.div.setPath c.p { w.div.path c.p with hold := .regang } } (s.epoch + 1))

/-! ### Traps on purpose -/

/-- `trap n` (R552). -/
def execTrap (n : BitVec 24) (s : State) : Host.Outcome State Fault Refusal :=
  run (.trap n) {} s fun _ => .trap { Trap.mk' 0x0E (n.setWidth 64) with nextPc := true }

/-- `bkpt` (R431). -/
def execBkpt (s : State) : Host.Outcome State Fault Refusal :=
  run .bkpt {} s fun _ => .trap { Trap.mk' 0x0D 0xFF with nextPc := true }

/-- TOOL (R346, R550): every EXT kind applies, and none is consumed. -/
def toolTrap (i : Instr) (k : Nat) (s : State) : Host.Outcome State Fault Refusal :=
  match issueCtx s with
  | none => .fault .noIssuingPath
  | some c => .next (trapIssue s c { cause := 0x14, sub := k, addr := wordOf i, lanes := none, nextPc := true })

/-- `tool 0, n`. -/
def execTool0 (n : BitVec 24) (s : State) : Host.Outcome State Fault Refusal := toolTrap (.tool0 n) 0 s
/-- `tool 1, n`. -/
def execTool1 (n : BitVec 24) (s : State) : Host.Outcome State Fault Refusal := toolTrap (.tool1 n) 1 s
/-- `tool 2, n`. -/
def execTool2 (n : BitVec 24) (s : State) : Host.Outcome State Fault Refusal := toolTrap (.tool2 n) 2 s

/-- The branch of a TRAMP to its entry (R344). -/
def trampTo (s : State) (c : Ctx) (e : Dword) : Res :=
  let s := s.modWave c.key fun w => { w with div := w.div.setPath c.p { w.div.path c.p with entry := none } }
  if e.toNat % 4 != 0 then .trapIn s { Trap.mk' 0x06 e with lanes := some c.active } else .jump s e

/-- The entry of a TRAMP lies in another package (R344): a load asks for it, and the path waits; a lost package ends the wave (R269). -/
def trampAway (s : State) (c : Ctx) (accs : List Acc) : Res :=
  let mine (l : PendingLoad) : Bool := l.wave == c.key && l.dest == .entry c.p c.path.pc
  if s.loads.any fun e => mine e.2 then .wait 7 0
  else if accs.any fun a => match a.tgt with | .mem pa _ => isLost s (paPkg pa) | _ => false then consumePoison s c (firstEa accs fun _ => true) 0
  else .hold (sendLoads s c { bytes := 8, scalar := true, stream := 0, scope := 0, acquire := false, dest := .entry c.p c.path.pc } accs) 7 0

/-- `tramp n` (R344): a translated read of the trampoline table, then a branch of the path. -/
def execTramp (n : BitVec 20) (s : State) : Host.Outcome State Fault Refusal :=
  run (.tramp n) {} s fun c =>
    match c.path.entry.filter fun e => e.1 == c.path.pc with
    | some e => trampTo s c e.2
    | none => match resolve s c .read 8 true [(0, c.conv.desc.trampBase + (n.setWidth 64 <<< 3))] with
    | .trap t => .trap t
    | .poison a => consumePoison s c a 0
    | .held pa kind => walkWait s pa kind
    | .fault s' _ _ vas =>
      let s' := parkWave s' c.key c.p c.path.pc 0xFFFFFFFF .read vas
      if c.w.txn.depth != 0 then .abort s' (txCause "FAULT") else .stay s'
    | .ok s' accs =>
      if !(awayAccs s c.w.core accs).isEmpty then trampAway s' c accs
      else if accs.any fun a => readsPoison s (keyConvoy c.key) a.tgt then consumePoison s c (firstEa accs fun _ => true) 0
      else trampTo s' c (BitVec.ofNat 64 ((accs.head?.map fun a => readAcc s' c 8 a.tgt).getD 0))

/-! ### NOP, YIELD, EXT -/

/-- `nop` (R506). -/
def execNop (s : State) : Host.Outcome State Fault Refusal := run .nop {} s fun _ => .next s

/-- `yield` (R560): it ends the selection, which the scheduler sees by its not being an ALU instruction. -/
def execYield (s : State) : Host.Outcome State Fault Refusal := run .yield {} s fun _ => .next s

/-- A payload added to the pending EXT state (R70). -/
def ExtState.add (e : ExtState) (k : Nat) (p : BitVec 20) : ExtState :=
  { kinds := e.kinds ||| (1#16 <<< k), payloads := e.payloads.setIfInBounds k p }

/-- The path goes on after an EXT, its strands keeping the pending state (R70). -/
def extNext (s : State) (c : Ctx) (k : Nat) (p : BitVec 20) : State :=
  let s := s.tick
  s.modWave c.key fun w =>
    let put (j : Nat) (x : Strand) : Strand := if c.path.mask.getLsbD j then { x with ext := x.ext.add k p } else x
    let d : Div := { w.div with strands := w.div.strands.mapIdx put }
    let q := d.path c.p
    let q : Path := { q with pc := q.pc + 4, hold := .none, readyAt := s.epoch, kept := false, skipBreak := false, waitedLong := false }
    Wave.countSkid { w with div := d.setPath c.p q.stepped, retry := w.retryAfter c.p }

/-- EXT (R70, R71, R456): a fourth one, or a KIND that is already pending, raises EXT_MISUSE; KIND 7 to 15 raises ILLEGAL_FIELD. -/
def execExt (k : BitVec 4) (p : BitVec 20) (s : State) : Host.Outcome State Fault Refusal :=
  match issueCtx s with
  | none => .fault .noIssuingPath
  | some c =>
    if c.ext.has k.toNat || 3 ≤ (bitsSet c.ext.kinds).length then
      .next (trapIssue s c (Trap.mk' 0x10 (c.ext.kinds.setWidth 64)))
    else if 7 ≤ k.toNat then .next (trapIssue s c (Trap.mk' 0x02 (wordOf (.ext k p))))
    else .next (extNext s c k.toNat p)

/-! ### Illegal words (R402, R403) -/

/-- ILLEGAL_OP (R402): it comes before every other cause. -/
def execIllegalOp (w : Word) (s : State) : Host.Outcome State Fault Refusal :=
  match issueCtx s with
  | none => .fault .noIssuingPath
  | some c => .next (trapIssue s c (Trap.mk' 0x01 (w.setWidth 64)))

/-- The opcodes of format P among those of formats A and P (R401). -/
def opIsP (op : Nat) : Bool := op == 0x5B || op == 0x5C || op == 0x71

/-- The EXT kinds that apply to an opcode (R400). -/
def opcodeKinds (op : Nat) : BitVec 7 :=
  if op == 0x2B || opIsP op then 0x17
  else if (0x20 ≤ op && op ≤ 0x2A) || op == 0x66 then 0x13
  else if 0x30 ≤ op && op ≤ 0x3A then 0x18
  else if op == 0x64 || op == 0x65 then 0x10
  else if 0x40 ≤ op && op ≤ 0x9F then 0x37
  else if (0xA0 ≤ op && op ≤ 0xBF && op != 0xAA) || op == 0xF2 then 0x1C
  else if 0xC0 ≤ op && op ≤ 0xC2 then 0x54
  else if 0xC4 ≤ op && op ≤ 0xC6 then 0x55
  else if op == 0xC8 || op == 0xD0 || op == 0xD1 then 0x10
  else if op == 0xC9 then 0x34
  else if 0x1D ≤ op && op ≤ 0x1F then 0x7F
  else 0

/-- The opcodes whose only operand select is A (R393). -/
def opOneSource (op : Nat) : Bool :=
  [0x29, 0x43, 0x4A, 0x4B, 0x5A, 0x60, 0x6E, 0x6F, 0x72, 0x73, 0x74, 0x75, 0x76, 0x77, 0x90, 0x91, 0x92].contains op

/-- Whether a word selects the EXT immediate: its A or B select is 0xFF (R400). -/
def wordSelectsImm (w : Word) : Bool :=
  let op := bits w.toNat 24 8
  let alu := (0x20 ≤ op && op ≤ 0x2B && op != 0x2A) || (0x40 ≤ op && op ≤ 0x92 && op != 0x61 && op != 0x64)
  alu && (bits w.toNat 8 8 == 0xFF || (!opOneSource op && bits w.toNat 0 8 == 0xFF))

/-- ILLEGAL_FIELD of a word whose reserved or fixed bits are wrong (R402). A pending EXT that does not apply to its opcode comes
first (R403; DEDUCED, log 35). -/
def execIllegalField (w : Word) (s : State) : Host.Outcome State Fault Refusal :=
  match issueCtx s with
  | none => .fault .noIssuingPath
  | some c =>
    let op := bits w.toNat 24 8
    let imm := c.ext.has 0 || c.ext.has 1
    let joint := decide (0xC4 ≤ op) && decide (op ≤ 0xC6)
    let misuse := (c.ext.kinds &&& ~~~((opcodeKinds op).setWidth 16)) != 0 ||
      (imm && !wordSelectsImm w && !joint) || (!imm && wordSelectsImm w)
    .next (trapIssue s c (if misuse then Trap.mk' 0x10 (c.ext.kinds.setWidth 64) else Trap.mk' 0x02 (w.setWidth 64)))

end Sys2Proof.Machine
end

