-- ==== Sys2Proof/Machine/Fences.lean ====
section
/-! DEFINITION. FENCE (R174, R175, R465 to R468), MSFENCE and MSWAIT (R184, R185, R502 to R504). -/

namespace Sys2Proof.Machine

/-- An earlier access of the wave in a stream of the mask has not been performed, or not returned (R164, R466). -/
def streamsBusy (s : State) (key : Nat) (mask : BitVec 16) : Bool := (bitsSet mask).any fun k => releaseWaits s key k

/-- FENCE (R466): it waits, then performs the cleaning and the invalidation of its scope. At core scope it orders register
instructions against aperture accesses (R61). What the wave can have observed of other agents has been performed, or
stands in its stack's copies, so that CUM adds nothing to the cleaning (R175). -/
def execFence (u : BitVec 1) (sc : BitVec 3) (k : BitVec 16) (s : State) : Host.Outcome State Fault Refusal :=
  run (.fence u sc k) { inTx := false } s fun c =>
    if ((heldStreams c) &&& k) != 0 || streamsBusy s c.key k || (decide (1 ≤ sc.toNat) && c.w.remoteStores != 0) then .wait 13 k
    else
      withClean s c sc.toNat 13 k fun s =>
        let s := acquireFor s c.key c.w.core sc.toNat
        .next (if sc.toNat == 0 then s.modWave c.key fun w => { w with apertureDirty := 0, registerDirty := 0 } else s)

/-- MSFENCE (R184): every packet of the wave's streams has arrived. -/
def execMsfence (k : BitVec 16) (s : State) : Host.Outcome State Fault Refusal :=
  run (.msfence k) { inTx := false } s fun c =>
    if ((heldStreams c) &&& k) != 0 ||
        s.fabric.sent.any fun p => p.wave == some c.key && p.stage == 0 && k.getLsbD p.packet.stream then .wait 14 k
    else .next s

/-- MSWAIT (R185): the milestone has been applied, the arrivals stamped below it have committed; then the invalidation and the horizon. -/
def execMswait (m : BitVec 6) (k : BitVec 16) (s : State) : Host.Outcome State Fault Refusal :=
  run (.mswait m k) { inTx := false } s fun c =>
    let ms := (c.w.sreg m.toNat).toNat
    if ((heldStreams c) &&& k) != 0 || decide (s.ring.applied.toNat < ms) ||
        s.fabric.arrivals.any fun a => decide (a.stamp.toNat < ms) then .wait 15 k
    else
      let s := acquireFor s c.key c.w.core 4
      .next (s.modWave c.key fun w => { w with horizon := BitVec.ofNat 64 (max w.horizon.toNat ms), named := w.named ||| k })

end Sys2Proof.Machine
end

