-- ==== Sys2Proof/Machine/Records.lean ====
section
/-! DEFINITION. The sample and event rings of a context (R357, R358, R373), code breakpoints (R351, R352), and asynchronous traps at a
wave's instruction boundary (R327, R331, R332, R355). -/

namespace Sys2Proof.Machine

/-! ### Records -/

/-- The 32 bytes of a sample or debug record about a path (R357). -/
def pathRecord (s : State) (key p kind detail stall : Nat) (issued : Bool) : Nat :=
  match tget s.waves key, tget s.convoys (keyConvoy key) with
  | some w, some v => pack [(208, s.clock % 2 ^ 48), (144, (w.div.path p).pc.toNat), (112, v.launch.toNat),
      (80, v.index.toNat % 2 ^ 32), (48, (w.div.activeLanes p).toNat), (36, v.context % 4096), (31, w.slot % 32), (28, p % 8),
      (23, stall % 32), (22, issued.toNat), (16, v.cluster % 64), (13, w.core % 8), (10, keyCrew key), (8, kind), (0, detail % 256)]
  | _, _ => 0

/-- A record has been written to a ring of a context, which is full now or not: vector 4 is signalled where it is, and after every 4,096 records
(R382). -/
def ringSignal (s : State) (ctx : Nat) (full : Bool) : State :=
  let x := s.context ctx
  let n := x.ringRecords + 1
  let s := s.setContext ctx { x with ringRecords := if 4096 ≤ n then 0 else n }
  if full || 4096 ≤ n then signal s 4 else s

/-- Writes a record into the context's event ring, or counts it as dropped (R358, R373). -/
def writeEvent (s : State) (ctx : Nat) (bits : Nat) : State :=
  let x := s.context ctx
  if x.evBase != 0 && decide (x.evWr.toNat - x.evRd.toNat < 2 ^ x.evLog) then
    let s := globalWrite s ctx 2 (x.evBase.toNat + 32 * (x.evWr.toNat % 2 ^ x.evLog)) (bytesOf 32 bits)
    ringSignal (s.setContext ctx { x with evWr := x.evWr + 1 }) ctx (decide (2 ^ x.evLog ≤ x.evWr.toNat + 1 - x.evRd.toNat))
  else s.setContext ctx { x with evDrop := x.evDrop + 1 }

/-- Writes a record into the context's sample ring, or counts it as dropped (R358, R373). -/
def writeSample (s : State) (ctx : Nat) (bits : Nat) : State :=
  let x := s.context ctx
  if x.sampBase != 0 && decide (x.sampWr.toNat - x.sampRd.toNat < 2 ^ x.sampLog) then
    let s := globalWrite s ctx 2 (x.sampBase.toNat + 32 * (x.sampWr.toNat % 2 ^ x.sampLog)) (bytesOf 32 bits)
    ringSignal (s.setContext ctx { x with sampWr := x.sampWr + 1 }) ctx (decide (2 ^ x.sampLog ≤ x.sampWr.toNat + 1 - x.sampRd.toNat))
  else s.setContext ctx { x with sampDrop := x.sampDrop + 1 }

/-! ### Breakpoints (R351, R352) -/

/-- A breakpoint's comparison of a value with its comparand. -/
def breakCmp (cmp : Nat) (x imm : Word) : Bool :=
  if cmp == 1 then x == imm else if cmp == 2 then x != imm else if cmp == 3 then x.slt imm else if cmp == 4 then !x.slt imm
  else if cmp == 5 then x.ult imm else !x.ult imm

/-- A breakpoint hits before a path issues the word at its address (R352). -/
def breakHits (b : Breakpoint) (c : Ctx) : Bool :=
  let q := b.cond.toNat
  let cmp := bits q 22 3
  let reg := bits q 12 8
  let imm : Word := BitVec.ofNat 32 (bits q 32 32)
  let lanes := bitsSet c.acting
  let scalar := b.cond.getLsbD 20
  let value (L : Nat) : Word := if scalar then (c.w.sreg (reg % 64)).setWidth 32 else lane (c.w.vreg reg).lanes L
  let test (L : Nat) : Bool := breakCmp cmp (value L) imm
  b.addr == c.path.pc && b.cond.getLsbD 27 && bits q 25 2 < 2 && cmp != 7 && bits q 0 12 == c.conv.context &&
  (cmp == 0 || (!lanes.isEmpty && (scalar || c.w.inWindow c.conv.regs reg) &&
    (if b.cond.getLsbD 21 then lanes.all test else lanes.any test)))

/-- The lowest breakpoint of the core that hits, with its action (R352); none without debug rights (R349), and none at the first
instruction after a resume (R354). -/
def breakpointHit (s : State) (c : Ctx) : Option (Nat × Nat) :=
  if !(s.context c.conv.context).rights || c.path.skipBreak then none
  else ((s.core c.w.core).breakpoints.find? fun b => breakHits b.2 c).map fun b => (b.1, bits b.2.cond.toNat 25 2)

/-- Paths that have issued the one instruction of a debugger's step are halted again, the issuing one or those that it has released from REGANG,
and their records written (R354, R357). -/
def noteStep (s : State) (c : Ctx) : State :=
  (List.range 8).foldl (fun s p => match tget s.waves c.key with
    | some w => if (w.div.path p).hold == .debug && (c.w.div.path p).hold != .debug then
        writeEvent s c.conv.context (pathRecord s c.key p 2 0 0 false) else s
    | none => s) s

/-! ### Asynchronous traps -/

/-- The wave's convoy stands on its cores. -/
def isPlaced (s : State) (key : Nat) : Bool := (tget s.convoys (keyConvoy key)).any fun v => v.residence == .placed

/-- The PC of the lowest-indexed valid path. -/
def Wave.lowPc (w : Wave) : Dword := (w.div.path (w.div.valid.headD 0)).pc

/-- A path of the wave is halted by debug. -/
def Wave.halted (w : Wave) : Bool := w.div.valid.any fun p => (w.div.path p).hold == .debug

/-- Nothing of the wave can issue: it sleeps, is parked, or each of its paths is held (R327). -/
def Wave.stalled (w : Wave) : Bool :=
  w.asleep || w.park.isSome || w.div.valid.all fun p => (w.div.path p).hold != .none

/-- The asynchronous trap that is due at the wave's next instruction boundary (R331, R332, R355), by its cause code. A
wave that stalls within its skid takes SIBLING_HALT at once (R331). -/
def asyncDue (w : Wave) : Option Nat :=
  if w.ended || w.inHandler then none
  else if w.heldReset.isSome && !w.halted then some 0x0C
  else match w.heldSibling with
    | some h => if h.left == 0 || w.stalled then some 0x12 else if w.heldReport.isSome && !w.halted then some 0x15 else none
    | none => if w.heldReport.isSome && !w.halted then some 0x15 else none

/-- TRAPSKID of an asynchronous trap (R325). -/
def skidWord (exited : Bool) (crew slot skid : Nat) : Dword :=
  BitVec.ofNat 64 (pack [(24, exited.toNat), (16, crew), (8, slot), (0, skid)])

/-- Takes the asynchronous trap that is due (R331, R332). -/
def takeDue (s : State) (key : Nat) : State :=
  match tget s.waves key with
  | none => s
  | some w =>
    let s := { s with epoch := s.epoch + 1 }
    match asyncDue w with
    | some 0x0C =>
      takeAsync (s.setWave key { w with heldReset := none }) key 0x0C 0 w.lowPc (w.heldReset.getD 0) 0 0
    | some 0x12 => match w.heldSibling with
      | some h => takeAsync (s.setWave key { w with heldSibling := none }) key 0x12 h.cause.toNat w.lowPc h.pc
          (skidWord false h.crew h.slot h.used) 0
      | none => s
    | some _ => match w.heldReport with
      | some r => takeAsync (s.setWave key { w with heldReport := none }) key 0x15 r.cause.toNat r.pc r.addr
          (skidWord (r.wave != some key) r.crew r.slot 0) r.lanes
      | none => s
    | none => s

end Sys2Proof.Machine
end

