-- ==== Sys2Proof/Machine/System.lean ====
section
/-! DEFINITION. System registers: SREAD and SWRITE (R333, R409, R539); the trap shadow: PATHRD, PATHWR, ERET (R335 to R338, R453, R508). -/

namespace Sys2Proof.Machine

/-! ### System registers -/

/-- COMMITMS (R409): the greatest M, at most the applied milestone + 1, below which every arrival has committed. -/
def commitms (s : State) : Dword :=
  s.fabric.arrivals.foldl (fun m a => if a.stamp.toNat < m.toNat then a.stamp else m) (s.ring.applied + 1)

/-- FAULTSTAT as it reads (R333): ABANDON is the convoy's. -/
def faultstatWord (w : Wave) (abandon : Bool) : Dword :=
  (w.faultstat &&& 0xFF0B#64) ||| (if abandon then 4 else 0)

/-- WAVEID (R409). -/
def waveIdWord (s : State) (c : Ctx) : Dword :=
  BitVec.ofNat 64 (pack [(0, c.w.slot % 32), (5, keyCrew c.key), (8, c.w.core % 8), (11, coreCluster c.w.core % 64), (17, s.pkg % 128),
    (24, keyIndex c.key)])

/-- The value of a system register (R409). -/
def sysReg (s : State) (c : Ctx) (r : Nat) : Dword :=
  let x := s.context c.conv.context
  if r == 0x00 then c.w.trap.cause else if r == 0x01 then c.w.trap.pc else if r == 0x02 then c.w.trap.mask
  else if r == 0x03 then c.w.trap.lanes else if r == 0x04 then c.w.trap.addr else if r == 0x05 then c.w.trap.skid
  else if r == 0x08 then c.conv.desc.handler else if r == 0x09 then c.conv.desc.trampBase else if r == 0x0A then c.conv.desc.spillBase
  else if r == 0x10 then BitVec.ofNat 64 s.clock else if r == 0x11 then s.ring.applied else if r == 0x12 then commitms s
  else if r == 0x18 then waveIdWord s c else if r == 0x19 then c.conv.index else if r == 0x1A then c.conv.launch.setWidth 64
  else if r == 0x20 then BitVec.ofNat 64 (pack [(0, c.conv.desc.bndBase % 64), (8, c.conv.desc.bndCount % 128)])
  else if r == 0x21 then faultstatWord c.w c.conv.abandon
  else if r == 0x28 then BitVec.ofNat 64 (x.rights.toNat + 2 * x.modified.toNat)
  else BitVec.ofNat 64 (x.log2n % 32)

/-- `sread sD, REG` (R539). -/
def execSread (r : BitVec 8) (d : BitVec 6) (s : State) : Host.Outcome State Fault Refusal :=
  run (.sread r d) {} s fun c => .next (s.modWave c.key fun w => w.setSreg d.toNat (sysReg s c r.toNat))

/-- `swrite REG, sA` (R333, R409, R539): every register but FAULTSTAT refuses; there, ones clear bits 0, 1 and 3. -/
def execSwrite (r : BitVec 8) (a : BitVec 6) (s : State) : Host.Outcome State Fault Refusal :=
  run (.swrite r a) {} s fun c =>
    if r != 0x21 then .trap (Trap.mk' 0x08 (r.setWidth 64))
    else .next (s.modWave c.key fun w => { w with faultstat := w.faultstat &&& ~~~(c.w.sreg a.toNat &&& 0xB) })

/-! ### The shadow's fields (R336) -/

/-- The state of a latch: its tag, and bit 4 where it is valid. -/
def Latch.state (l : Latch) : Nat := l.tag.toNat + 16 * l.valid.toNat

/-- A field of the divergence state by SEL and index (R336). -/
def shadowField (d : Div) (sel i : Nat) : Nat :=
  if sel == 0 then (d.path i).mask.toNat
  else if sel == 1 then (d.path i).pc.toNat
  else if sel == 2 then (d.strand i).live.toNat
  else if sel == 3 then (d.strand i).active.toNat
  else if sel == 4 then (d.strand i).depth.toNat
  else if sel == 5 then (vget (d.strand (i / 4)).stack (i % 4) Deferred.empty).mask.toNat
  else if sel == 6 then (vget (d.strand (i / 4)).stack (i % 4) Deferred.empty).pc.toNat
  else if sel == 7 then (d.strand i).ext.kinds.toNat
  else if sel == 8 then (vget (d.strand (i / 16)).ext.payloads (i % 16) 0).toNat
  else (vget (d.path (i / 3)).latches (i % 3) Latch.empty).state

/-- The width of a field (R336). -/
def shadowWidth (sel : Nat) : Nat :=
  if sel == 0 then 8 else if sel == 1 then 64 else if sel == 2 || sel == 3 then 4 else if sel == 4 then 3 else if sel == 5 then 4
  else if sel == 6 then 64 else if sel == 7 then 16 else if sel == 8 then 20 else 5

/-- A value fits its field whatever the field holds (R336). -/
def shadowValueOk (sel : Nat) (v : Nat) : Bool :=
  decide (v < 2 ^ shadowWidth sel) && (sel != 1 || v % 4 == 0) && (sel != 4 || decide (v ≤ 4)) && (sel != 6 || v / 2 % 2 == 0)

/-- A value may follow the one that the field holds (R336): LIVE may only lose bits, a latch only its valid bit. -/
def shadowStepOk (d : Div) (sel i v : Nat) : Bool :=
  let old := shadowField d sel i
  if sel == 2 then (BitVec.ofNat 4 v &&& ~~~BitVec.ofNat 4 old) == 0
  else if sel == 9 then v == old || v == old % 16
  else true

/-- A deferral entry of a strand is changed. -/
def Div.modEntry (d : Div) (i : Nat) (f : Deferred → Deferred) : Div :=
  let x := d.strand (i / 4)
  d.setStrand (i / 4) { x with stack := x.stack.setIfInBounds (i % 4) (f (vget x.stack (i % 4) Deferred.empty)) }

/-- Writes a field of the divergence state (R336). -/
def setShadowField (d : Div) (sel i v : Nat) : Div :=
  if sel == 0 then d.setPath i { d.path i with mask := BitVec.ofNat 8 v }
  else if sel == 1 then d.setPath i { d.path i with pc := BitVec.ofNat 64 v }
  else if sel == 2 then d.setStrand i { d.strand i with live := BitVec.ofNat 4 v }
  else if sel == 3 then d.setStrand i { d.strand i with active := BitVec.ofNat 4 v }
  else if sel == 4 then d.setStrand i { d.strand i with depth := BitVec.ofNat 3 v }
  else if sel == 5 then d.modEntry i fun e => { e with mask := BitVec.ofNat 4 v }
  else if sel == 6 then d.modEntry i fun e => { e with pc := BitVec.ofNat 64 v }
  else if sel == 7 then
    let x := d.strand i
    d.setStrand i { x with ext := { x.ext with kinds := BitVec.ofNat 16 v } }
  else if sel == 8 then
    let x := d.strand (i / 16)
    d.setStrand (i / 16) { x with ext := { x.ext with payloads := x.ext.payloads.setIfInBounds (i % 16) (BitVec.ofNat 20 v) } }
  else
    let q := d.path (i / 3)
    let l := vget q.latches (i % 3) Latch.empty
    d.setPath (i / 3) { q with latches := q.latches.setIfInBounds (i % 3) { l with valid := decide (16 ≤ v) } }

/-! ### PATHRD, PATHWR, ERET -/

/-- What a shadow instruction does in a handler and outside a transaction (R335, R453, R508): else PERMISSION, or UNSUPPORTED. -/
def inHandlerOnly (s : State) (c : Ctx) (r : Res) : Res :=
  if !c.w.inHandler then .trap (Trap.mk' 0x08 0) else if c.w.txn.depth != 0 then .abort s (txCause "UNSUPPORTED") else r

/-- `pathrd sD, SEL, I` (R336, R508). -/
def execPathrd (sel i : BitVec 8) (d : BitVec 6) (s : State) : Host.Outcome State Fault Refusal :=
  run (.pathrd sel i d) {} s fun c =>
    inHandlerOnly s c (.next (s.modWave c.key fun w => w.setSreg d.toNat (BitVec.ofNat 64 (shadowField w.shadow sel.toNat i.toNat))))

/-- `pathwr SEL, I, sA` (R336, R508): an illegal value raises ILLEGAL_FIELD. -/
def execPathwr (sel i : BitVec 8) (a : BitVec 6) (s : State) : Host.Outcome State Fault Refusal :=
  let value (c : Ctx) : Nat := (c.w.sreg a.toNat).toNat
  let ok (c : Ctx) : Bool := shadowValueOk sel.toNat (value c) && (!c.w.inHandler || shadowStepOk c.w.shadow sel.toNat i.toNat (value c))
  run (.pathwr sel i a) { fields := ok } s fun c =>
    inHandlerOnly s c (.next (s.modWave c.key fun w => { w with shadow := setShadowField w.shadow sel.toNat i.toNat (value c) }))

/-- The shadow passes ERET's checks once its ended lanes are gone (R337). -/
def shadowOk (w : Wave) : Bool := Div.ok { w.shadow with strands := w.shadow.strands.map Strand.endDead }

/-- A wave whose last path has gone ends (R47). -/
def endIfDead (s : State) (k : Nat) : State :=
  match tget s.waves k with
  | some w => if w.div.valid.isEmpty && !w.ended then endWave s k else s
  | none => s

/-- `eret` (R337, R453). -/
def execEret (s : State) : Host.Outcome State Fault Refusal :=
  run .eret {} s fun c =>
    inHandlerOnly s c
      (if shadowOk c.w then .whole (endIfDead (s.modWave c.key fun w => restoreShadow w (s.epoch + 1)) c.key)
       else .next (s.modWave c.key fun w => { w with faultstat := w.faultstat ||| 8 }))

end Sys2Proof.Machine
end

