-- ==== Sys2Proof/Machine/Joint.lean ====
section
/-! DEFINITION. The issue of the joint instructions MMA.g, MMAS.g, MMAG.g (R229), COLL (R443), and of GARRIVE (R189, R476 to R478), with the
start of a joint operation once every member of its group has issued it (R52); EXIT (R454, R455). -/

namespace Sys2Proof.Machine

/-! ### EXIT -/

/-- What EXIT does to a strand (R454, R47): its active lanes end, and it resumes from its stack or is dead. -/
def exitStrand (x : Strand) : Strand × Option Dword :=
  let gone := x.active
  Strand.resume { x with live := x.live &&& ~~~gone, active := 0, stack := x.stack.map fun e => { e with mask := e.mask &&& ~~~gone } }

/-- The wave after an EXIT of a path (R42, R454): its strands go their ways, and the paths parked at REGANG may now merge (R46). -/
def exitPath (w : Wave) (c : Ctx) (stamp : Nat) : Wave :=
  let outs := (bitsSet (w.div.path c.p).mask).map fun k => (k, exitStrand (w.div.strand k))
  let d := outs.foldl (fun d o => d.setStrand o.1 o.2.1) w.div
  let d := d.split c.p (outs.filterMap fun o => o.2.2.map fun pc => (o.1, pc)) (c.path.pc + 4) true stamp
  mergeRegang { w with div := d.setPath c.p (d.path c.p).stepped, retry := w.retryAfter c.p } stamp

/-- `exit` (R454, R455). -/
def execExit (s : State) : Host.Outcome State Fault Refusal :=
  run .exit { inTx := false } s fun c => .whole (endIfDead (s.modWave c.key fun w => exitPath w c (s.epoch + 1)) c.key)

/-! ### Joint issue (R52) -/

/-- The wave belongs to a group. -/
def Ctx.inGroup (c : Ctx) (g : Nat) : Bool := c.w.groups.getLsbD g

/-- The path stalls at a joint instruction of a group. -/
def joinHold (s : State) (c : Ctx) (g : Nat) (i : Instr) : Res :=
  .stay (s.modWave c.key fun w => { w with joined := none, div := w.div.setPath c.p { w.div.path c.p with hold := .joint g i } })

/-- A joint matrix instruction is issued by a member (R229, R230). -/
def matJoint (i : Instr) (m : MatSpec) (s : State) : Host.Outcome State Fault Refusal :=
  run i { matSpec s m with fields := fun c => shapeOk m c && c.inGroup c.ext.imm.toNat } s fun c => joinHold s c c.ext.imm.toNat i

/-- What a joint matrix instruction names. -/
def jointMat : Instr → Option MatSpec
  | .mmaG t f g a b => some { kind := 0, joint := true, tile := t.toNat, fa := f.toNat, fb := g.toNat, sa := a.toNat, sb := b.toNat }
  | .mmasG t f g a b => some { kind := 1, joint := true, tile := t.toNat, fa := f.toNat, fb := g.toNat, sa := a.toNat, sb := b.toNat }
  | .mmagG t g a b => some { kind := 2, joint := true, tile := t.toNat, fa := 7, fb := g.toNat, sa := a.toNat, sb := b.toNat }
  | _ => none

/-- `mma.g` (R229, R496). -/
def execMmaG (t f g : BitVec 4) (a b : BitVec 6) (s : State) : Host.Outcome State Fault Refusal :=
  matJoint (.mmaG t f g a b) { kind := 0, joint := true, tile := t.toNat, fa := f.toNat, fb := g.toNat, sa := a.toNat, sb := b.toNat } s

/-- `mmas.g` (R229, R496). -/
def execMmasG (t f g : BitVec 4) (a b : BitVec 6) (s : State) : Host.Outcome State Fault Refusal :=
  matJoint (.mmasG t f g a b) { kind := 1, joint := true, tile := t.toNat, fa := f.toNat, fb := g.toNat, sa := a.toNat, sb := b.toNat } s

/-- `mmag.g` (R229, R496). -/
def execMmagG (t g : BitVec 4) (a b : BitVec 6) (s : State) : Host.Outcome State Fault Refusal :=
  matJoint (.mmagG t g a b) { kind := 2, joint := true, tile := t.toNat, fa := 7, fb := g.toNat, sa := a.toNat, sb := b.toNat } s

/-- `coll sA` (R442, R443). -/
def execColl (a : BitVec 6) (st g : BitVec 4) (s : State) : Host.Outcome State Fault Refusal :=
  run (.coll a st g) { inTx := false, onePath := true, fields := fun c => c.inGroup g.toNat } s fun c =>
    match firstCause s c [(c.w.sreg a.toNat, 128, 128, .own)] with
    | some t => .trap t
    | none => joinHold s c g.toNat (.coll a st g)

/-! ### GARRIVE -/

/-- How an arrival ends: the barrier's word before it; nothing to return yet, its target lying in another package; a trap; a poisoned line or a
lost package; an absent page; a wait for a home, for the remote-store count (R114), or else. -/
inductive Arrived where
  | ok (s : State) (w : Word)
  | away (s : State) (pkg : Nat)
  | trap (t : Trap)
  | poison
  | absent (s : State) (vas : List Nat)
  | held (pa kind : Nat)
  | full
  | hold
  deriving DecidableEq, Repr

/-- What the release and the visibility of an arrival wait for (R189, R477), as a stall reason. The release covers no remote store. -/
def arriveWait (s : State) (c : Ctx) (vis : Bool) (stream : Nat) : Option Nat :=
  if vis && (c.w.remoteStores != 0 || (List.range 16).any fun k => !(packetsOut s c.key k).isEmpty) then some 31
  else if !(loadsOut s c.key stream).isEmpty then some 7
  else none

/-- A store of the wave to peer scratch is refused by its window: it raises its cause precisely in every member of a joint arrival (R477), and
is else dropped and reported, the word being undefined (R112, R478; DEDUCED, log 44). -/
def arriveRefused (s : State) (c : Ctx) (joint : Bool) (ea : Dword) (code : Nat) : Arrived :=
  if joint then .trap (Trap.mk' code ea)
  else .ok (addReport s (waveReport c code 0 ea 0)) (Config.freeWord s.draws 630 0)

/-- One arrival at a barrier (R477, R478). An arrival at a peer crew's scratch counts as a remote store until it is acknowledged (R114). -/
def arrive (s : State) (c : Ctx) (joint : Bool) (stream : Nat) (ea : Dword) : Arrived :=
  match resolve s c .atomic 16 true [(0, ea)] with
  | .trap t => .trap t
  | .poison _ => .poison
  | .held pa kind => .held pa kind
  | .fault s' _ _ vas => .absent s' vas
  | .ok s' accs =>
    if remoteFull c accs then .full else match accs.head? with
    | none => .hold
    | some x =>
      let abandoned := c.conv.abandon
      let local' (s' : State) : Arrived :=
        match barrierAtomic s' c.agent ea (fun b => barrierNew b 0 0 true false abandoned false) x.tgt (some c.key) with
        | some r => .ok r.1 (BitVec.ofNat 32 (bits r.2 96 32))
        | none => .hold
      if readsPoison s' (keyConvoy c.key) x.tgt then .poison
      else match x.tgt with
        | .scratch k off =>
          if k == keyCrew c.key then local' s'
          else match windowCause s' (keyConvoy c.key) k (keyCrew c.key) (off / 128) true with
            | some code => arriveRefused s' c joint ea code
            | none => local' (atomCount s' c { op := 0, bytes := 16, float := false, stream := stream, scope := 1 } [x])
        | .mem pa _ =>
          if paPkg pa == s.pkg then local' s'
          else if isLost s (paPkg pa) then .poison
          else if leasedDirty s' accs then .hold
          else .away (waveSend s' c stream pa ea 0 false
            (.atomic barrierArriveOp 16 false [(pa, BitVec.ofNat 64 abandoned.toNat, 0)])) (paPkg pa)
        | _ => .hold

/-- The bytes of an arrival in another package, by physical address and length. -/
def arriveSpan (s : State) (c : Ctx) (ea : Dword) : List (Nat × Nat) :=
  match resolve s c .atomic 16 true [(0, ea)] with
  | .ok _ (x :: _) => [(x.tgt.pa, 16)]
  | _ => []

/-- The word of an arrival in another package comes to a wave's register when it returns (R477, R494). -/
def awaitWord (s : State) (c : Ctx) (d : BitVec 6) (stream pkg : Nat) (ea : Dword) : State :=
  let l : PendingLoad := { wave := c.key, path := c.p, pc := c.path.pc, stream := stream, package := pkg, lanes := 0, addrs := [(0, ea)],
                           dest := .scalar d.toNat 4 false, since := s.clock, acquire := none, spans := arriveSpan s c ea,
                           horizon := horizonIn c.w stream }
  { s with loads := tput s.loads s.nextId l, nextId := s.nextId + 1 }

/-- Where an arrival goes, as its address is translated. -/
def arriveTarget (s : State) (c : Ctx) (ea : Dword) : Target :=
  match resolve s c .atomic 16 true [(0, ea)] with
  | .ok _ (x :: _) => x.tgt
  | _ => .control 0

/-- The release of an arrival, at cluster scope (R189). -/
def arriveRelease (s : State) (c : Ctx) : State := cleanStack s (coreStack c.w.core) 1

/-- `garrive` (R476, R477): the single form arrives at once; the joint form, its waits over, stalls until the start. -/
def execGarrive (g v : BitVec 1) (b : BitVec 6) (n st : BitVec 4) (d : BitVec 6) (s : State) : Host.Outcome State Fault Refusal :=
  let i : Instr := .garrive g v b n st d
  run i { inTx := false, onePath := true, fields := fun c => g == 0 || c.inGroup n.toNat } s fun c =>
    match arriveWait s c (v == 1) st.toNat with
    | some r => .wait r 0
    | none =>
      if g == 1 then joinHold (arriveRelease s c) c n.toNat i
      else
        let ea := c.w.sreg b.toNat
        match arrive (arriveRelease s c) c false st.toNat ea with
        | .ok s w => .next (s.modWave c.key fun y => y.setSreg d.toNat (w.setWidth 64))
        | .away s pkg => .next (awaitWord s c d st.toNat pkg ea)
        | .trap t => .trap t
        | .poison => consumePoison s c ea 0
        | .absent s vas => .stay (parkWave s c.key c.p c.path.pc 0xFFFFFFFF .atomic vas)
        | .held pa kind => walkWait s pa kind
        | .full => .wait 12 0
        | .hold => homeWait s c 1 [{ lane := 0, ea := ea, tgt := arriveTarget s c ea }]

/-! ### Starting a joint operation (R52, R229, R443, R477) -/

/-- The kind of a joint operation: matrix, collective, arrival. -/
def jointKind : Instr → Nat
  | .coll .. => 1
  | .garrive .. => 2
  | _ => 0

/-- The joint instruction at which a wave is stalled, with its path and group. -/
def jointHeld (w : Wave) : Option (Nat × Nat × Instr) :=
  match w.div.valid with
  | [p] => match (w.div.path p).hold with
    | .joint g i => some (p, g, i)
    | _ => none
  | _ => none

/-- The members of a group, lowest crew first and then lowest slot (R443). -/
def groupMembers (s : State) (convoy g : Nat) : List (Nat × Wave) :=
  let ws := s.waves.filter fun e => keyConvoy e.1 == convoy && !e.2.ended && e.2.groups.getLsbD g
  (List.range 8).flatMap fun k => (List.range 32).flatMap fun slot => ws.filter fun e => keyCrew e.1 == k && e.2.slot == slot

/-- The member has issued a joint operation of the group that has not started, and nothing holds it. -/
def memberIssued (g : Nat) (w : Wave) : Bool :=
  w.park.isNone && w.joined.isNone && match jointHeld w with
  | some (_, g', _) => g' == g
  | none => false

/-- The context of a member's stalled path. -/
def memberCtx (s : State) (k : Nat) (w : Wave) : Option (Ctx × Instr) :=
  match jointHeld w with
  | some (p, _, i) => (issueCtx { s with cur := { wave := k, path := p } }).map fun c => (c, i)
  | none => none

/-- What each member of a starting operation does, in turn; a member that is gone by then does nothing. -/
def eachMember (ks : List Nat) (s : State) (f : State → Ctx → Instr → Res) : State :=
  ks.foldl (fun s k => match tget s.waves k with
    | some w => match memberCtx s k w with
      | some (c, i) => noteStep (finish s c (f s c i)) c
      | none => s
    | none => s) s

/-- What must be the same in every member of a joint matrix operation (R229): the opcode, the SHAPE payload, the SRC address. -/
def matShared (c : Ctx) (i : Instr) : Nat × Nat × Dword :=
  match jointMat i with
  | none => (0, 0, 0)
  | some m =>
    let src := c.shape 16 2
    (m.kind, (c.ext.payload 6).toNat, if src == 1 then c.w.sreg m.sa else if src == 2 then c.w.sreg m.sb else 0)

/-- A member of a joint matrix operation that has started makes its own checks and joins its queue; until that has room it stays stalled (R229, R231, R236). -/
def joinedIssue (s : State) (c : Ctx) (m : MatSpec) (undefined : Bool) : Res :=
  let clear (s : State) : State := s.modWave c.key fun w => { w with joined := none }
  match matTrap s c m with
  | some t => .trapIn (clear s) t
  | none =>
    if (matWait s c m.tile).isSome then .stay (s.modWave c.key fun w => { w with joined := some undefined })
    else .next (clear (matIssue s c m undefined))

/-- A joint matrix operation starts (R52, R229): each member goes on by itself. Where the members differ, those on a crew that some MCAST names get undefined
values. -/
def startMatrix (s : State) (ms : List (Nat × Wave)) : State :=
  let cs := ms.filterMap fun e => memberCtx s e.1 e.2
  let first := (cs.map fun x => matShared x.1 x.2).headD (0, 0, 0)
  let differ := cs.any fun x => matShared x.1 x.2 != first
  let mcast := cs.foldl (fun (m : BitVec 8) x => m ||| BitVec.ofNat 8 (x.1.shape 5 8)) 0
  eachMember (ms.map (·.1)) s fun s c i => match jointMat i with
    | none => .stay s
    | some m => joinedIssue s c m (differ && mcast.getLsbD (keyCrew c.key))

/-- The members of started joint matrix operations that wait for their queues (R231). -/
def issueJoined (s : State) : State :=
  (s.waves.filter fun e => e.2.joined.isSome).foldl (fun s e => match memberCtx s e.1 e.2 with
    | some (c, i) => match jointMat i with
      | some m => if (matTrap s c m).isNone && (matWait s c m.tile).isSome then s
        else noteStep (finish s c (joinedIssue s c m (e.2.joined.getD false))) c
      | none => s
    | none => s) s

/-- A collective starts (R443, R447): its leader's descriptor is read once and checked for every member, and its bytes are added to PENDING. -/
def startColl (s : State) (ms : List (Nat × Wave)) (breach : Bool) : Option State :=
  let ks := ms.map (·.1)
  match ms.head?.bind fun e => memberCtx s e.1 e.2 with
  | some (c, .coll a st g) =>
    let ea := c.w.sreg a.toNat
    let n := ownScratch s c ea 128
    let poisoned := s.poisoned.contains (scratchPoison (keyCrewKey c.key) (ea.toNat % 2 ^ 24 / 128))
    let word := wordOf (.coll a st g)
    let trapAll (t : Trap) : State := eachMember ks s fun _ _ _ => .trap t
    let differ := breach || ms.any fun e => match memberCtx s e.1 e.2 with
      | some (x, .coll b _ _) => x.w.sreg b.toNat != ea
      | _ => false
    if poisoned then some (finish s c (consumePoison s c ea 0))
    else match collTrap s c n st.toNat word with
    | some t => some (trapAll t)
    | none =>
      let x := { collOf c n st.toNat with undefined := differ }
      if imageAwaited s x || sessionsFull s x (bits n 520 8) || x.tile.any (fun t => c.w.tldTiles.getLsbD t) then none else
      match collPending s x with
      | .trap t => some (trapAll t)
      | .absent => some (parkWave s c.key c.p c.path.pc 0xFFFFFFFF .atomic [x.barrier.toNat % 2 ^ 56])
      | .full | .hold => none
      | .held pa kind => some (askLine s pa kind)
      | .sent t =>
        let t := startCollective t x (bits n 520 8) (bits n 506 1 == 1)
        some (eachMember ks t fun t y _ => .next (noteAdding t y s.fabric.nextTag))
      | .ok s' =>
        let s' := startCollective s' x (bits n 520 8) (bits n 506 1 == 1)
        some (eachMember ks s' fun s _ _ => .next s)
  | _ => none

/-- A joint arrival is made by the group's leader, and every member receives its word (R477). -/
def startArrive (s : State) (ms : List (Nat × Wave)) : Option State :=
  let ks := ms.map (·.1)
  match ms.head?.bind fun e => memberCtx s e.1 e.2 with
  | some (c, .garrive _ _ b _ st _) =>
    let ea := c.w.sreg b.toNat
    let give (s : State) (f : State → Ctx → BitVec 6 → State) : State := eachMember ks s fun s c i => match i with
      | .garrive _ _ _ _ _ d => .next (f s c d)
      | _ => .next s
    match arrive s c true st.toNat ea with
    | .ok s w => some (give s fun s c d => s.modWave c.key fun y => y.setSreg d.toNat (w.setWidth 64))
    | .away s pkg => some (give s fun s c d => awaitWord s c d st.toNat pkg ea)
    | .trap t => some (eachMember ks s fun _ _ _ => .trap t)
    | .poison => some (finish s c (consumePoison s c ea 0))
    | .absent s vas => some (parkWave s c.key c.p c.path.pc 0xFFFFFFFF .atomic vas)
    | .held pa kind => some (askLine s pa kind)
    | .full => none
    | .hold => some (askLine s (arriveTarget s c ea).pa 1)
  | _ => none

/-- The members of a group have issued joint instructions of different kinds, against R52 and R229: their destinations become undefined, and all go on (R8):
the tile of a matrix instruction, D of an arrival, what a collective writes. That each result is a free value is read from R8 (DEDUCED, log 65). -/
def startBreach (s : State) (ms : List (Nat × Wave)) : State :=
  let kind (e : Nat × Wave) : Nat := ((jointHeld e.2).map fun h => jointKind h.2.2).getD 0
  let colls := ms.filter fun e => kind e == 1
  match (if colls.isEmpty then some s else startColl s colls true) with
  | none => s
  | some s => eachMember ((ms.filter fun e => kind e != 1).map (·.1)) s fun s c i => match jointMat i with
    | some m => .next (spoilTile s (keyCrewKey c.key) m.tile)
    | none => match i with
      | .garrive _ _ _ _ _ d => .next (s.modWave c.key fun w => w.setSreg d.toNat (Config.freeDword s.draws 632))
      | _ => .next s

/-- Starts a joint operation of a group whose every member has issued it; else leaves the state. -/
def startJoint (s : State) (convoy g : Nat) : State :=
  let ms := groupMembers s convoy g
  if ms.isEmpty || !(ms.all fun e => memberIssued g e.2) then s
  else match dedup (ms.map fun e => ((jointHeld e.2).map fun h => jointKind h.2.2).getD 0) with
    | [0] => startMatrix s ms
    | [1] => (startColl s ms false).getD s
    | [2] => (startArrive s ms).getD s
    | _ => startBreach s ms

/-- The groups of which some wave has issued a joint operation: convoy and group. -/
def jointPending (s : State) : List (Nat × Nat) :=
  dedup (s.waves.filterMap fun e => (jointHeld e.2).map fun h => (keyConvoy e.1, h.2.1))

/-- Starts every joint operation that can start (R52). -/
def startJoints (s : State) : State := (jointPending s).foldl (fun s j => startJoint s j.1 j.2) (issueJoined s)

end Sys2Proof.Machine
end

