-- ==== Sys2Proof/Machine/Reports.lean ====
section
/-! DEFINITION. Asynchronous traps (R327 to R332), reports (R330, R334), accesses to peer scratch on their way (R112 to R114), misses at a stack's
TLB (R127, R128), and blocking points (R316). -/

namespace Sys2Proof.Machine

/-! ### Asynchronous traps -/

/-- ASYNC_TRAP_ENTRY (R331): a wave takes the asynchronous trap that is due. -/
def execAsyncTrapEntry (wave : Nat) (s : State) : Host.Outcome State Fault Refusal :=
  match tget s.waves wave with
  | some w => .next (if (asyncDue w).isSome && isPlaced s wave then takeDue s wave else s)
  | none => .next s

/-- A halt broadcast reaches a wave (R327, R328): one that is stalled takes the trap at once, one in its handler holds it, another may issue up to
`skid` more instructions, at most 8. -/
def haltReaches (s : State) (wave skid : Nat) (w : Wave) (h : Halt) : State :=
  let held (left : Nat) : Sibling :=
    { left := left, used := 0, cause := h.cause, pc := h.pc, crew := h.crew, slot := h.slot, arrived := true }
  let put (left : Nat) : State := { (s.setWave wave { w with heldSibling := some (held left) }) with epoch := s.epoch + 1 }
  if w.inHandler then leaveHalt (put 0) wave
  else if w.stalled then takeDue (put 0) wave
  else put (min skid 8)

/-- SIBLING_HALT (R327): the broadcast of the halt in progress reaches a wave that it has not yet reached. A wave that still holds an earlier one
holds at most one (R332), and is reached so. -/
def execSiblingHalt (wave skid : Nat) (s : State) : Host.Outcome State Fault Refusal :=
  match tget s.waves wave, tget s.convoys (keyConvoy wave) with
  | some w, some v => match v.halt with
    | some h => .next (if !h.waiting.contains wave || v.residence != .placed then s
        else if w.heldSibling.isNone then haltReaches s wave skid w h
        else if w.inHandler then { (leaveHalt s wave) with epoch := s.epoch + 1 } else s)
    | none => .next s
  | _, _ => .next s

/-! ### Reports -/

/-- The lowest live wave of a convoy, lowest crew first and then lowest slot (R330). -/
def lowestLive (s : State) (convoy : Nat) : Option Nat :=
  let ws := s.waves.filter fun e => keyConvoy e.1 == convoy && !e.2.ended
  (ws.foldl (fun (m : Option (Nat × Nat)) e =>
    let rank := 32 * keyCrew e.1 + e.2.slot
    match m with
    | none => some (rank, e.1)
    | some y => if rank < y.1 then some (rank, e.1) else some y) none).map (·.2)

/-- The wave that a report is delivered to (R330). -/
def reportTo (s : State) (r : Report) : Option Nat :=
  match r.wave with
  | some k => match tget s.waves k with
    | some w => if w.ended then lowestLive s r.convoy else some k
    | none => lowestLive s r.convoy
  | none => lowestLive s r.convoy

/-- A report is logged and delivered (R330, R332): a wave that holds one already gets no second, and has REPORTLOST set. -/
def deliverReport (s : State) (r : Report) : State :=
  let dest := reportTo s r
  let full := match dest with
    | some k => match tget s.waves k with | some w => w.heldReport.isSome | none => true
    | none => true
  let s := logFault s { FaultInfo.blank with
    pc := r.pc, addr := r.addr, launch := r.launch, convoy := r.index, context := r.context, cause := r.cause.toNat, sub := r.sub.toNat,
    slot := r.slot, crew := r.crew, cluster := r.cluster, exited := r.wave != dest || dest.isNone, delivered := !full, lanes := r.lanes }
  match dest with
  | none => s
  | some k => s.modWave k fun w =>
      if full then { w with faultstat := w.faultstat ||| 2 } else { w with heldReport := some r }

/-- ASYNC_REPORT (R330): the oldest report is logged and delivered. -/
def execAsyncReport (s : State) : Host.Outcome State Fault Refusal :=
  match s.logs.reports with
  | [] => .next s
  | r :: rest => .next (deliverReport { s with logs := { s.logs with reports := rest }, epoch := s.epoch + 1 } r)

/-! ### Peer scratch (R112 to R114) -/

/-- An earlier access of the wave in its stream, or to the same line, has not arrived: it comes first (R165, R167).
One location is taken to be one line (DEDUCED, log 66). -/
def arrivesLater (s : State) (id : Nat) (x : ScratchAccess) : Bool :=
  let line (y : ScratchAccess) : Nat := ((y.writes.head?).map fun e => e.2.1 / 128).getD 0
  s.scratchOps.any fun e => decide (e.1 < id) && e.2.wave == x.wave && !e.2.arrived &&
    (e.2.stream == x.stream || (e.2.target == x.target && line e.2 == line x))

/-- Performs one lane of an access that has arrived: a store, or the atomic of a RED. -/
def scratchPerform (x : ScratchAccess) (context : Nat) (s : State) (e : Nat × Nat × Dword) : State :=
  let off := e.2.1
  let v := x.target / 8
  let s :=
    if x.op == 0 then writeScratch s (some x.wave) x.target off (bytesOf x.width e.2.2.toNat)
    else (atomScratch s x.wave x.target off (x.op - 1) x.width x.float e.2.2.toNat 0).1
  noteWriteEa s context v x.crew (scratchEa (x.target % 8) off) x.width

/-- An access reaches the owning core (R112, R113): the window's control byte decides, once for the line; a refused access is dropped and reported. -/
def accessArrives (s : State) (access : Nat) : State :=
  match tget s.scratchOps access with
  | none => s
  | some x => match tget s.convoys (x.target / 8) with
    | none => s
    | some v =>
      if x.arrived || arrivesLater s access x then s
      else
        let first := (x.writes.head?).map fun e => e.2.1
        let s := { s with scratchOps := tput s.scratchOps access { x with arrived := true }, epoch := s.epoch + 1 }
        match windowCause s (x.target / 8) (x.target % 8) x.crew (first.getD 0 / 128) true with
        | some cause =>
          addReport s { cause := BitVec.ofNat 8 cause, sub := 0, addr := scratchEa (x.target % 8) (first.getD 0), pc := x.pc,
                        lanes := laneMask (x.writes.map (·.1)), convoy := keyConvoy x.wave, crew := x.crew, wave := some x.wave,
                        slot := x.slot, launch := v.launch, index := v.index, context := v.context, cluster := v.cluster }
        | none => x.writes.foldl (scratchPerform x v.context) s

/-- SCRATCH_ACCESS_ARRIVAL (R112, R113). -/
def execScratchAccessArrival (access : Nat) (s : State) : Host.Outcome State Fault Refusal := .next (accessArrives s access)

/-- REMOTE_STORE_ACK (R114): the owning core acknowledges the oldest access that has arrived. -/
def execRemoteStoreAck (s : State) : Host.Outcome State Fault Refusal :=
  match s.scratchOps.find? fun e => e.2.arrived with
  | none => .next s
  | some (id, x) =>
    let s := { s with scratchOps := tdel s.scratchOps id, epoch := s.epoch + 1 }
    .next (s.modWave x.wave fun w => { w with remoteStores := w.remoteStores - 1 })

/-! ### Translation misses and blocking points -/

/-- SECOND_LEVEL_TLB_MISS (R127, R128): a miss on an absent page joins an entry of the stack's fault buffer, takes one, or sets the dropped-entry
flag; a parked wave that waits for it notes the page. A page that is there is no miss,
and KIND 6 and 7 are not written (R129). -/
def execSecondLevelTlbMiss (stack context : Nat) (va : Dword) (kind : Nat) (waiter : Option Nat) (s : State) :
    Host.Outcome State Fault Refusal :=
  match walkFrom s (va.toNat % 2 ^ 56) walkLevels (s.context context).desc.root.toNat with
  | .absent =>
    if 5 < kind then .next s else
    let vpage := va.toNat % 2 ^ 56 / 2 ^ 16
    let r := missPage s stack context vpage kind
    let note (p : Park) : Park := { p with pages := p.pages ++ [{ vpage := vpage, stack := stack, entry := r.2 }] }
    .next (match waiter with
      | some k => r.1.modWave k fun w => { w with park := w.park.map note }
      | none => r.1)
  | _ => .next s

/-- REMOTE_LOAD_BLOCKING (R316): each path that has waited for more than 2 µs on a load or atomic to another package is at a blocking point. -/
def execRemoteLoadBlocking (s : State) : Host.Outcome State Fault Refusal :=
  let due (p : Path) : Bool := match p.hold with
    | .wait 7 _ _ => decide (p.waitSince + 2 * Config.cyclesPerUs < s.clock)
    | _ => false
  let mark (p : Path) : Path := if due p then { p with waitedLong := true } else p
  .next { s with waves := tmap s.waves fun _ w => { w with div := { w.div with paths := w.div.paths.map mark } } }

end Sys2Proof.Machine
end

