-- ==== Sys2Proof/Machine/Selftest.lean ====
section
/-! DEFINITION. Self-test of the arrays (R238 to R240), hangs and slab resets (R246 to R249), and the offer of cores (R20, R24). -/

namespace Sys2Proof.Machine

/-- The core whose front end drives a position's slab, in the mode of its quad (R25). -/
def drivingCore (s : State) (core : Nat) : Nat :=
  let mode := (s.quad (coreQuad core)).mode
  if mode == 3 then core / 4 * 4 else if mode == 2 then core / 2 * 2 else core

/-- Clears offer bits of a core (R24). -/
def clearOffer (s : State) (core bit : Nat) : State :=
  { s with binding := tset 0 s.binding core (bindingWord s core &&& ~~~(1#32 <<< bit)) }

/-- A core is taken from the offer (R20, R24): its own G1 bit, the G2 bits of its pair, the G4 bits of its quad. -/
def withdrawCore (s : State) (core : Nat) : State :=
  let s := clearOffer s core 29
  let s := (List.range 2).foldl (fun s j => clearOffer s (core / 2 * 2 + j) 30) s
  (List.range 4).foldl (fun s j => clearOffer s (core / 4 * 4 + j) 31) s

/-- The half that holds a sub-array is recorded for the next binding (R18, R238): sub-arrays 1 and 3 lie in the east half (DESIGN CHOICE, log 56). -/
def recordFence (s : State) (core sub : Nat) : State :=
  let b := (bindingWord s core).toNat
  let k (lo : Nat) : Nat := 136 * coreStack core + bits b lo 8
  if sub % 2 == 0 then { s with fuses := { s.fuses with badWest := dedup (s.fuses.badWest ++ [k 8]) } }
  else { s with fuses := { s.fuses with badEast := dedup (s.fuses.badEast ++ [k 0]) } }

/-- The matrix instructions of a core, oldest first. -/
def Core.ops (c : Core) : List MatrixOp := c.running.toList ++ c.queue

/-- The traps and the loss of R248: what the core's matrix instructions and its tiles held is gone, and each wave concerned will take MATRIX_RESET.
A second reset replaces the TRAPADDR of the first (DEDUCED, log 38). -/
def loseMatrix (s : State) (core : Nat) : State :=
  let k := s.core core
  let lost := k.ops
  let holders := (s.convoys.filter fun e => e.2.cores.contains core && decide (0 < e.2.card.tiles) && (e.2.residence == .placed || e.2.residence == .evicting)).map (·.1)
  let crewHere (c : Nat) : Bool := match tget s.convoys (c / 8) with
    | some v => holders.contains (c / 8) && v.cores.getD (c % 8) 512 == core
    | none => false
  let hit (key : Nat) (w : Wave) : Wave :=
    let oldest := lost.find? fun o => o.wave == key
    if w.ended || (oldest.isNone && !holders.contains (keyConvoy key)) then w
    else
      let w := if oldest.isSome then { w with outstanding := 0, unwaited := [] } else w
      { w with heldReset := some ((oldest.map (·.pc)).getD 0) }
  let s := s.setCore core { k with queue := [], running := none, finished := [], resetting := false }
  { s with crews := tmap s.crews (fun c x => if crewHere c then { x with tiles := [] } else x), waves := tmap s.waves hit, epoch := s.epoch + 1 }

/-- A lasting fault (R239, R240): the sub-array is fenced, and the core leaves the offer. -/
def fenceArray (s : State) (core sub : Nat) (injected : Bool) : State :=
  let k := s.core core
  let s := logError s 0 3 9 (coreStack core) core sub k.pattern.toNat injected 0
  let s := recordFence s core sub
  withdrawCore (s.setCore core { k with fenced := k.fenced ||| (1#4 <<< sub) }) core

/-- SELF_TEST_INJECTION (R238 to R240, R343): a slab whose core's queue is empty is tested with the next pattern. A mismatch names its sub-array, and
whether the rerun fails as well. -/
def execSelfTestInjection (core : Nat) (mismatch : Option (Nat × Bool)) (s : State) : Host.Outcome State Fault Refusal :=
  let d := s.core (drivingCore s core)
  let k := s.core core
  let stack := coreStack core
  let i := core % 128
  if s.settings.selftest == 0 || decide (512 ≤ core) || !d.ops.isEmpty || d.resetting then .next s
  else
    let s := if (armed s 9 stack i).getLsbD 2 then disarm (logError s 0 2 9 stack core 0 k.pattern.toNat true 0) 9 stack i 2 else s
    let s := match mismatch with
      | none => s
      | some (sub, false) => logError s 0 2 9 stack core (sub % 4) k.pattern.toNat false 0
      | some (sub, true) => loseMatrix (fenceArray s core (sub % 4) false) (drivingCore s core)
    .next (s.setCore core { s.core core with pattern := k.pattern + 1 })

/-- A slab reset begins (R247): the core takes no matrix or tile instruction until its end. -/
def beginReset (s : State) (core : Nat) : State := s.setCore core { s.core core with resetting := true }

/-- MATRIX_HANG (R246): the instruction that has run for the hang limit is logged, and the core reset. No detector of R375 is the sequencer: UNIT is 1, the slab's
own (DESIGN CHOICE, log 91). -/
def execMatrixHang (core : Nat) (s : State) : Host.Outcome State Fault Refusal :=
  let k := s.core core
  match k.running with
  | none => .next s
  | some m =>
    if k.resetting || decide (s.clock < k.runningSince + s.settings.hanglimit) then .next s
    else .next (beginReset (logError s m.pc 4 1 (coreStack core) core 0 0 false 0) core)

/-- The slabs that a core drives, in the mode of its quad (R25, R247). -/
def slabsOf (s : State) (core : Nat) : Nat :=
  let mode := (s.quad (coreQuad core)).mode
  if mode == 3 then 4 else if mode == 2 then 2 else 1

/-- The end of a slab's self-test after a reset (R239, R247): a mismatch that passes its rerun is logged, a lasting one fences its sub-array. -/
def slabTested (core : Nat) (s : State) (x : Nat × Nat × Bool) : State :=
  if slabsOf s core ≤ x.1 then s
  else
    let slab := core + x.1
    if x.2.2 then fenceArray s slab (x.2.1 % 4) false
    else logError s 0 2 9 (coreStack slab) slab (x.2.1 % 4) (s.core slab).pattern.toNat false 0

/-- SLAB_RESET_DONE (R247, R248): the reset of a core's slabs ends. `found` are the mismatches of their self-tests: slab, sub-array, and whether it is
lasting. -/
def execSlabResetDone (core : Nat) (found : List (Nat × Nat × Bool)) (s : State) : Host.Outcome State Fault Refusal :=
  if !(s.core core).resetting then .next s else .next (loseMatrix (found.foldl (slabTested core) s) core)

end Sys2Proof.Machine
end

