-- ==== Sys2Proof/Machine/Errors.lean ====
section
/-! DEFINITION. Errors that SECDED detects (R339 to R343), their injection, and errors of the host link (R330). -/

namespace Sys2Proof.Machine

/-! ### Detectors (R375) -/

/-- A detector of a kind has the instance (R375). -/
def detectorOk (unit stack inst : Nat) : Bool :=
  decide (unit < 16) && decide (stack < 4) &&
  (if unit ≤ 1 || unit == 9 then decide (inst < 128)
   else if unit == 6 then decide (inst < 8)
   else if unit == 13 then stack == 0 && decide (inst < 6)
   else if 10 ≤ unit then stack == 0 && inst == 0
   else inst == 0)

/-- What an uncorrectable error marks (R339, R340; DESIGN CHOICE, log 55): a line of memory by its physical address, one of a crew's scratch, a line of the waymark
store, a slot of the Vat. -/
def poisonLine (s : State) (unit : Nat) (loc : Dword) : State :=
  let n := loc.toNat
  let mark (k : Nat) : State := { s with poisoned := dedup (s.poisoned ++ [k]) }
  if unit == 0 && n / 2 ^ 56 == 0xF0 then mark (scratchPoison (bits n 24 32) (bits n 0 24 / 128))
  else if unit == 10 then mark (waymarkPoison (n % 2 ^ 24 / 128))
  else if unit == 11 then
    match tget s.vat.slots (n % 4096) with
    | some v => { s with vat := { s.vat with slots := tput s.vat.slots (n % 4096) { v with poison := true } } }
    | none => s
  else if n < 2 ^ 60 && (unit == 5 || unit == 6) then { s with poisoned := dedup (s.poisoned ++ [lineOf n, homePoison (lineOf n)]) }
  else if n < 2 ^ 60 && (unit == 0 || unit == 2 || unit == 3) then mark (lineOf n)
  else s

/-- The wave that has read a register or tile with an uncorrectable error (R340; DESIGN CHOICE, log 55): the holder of a slot of the core. -/
def readerOf (s : State) (unit stack inst : Nat) (loc : Dword) : Option (Nat × Wave) :=
  if (unit == 0 && loc.toNat / 2 ^ 56 == 0xF2) || unit == 1 then
    s.waves.find? fun e => e.2.core == 128 * stack + inst && e.2.slot == bits loc.toNat 15 5 && !e.2.ended && isPlaced s e.1
  else none

/-- ECC_ERROR (R339, R340, R342, R343): a corrected error is logged; an uncorrectable one marks its line, or ends the wave that has read it. An
armed injection is reported as such. -/
def execEccError (unit stack inst : Nat) (loc : Dword) (uncorrectable : Bool) (s : State) : Host.Outcome State Fault Refusal :=
  if !detectorOk unit stack inst then .next s
  else
    let bit := uncorrectable.toNat
    let injected := (armed s unit stack inst).getLsbD bit
    let s := if injected then disarm s unit stack inst bit else s
    let reader := if uncorrectable then readerOf s unit stack inst loc else none
    let ctx := match reader with | some e => waveContext s e.1 | none => 0
    let s := logError s loc uncorrectable.toNat unit stack inst 0 0 injected ctx
    if !uncorrectable then .next s
    else match reader with
      | some e => .next { (containWave s e.1 e.2.lowPc 0 0) with epoch := s.epoch + 1 }
      | none => .next (poisonLine s unit loc)

/-- Arms a bit of an INJECT register (R343, R375). -/
def arm (s : State) (unit stack inst bit : Nat) : State :=
  if detectorOk unit stack inst then
    { s with inject := tset 0 s.inject (injectKey unit stack inst) (armed s unit stack inst ||| (1#3 <<< bit)) }
  else s

/-- INJECT_CORRECTED (R343). -/
def execInjectCorrected (unit stack inst : Nat) (s : State) : Host.Outcome State Fault Refusal := .next (arm s unit stack inst 0)

/-- INJECT_UNCORRECTABLE (R343). -/
def execInjectUncorrectable (unit stack inst : Nat) (s : State) : Host.Outcome State Fault Refusal := .next (arm s unit stack inst 1)

/-- INJECT_SELF_TEST (R343, R375): kind 9 only. -/
def execInjectSelfTest (stack inst : Nat) (s : State) : Host.Outcome State Fault Refusal := .next (arm s 9 stack inst 2)

/-- The report of a failed host write of a wave whose convoy has retired (R330): its launch is still to complete (R313), and names it. -/
def goneReport (s : State) (wave : Nat) (pc addr : Dword) (lanes : Word) : State :=
  match s.disp.parts.findSome? fun e => (e.2.gone.find? fun g => g.1 == wave).map fun g => (e.2, g) with
  | none => s
  | some (p, _, slot, cluster, index) =>
    addReport s { cause := 0x09, sub := 1, addr := addr, pc := pc, lanes := lanes, convoy := keyConvoy wave, crew := keyCrew wave, wave := some wave
                  slot := slot, launch := p.launch, index := index, context := p.context, cluster := cluster }

/-- HOST_LINK_ERROR (R330): a device write to host memory has failed on the link, and is reported to the wave that made it. -/
def execHostLinkError (wave : Nat) (pc addr : Dword) (lanes : Word) (s : State) : Host.Outcome State Fault Refusal :=
  match tget s.waves wave, tget s.convoys (keyConvoy wave) with
  | some w, some v =>
    .next (addReport s { cause := 0x09, sub := 1, addr := addr, pc := pc, lanes := lanes, convoy := keyConvoy wave, crew := keyCrew wave,
                         wave := some wave, slot := w.slot, launch := v.launch, index := v.index, context := v.context, cluster := v.cluster })
  | _, _ => .next (goneReport s wave pc addr lanes)

end Sys2Proof.Machine
end

