-- ==== Sys2Proof/Machine/Dispatcher.lean ====
section
/-! DEFINITION. The dispatcher: wait conditions (R305), the choice and placement of convoys (R310, R311), changes of a quad's mode (R26), the
retirement of a convoy (R49), the completion of a card (R313) and the watchdog (R314). -/

namespace Sys2Proof.Machine

/-! ### Wait conditions (R305) -/

/-- Kind, subject and value of a condition of a card. -/
def Card.cond (c : Card) (i : Nat) : Nat × Dword × Word := if i == 0 then (c.w0kind, c.w0, c.v0) else (c.w1kind, c.w1, c.v1)

/-- A condition has been found to hold. -/
def StoredCard.noted (x : StoredCard) (i : Nat) : Bool := if i == 0 then x.held0 else x.held1

/-- Notes that a condition holds. -/
def StoredCard.note (x : StoredCard) (i : Nat) : StoredCard := if i == 0 then { x with held0 := true } else { x with held1 := true }

/-- The read of a condition's word stands at a translation fault (R305). -/
def StoredCard.failed (x : StoredCard) (i : Nat) : Bool := if i == 0 then x.failed0 else x.failed1

/-- Notes that the read of a condition's word has met a translation fault. -/
def StoredCard.fail (x : StoredCard) (i : Nat) : StoredCard := if i == 0 then { x with failed0 := true } else { x with failed1 := true }

/-- A condition holds: one of kind 0 always does, and one that has been found to hold stays so. -/
def condHolds (s : State) (x : StoredCard) (i : Nat) : Bool :=
  let c := x.card.cond i
  c.1 == 0 || x.noted i || (c.1 == 2 && decide (c.2.1.toNat ≤ s.ring.applied.toNat))

/-- Changes a card of the store. -/
def State.modCard (s : State) (k : Nat) (f : StoredCard → StoredCard) : State :=
  { s with disp := { s.disp with cards := tmod s.disp.cards k f } }

/-- A precise cause at the dispatcher's read of a wait word ends the card's part (R305, R314). -/
def refuseCard (s : State) (x : StoredCard) (code : Nat) (addr : Dword) : State :=
  endPart (logFault s { FaultInfo.blank with addr := addr, launch := x.launch, context := x.context, cause := code, ended := true }) x.part

/-- The wake tables watch a word at a physical address for the dispatcher (R197, R305). -/
def watchedWord (s : State) (context pa : Nat) : Bool :=
  coherentHere s pa || (paPkg pa == s.pkg && paRegion pa == 3) || pa / 4096 == (s.context context).desc.gridPa.toNat / 4096

/-- The dispatcher looks at a word condition of a card: a watched word at any time, another every 5 µs. The value of a word of another package is
what its home answers. -/
def lookAt (words : List (Nat × Nat × Word)) (s : State) (k i : Nat) : State :=
  match tget s.disp.cards k with
  | none => s
  | some x =>
    let c := x.card.cond i
    if condHolds s x i then s.modCard k fun x => x.note i
    else if c.1 != 1 || x.failed i then s
    else if 2 ^ 56 ≤ c.2.1.toNat then refuseCard s x 0x07 c.2.1
    else match unitXlat s (s.context x.context).desc.root .read c.2.1.toNat with
    | .replay => (missPage s 0 x.context (c.2.1.toNat / 2 ^ 16) 0).1.modCard k fun x => x.fail i
    | .cause code => refuseCard s x code c.2.1
    | .held pa kind => askLine s pa kind
    | .ok t pa _ =>
      let mine := paPkg pa == s.pkg
      if mine && lineHeld t pa 0 then askLine t pa 0 else
      let watched := mine && watchedWord s x.context pa
      let due := (x.ready.find? fun r => r.1 == i).all fun r => decide (r.2 + 5 * Config.cyclesPerUs ≤ s.clock)
      let value := if mine then some (BitVec.ofNat 32 (peekNat t pa 4)) else (words.find? fun w => w.1 == k && w.2.1 == i).map (·.2.2)
      if !watched && !due then s
      else match value with
      | none => s
      | some v =>
        if c.2.2.toNat ≤ v.toNat then t.modCard k fun x => x.note i
        else if watched then t
        else t.modCard k fun x => { x with ready := (x.ready.filter fun r => r.1 != i) ++ [(i, s.clock)] }

/-- CARD_CONDITION_POLL (R305): the dispatcher looks at the conditions of the cards in the store. `words` are the values that words of other
packages have, by card and condition. -/
def execCardConditionPoll (words : List (Nat × Nat × Word)) (s : State) : Host.Outcome State Fault Refusal :=
  .next ((s.disp.cards.map (·.1)).foldl (fun s k => lookAt words (lookAt words s k 0) k 1) s)

/-! ### Candidates (R310, R311, R320) -/

/-- What the dispatcher can place: the next convoys of a card in the store, or saved convoys, under the card's or the first convoy's key; `count` of
them together. -/
structure Candidate where
  saved : Bool
  key : Nat
  prio : Nat
  age : Nat
  card : Card
  part : Nat
  clusters : List Nat
  count : Nat
  since : Option Nat
  deriving DecidableEq, Repr

/-- The earlier accesses of the posting wave have been performed (R307). -/
def gateOpen (s : State) (x : StoredCard) : Bool :=
  x.gate.all fun g =>
    if g.1 == 0 then !(s.fabric.sent.any fun p => p.packet.tag == g.2 && decide (p.stage < 2))
    else match tget s.scratchOps g.2 with | some a => a.arrived | none => true

/-- A card is eligible (R305, R307). -/
def eligible (s : State) (x : StoredCard) : Bool := condHolds s x 0 && condHolds s x 1 && gateOpen s x

/-- The convoys that are evicted and restored together with one (R320): those of its part where it is a gang's. -/
def gangOf (s : State) (v : Nat) (c : Convoy) : List Nat :=
  if c.card.gang then (s.convoys.filter fun e => e.2.part == c.part && e.2.card.gang).map (·.1) else [v]

/-- A convoy is saved. -/
def Convoy.isSaved (c : Convoy) : Bool := match c.residence with | .saved _ => true | _ => false

/-- A saved convoy can be restored, where no read of its slot stands at a translation fault: a gang once all its convoys are saved, under its
lowest. -/
def restorable (s : State) (v : Nat) (c : Convoy) : Bool :=
  let g := gangOf s v c
  c.isSaved && g.head? == some v && g.all fun k => (tget s.convoys k).any fun c => c.isSaved && !c.saveWait

/-- Everything that could be placed. -/
def candidates (s : State) : List Candidate :=
  ((s.disp.cards.filter fun e => eligible s e.2).map fun e =>
    { saved := false, key := e.1, prio := e.2.card.prio, age := e.2.age, card := e.2.card, part := e.2.part, clusters := queueClusters e.2.queue
      count := if e.2.card.gang then e.2.last - e.2.next else 1, since := e.2.chosenAt }) ++
  ((s.convoys.filter fun e => restorable s e.1 e.2).map fun e =>
    { saved := true, key := e.1, prio := e.2.prio, age := e.2.age, card := e.2.card, part := e.2.part, clusters := List.range 64
      count := (gangOf s e.1 e.2).length, since := e.2.chosenAt })

/-- One comes before another: higher PRIO, then older (R310). -/
def Candidate.before (x y : Candidate) : Bool := decide (y.prio < x.prio) || (x.prio == y.prio && decide (x.age < y.age))

/-- Puts a candidate into the order. -/
def insertCandidate (x : Candidate) : List Candidate → List Candidate
  | [] => [x]
  | y :: t => if x.before y then x :: y :: t else y :: insertCandidate x t

/-- The candidates in the order in which they are chosen. -/
def ordered (s : State) : List Candidate := (candidates s).foldl (fun l x => insertCandidate x l) []

/-! ### Where convoys fit (R26, R310) -/

/-- A change of the core's quad to the mode is in progress. -/
def comingMode (s : State) (bind core : Nat) : Bool := match (s.quad (coreQuad core)).change with | some c => c.1 == bind | none => false

/-- The core's quad is in the mode, is being changed to it where `level` is 1 or more, or could be where it is 2. -/
def modeAt (s : State) (bind level core : Nat) : Bool :=
  inMode s bind core || (decide (1 ≤ level) && comingMode s bind core) || (decide (2 ≤ level) && canMode s bind core)

/-- The ring position after the last core that the latest convoy of a part takes in a cluster (DESIGN CHOICE, log 39). -/
def nextFit (s : State) (part cluster : Nat) : Nat :=
  match (s.convoys.filter fun e => e.2.part == part && e.2.cluster == cluster && !e.2.isSaved).getLast? with
  | some e => ((e.2.cores.getLast?).getD 0 + 1) % 8
  | none => 0

/-- A run for one convoy in the first cluster that has one: its mode is that of `s0`, the room that of `s`. -/
def findCores (s0 s : State) (x : Candidate) (level : Nat) (allowed : Nat → Bool) : Option (Nat × List Nat) :=
  x.clusters.findSome? fun cl =>
    findRun x.card [cl] (nextFit s x.part cl) fun c => allowed c && modeAt s0 x.card.bind level c && roomOn s x.card c

/-- Runs for `n` convoys together. -/
def findAll (s0 : State) (x : Candidate) (level : Nat) (allowed : Nat → Bool) : Nat → State → Option (List (Nat × List Nat))
  | 0, _ => some []
  | n + 1, s => match findCores s0 s x level allowed with
    | none => none
    | some r => (findAll s0 x level allowed n (placeConvoy s 0 0 x.part x.card 0 r.1 r.2 0)).map (r :: ·)

/-- Runs for a candidate, and the level at which they were found: 0 where it can be placed now, 1 where a change of mode is awaited, 2 where one
must be begun. -/
def findPlan (s : State) (x : Candidate) (allowed : Nat → Bool) : Option (Nat × List (Nat × List Nat)) :=
  (List.range 3).findSome? fun level => (findAll s x level allowed x.count s).map fun r => (level, r)

/-- The core can take a crew of the candidate (R311). A core without room for a crew now is one it cannot use (DEDUCED, log 64). -/
def canUse (s : State) (x : Candidate) (core : Nat) : Bool :=
  x.clusters.contains (coreCluster core) && modeAt s x.card.bind 2 core && roomOn s x.card core

/-- The key of a candidate among those of cards and of convoys. -/
def Candidate.id (x : Candidate) : Nat := 2 * x.key + x.saved.toNat

/-- The clusters that are kept for candidates which still wait. -/
def keptFor (s : State) (l : List Candidate) : List (Nat × Candidate) :=
  s.disp.reserved.filterMap fun r => (l.find? fun x => x.id == r.2).map fun x => (r.1, x)

/-- The cores that a candidate may take (R311), where `first` is the chosen one that could not be placed. -/
def mayTake (s : State) (l : List Candidate) (first : Option Candidate) (x : Candidate) (core : Nat) : Bool :=
  let kept := keptFor s l
  (kept.all fun k => k.2.id == x.id || decide (k.2.prio < x.prio) || coreCluster core != k.1) &&
  (match first with
   | some y => (kept.any fun k => k.2.id == y.id) || !canUse s y core
   | none => true)

/-- What the dispatcher does next: the candidate whose turn it is and which cannot be placed now, and the candidate that can go on, with its plan.
A candidate that awaits a change of mode keeps its turn. -/
def decideTurn (s : State) (l : List Candidate) : Option Candidate → List Candidate → Option Candidate × Option (Candidate × Nat × List (Nat × List Nat))
  | first, [] => (first, none)
  | first, x :: t => match findPlan s x (mayTake s l first x) with
    | some (level, runs) => if level == 1 then decideTurn s l (some (first.getD x)) t else (first, some (x, level, runs))
    | none => decideTurn s l (some (first.getD x)) t

/-- The decision of a state. -/
def turnOf (s : State) : Option Candidate × Option (Candidate × Nat × List (Nat × List Nat)) :=
  let l := ordered s
  decideTurn s l none l

/-- The dispatcher can place now: it places at most one convoy every 200 cycles (R310). -/
def mayPlace (s : State) : Bool := decide (s.disp.nextAt ≤ s.clock) && s.bootState == 1 && !s.power.stopped

/-- Notes when a candidate was chosen. -/
def markChosen (s : State) (x : Candidate) : State :=
  if x.since.isSome then s
  else if x.saved then { s with convoys := tmod s.convoys x.key fun v => { v with chosenAt := some s.clock } }
  else s.modCard x.key fun c => { c with chosenAt := some s.clock }

/-- The quads of a run begin to change to the mode (R26), which takes 1,600 cycles. -/
def beginChange (s : State) (bind : Nat) (cores : List Nat) : State :=
  (dedup (cores.map coreQuad)).foldl (fun s q =>
    let x := s.quad q
    if x.mode == bind || x.change.isSome then s
    else { s with quads := tset Quad.initial s.quads q { x with change := some (bind, s.clock + 1600) } }) s

/-- Time passes before the next placement, and the cluster kept for the candidate is free again. -/
def placedNow (s : State) (x : Candidate) (n : Nat) : State :=
  { s with disp := { s.disp with
      nextAt := s.clock + 200 * n
      reserved := s.disp.reserved.filter fun r => r.2 != x.id } }

/-- Places one convoy of a card (R310), after the acquire of its word conditions (R305). -/
def placeNext (s : State) (k : Nat) (run : Nat × List Nat) : State :=
  match tget s.disp.cards k with
  | none => s
  | some x =>
    let s := if x.card.w0kind == 1 || x.card.w1kind == 1 then run.2.foldl (fun s c => acquireClean s c 4) s else s
    let s := placeConvoy s x.context x.launch x.part x.card (BitVec.ofNat 64 x.next) run.1 run.2 x.age
    let s := { s with disp := { s.disp with parts := tmod s.disp.parts x.part fun p => { p with placed := p.placed + 1 } } }
    let s := progress s x.part
    if x.next + 1 < x.last then s.modCard k fun x => { x with next := x.next + 1, chosenAt := none }
    else bumpRelease { s with disp := { s.disp with cards := tdel s.disp.cards k } } (s.context x.context).desc.gridPa 31

/-- CONVOY_PLACEMENT (R310, R311): the dispatcher places the convoys of the candidate whose turn it is, or begins the change of mode that they
need. -/
def execConvoyPlacement (s : State) : Host.Outcome State Fault Refusal :=
  if !mayPlace s then .next s
  else
    let d := turnOf s
    let s1 := match d.1 with | some x => markChosen s x | none => s
    .next (match d.2 with
      | none => s1
      | some (x, level, runs) =>
        if level == 2 then beginChange (markChosen s1 x) x.card.bind (runs.flatMap (·.2))
        else if x.saved then s1
        else placedNow (runs.foldl (fun s r => placeNext s x.key r) s1) x runs.length)

/-- QUAD_MODE_CHANGE_DONE (R26). -/
def execQuadModeChangeDone (s : State) : Host.Outcome State Fault Refusal :=
  match s.quads.find? fun e => match e.2.change with | some c => decide (c.2 ≤ s.clock) | none => false with
  | some (q, { mode := _, change := some c }) =>
    .next { s with quads := tset Quad.initial s.quads q { mode := c.1, change := none }, epoch := s.epoch + 1 }
  | _ => .next s

/-! ### Reservation (R311) -/

/-- How many positions of a run cannot take a crew of a candidate now. -/
def runLacks (s : State) (x : Candidate) (run : List Nat) : Nat := (run.filter fun c => !(modeAt s x.card.bind 2 c && roomOn s x.card c)).length

/-- The least number of positions that cannot take a crew, over the runs that a convoy could occupy in a cluster. -/
def clusterLacks (s : State) (x : Candidate) (cl : Nat) : Option Nat :=
  (ringRuns cl x.card.bind x.card.crews).foldl (fun m r =>
    if r.all fun c => offered s c x.card.bind then some (min (runLacks s x r) (m.getD (runLacks s x r))) else m) none

/-- The cluster nearest to fitting a candidate. -/
def nearest (s : State) (x : Candidate) : Option Nat :=
  (x.clusters.foldl (fun (m : Option (Nat × Nat)) cl => match clusterLacks s x cl, m with
    | none, m => m
    | some n, none => some (n, cl)
    | some n, some b => if n < b.1 then some (n, cl) else some b) none).map (·.2)

/-- PLACEMENT_RESERVATION (R311): a candidate that has been chosen for 50 µs and cannot be placed has the nearest cluster kept for it. -/
def execPlacementReservation (s : State) : Host.Outcome State Fault Refusal :=
  let l := ordered s
  let waits (x : Candidate) : Bool := (x.since.any fun t => decide (t + 50 * Config.cyclesPerUs ≤ s.clock)) &&
    !(keptFor s l).any fun k => k.2.id == x.id
  match l.find? waits with
  | none => .next s
  | some x => match nearest s x with
    | none => .next s
    | some cl => .next { s with disp := { s.disp with reserved := (s.disp.reserved.filter fun r => l.any fun y => y.id == r.2) ++ [(cl, x.id)] } }

/-! ### Retirement, completion, watchdog -/

/-- The convoy has a matrix instruction, a chain command or a collective that has not completed (R49, R318). -/
def convoyBusy (s : State) (v : Nat) : Bool :=
  (s.cores.any fun e => (e.2.queue ++ e.2.running.toList).any (fun o => keyConvoy o.wave == v) || e.2.chain.any fun x => x.convoy == v) ||
  s.collectives.any fun e => e.2.convoy == v

/-- The stores of a convoy to peer scratch that are on their way arrive before it leaves (R112): one that a window refuses is reported (R330). -/
def peersArrive (s : State) (v : Nat) : State :=
  (s.scratchOps.filter fun e => keyConvoy e.2.wave == v && !e.2.arrived).foldl (fun s e => accessArrives s e.1) s

/-- The waves of a convoy, as its part keeps them for late reports (R330). -/
def gonePart (s : State) (v : Nat) (c : Convoy) (p : Part) : Part :=
  { p with retired := p.retired + 1
           gone := p.gone ++ (s.waves.filter fun e => keyConvoy e.1 == v).map fun e => (e.1, e.2.slot, c.cluster, c.index) }

/-- CONVOY_RETIRE (R49): a convoy whose waves have ended and whose work is done leaves its cores. -/
def execConvoyRetire (s : State) : Host.Outcome State Fault Refusal :=
  match s.convoys.find? fun e => e.2.residence == .placed && (s.waves.all fun w => keyConvoy w.1 != e.1 || w.2.ended) && !convoyBusy s e.1 with
  | none => .next s
  | some (v, c) =>
    let s := peersArrive s v
    let s := { s with epoch := s.epoch + 1, disp := { s.disp with parts := tmod s.disp.parts c.part (gonePart s v c) } }
    .next (progress (removeConvoy s v) c.part)

/-- What a part's waves have sent to other packages has committed (R313). -/
def partSettled (s : State) (p : Part) : Bool :=
  s.fabric.sent.all fun x => match x.wave with
    | some k => !p.uids.contains (keyConvoy k) || decide (2 ≤ x.stage)
    | none => match x.convoy with
      | some v => !p.uids.contains v || decide (2 ≤ x.stage)
      | none => true

/-- A part is complete and its stamp can be written. -/
def partDone (s : State) (p : Part) : Bool := p.placed == p.total && p.retired == p.total && !p.waiting && partSettled s p

/-- The part leaves the dispatcher, and its host is told (R313, R381). -/
def closePart (s : State) (k : Nat) (p : Part) : State :=
  let s := { s with disp := { s.disp with parts := tdel s.disp.parts k } }
  if p.hostLaunch then postCompletion s (p.hostSeq.getD 0) p.launch 0 else s

/-- CARD_COMPLETION (R313): the stamp is written, as a release at pod scope. -/
def execCardCompletion (s : State) : Host.Outcome State Fault Refusal :=
  match s.disp.parts.find? fun e => partDone s e.2 with
  | none => .next s
  | some (k, p) =>
    if p.card.stampAddr == 0 then .next (closePart s k p)
    else
      let t := (List.range 4).foldl (fun s i => cleanStack s i 4) s
      if (List.range 4).any (backsOut t) then .next (if t.fabric.sent.length == s.fabric.sent.length then s else t)
      else match unitWrite t p.context (t.context p.context).desc (p.card.stampAddr + BitVec.ofNat 64 (8 * p.rank)) (bytesOf 8 p.card.stampVal.toNat) false with
      | .hold _ pa kind => .next (askLine s pa kind)
      | .absent t => .next { t with disp := { t.disp with parts := tmod t.disp.parts k fun p => { p with waiting := true } } }
      | .ok t | .cause t _ => .next { (closePart t k p) with epoch := s.epoch + 1 }

/-- WATCHDOG_EXPIRY (R314): a part that has made no progress for the WATCHDOG time of its context ends.
The record's CAUSE is 0 (DESIGN CHOICE, log 63). -/
def execWatchdogExpiry (s : State) : Host.Outcome State Fault Refusal :=
  let late (p : Part) : Bool :=
    let n := (s.context p.context).desc.watchdog
    n != 0 && decide (p.progressAt + n * 1000 * Config.cyclesPerUs ≤ s.clock)
  match s.disp.parts.find? fun e => late e.2 with
  | none => .next s
  | some (k, p) =>
    .next { (endPart (logFault s { FaultInfo.blank with launch := p.launch, context := p.context, ended := true }) k) with epoch := s.epoch + 1 }

end Sys2Proof.Machine
end

