-- ==== Sys2Proof/Machine/Fabric.lean ====
section
/-! DEFINITION. The fabric (R250 to R257): routing of flits, arrival, answers and resends of packets, and their commit at this package (R181 to
R185). -/

namespace Sys2Proof.Machine

/-! ### Ports (R250, R251, R376) -/

/-- A fabric port. -/
def State.port (s : State) (p : Nat) : Port := tgetD s.fabric.ports p Port.initial

/-- Changes a port. -/
def State.modPort (s : State) (p : Nat) (f : Port → Port) : State :=
  { s with fabric := { s.fabric with ports := tset Port.initial s.fabric.ports p (f (s.port p)) } }

/-- The package that a port reaches: the cabled peer of ports 0 to 21, or what the driver has set for an enabled spare port. -/
def portReaches (s : State) (p : Nat) : Option Nat :=
  if p < 22 then (match portPeer s.pkg p with | some q => if inPod s q then some q else none | none => none)
  else if p < 24 && (s.port p).enabled then some (s.port p).peer else none

/-- The port can carry a flit: it reaches a package, and neither its link nor that package is lost (R269, R282). -/
def portUp (s : State) (p : Nat) : Bool :=
  match portReaches s p with
  | some q => !(s.port p).down && !isLost s q
  | none => false

/-- The minimal outputs towards a package (R253), and a spare port that reaches it (R251). -/
def minimalPorts (s : State) (dst : Nat) : List Nat :=
  let direct := match portTo s.pkg dst with
    | some p => [p]
    | none => ((portTo s.pkg (8 * (s.pkg / 8) + dst % 8)).toList ++ (portTo s.pkg (8 * (dst / 8) + s.pkg % 8)).toList)
  direct ++ [22, 23].filter fun p => portReaches s p == some dst

/-- One of several outputs: the spec does not say which. -/
def pickPort (s : State) (l : List Nat) : Nat := l.getD ((Config.freeWord s.draws 640 0).toNat % max 1 l.length) 24

/-- A flit, with its input port, is served before another where both want one output (R253): class 0 first, then the higher hop count, then the lower
input port. -/
def servedBefore (a b : Flit × Nat) : Bool :=
  if (a.1.cls == 0) != (b.1.cls == 0) then a.1.cls == 0
  else if a.1.hops != b.1.hops then decide (b.1.hops < a.1.hops) else decide (a.2 < b.2)

/-- The flit of a list that is served first. -/
def firstServed : List (Flit × Nat) → Option (Flit × Nat)
  | [] => none
  | x :: rest => match firstServed rest with
    | none => some x
    | some y => some (if servedBefore y x then y else x)

/-- The free minimal outputs of a flit. -/
def minimalFree (s : State) (free : List Nat) (f : Flit) : List Nat := (minimalPorts s f.dst).filter free.contains

/-- The flit that is served next (R253, R257): the first in the order of R253, but that where flits of classes 1 and 2 want one output, one of class 2
goes after seven of class 1 (DEDUCED, log 95). -/
def nextFlit (s : State) (free : List Nat) (l : List (Flit × Nat)) : Option (Flit × Nat) :=
  match firstServed l, firstServed (l.filter fun x => x.1.cls == 1), firstServed (l.filter fun x => decide (2 ≤ x.1.cls)) with
  | some x, some a, some b =>
    let both := (minimalFree s free a.1).filter (minimalFree s free b.1).contains
    if x.1.cls == 0 || both.isEmpty then some x else some (if both.any fun p => decide (7 ≤ (s.port p).share) then b else a)
  | x, _, _ => x

/-- A flit leaves by an output, or reaches the own ingress, 24. -/
def flitOut (s : State) (f : Flit) (p : Nat) : State :=
  let s := { s with
    fabric := { s.fabric with routed := s.fabric.routed ++ [(f, p)], ingress := if p == 24 then s.fabric.ingress ++ [f] else s.fabric.ingress }
    draws := s.draws + 1 }
  let share (n : Nat) : Nat := if f.cls == 1 then min 7 (n + 1) else if 2 ≤ f.cls then 0 else n
  if p < 24 then s.modPort p fun x => { x with flitsOut := x.flitsOut + 1, share := share x.share } else s

/-- One flit is routed (R253, R254): by a minimal output that is free, else by any free one with its hop count one higher. It is discarded at 15 hops, and
where its package is lost (R269). One that finds no free output at all is dropped, for a switch never holds a flit (DESIGN CHOICE, log 93). With the outputs
still free. -/
def routeFlit (s : State) (free : List Nat) (f : Flit) : State × List Nat :=
  let leave (f : Flit) (p : Nat) : State × List Nat := (flitOut s f p, free.filter (· != p))
  let best := minimalFree s free f
  if 15 ≤ f.hops || isLost s f.dst then (s, free)
  else if f.dst == s.pkg then (flitOut s f 24, free)
  else if !best.isEmpty then leave f (pickPort s best)
  else if free.isEmpty || 15 ≤ f.hops + 1 then (s, free)
  else leave { f with hops := f.hops + 1 } (pickPort s free)

/-- Routes the flits of a cycle in the order of their service. -/
def routeAll : Nat → State → List Nat → List (Flit × Nat) → State
  | 0, s, _, _ => s
  | n + 1, s, free, l => match nextFlit s free l with
    | none => s
    | some x =>
      let r := routeFlit s free x.1
      routeAll n r.1 r.2 (l.erase x)

/-- FLIT_ROUTE (R253, R254, R257): a flit that reaches the switch leaves it, with the others of its cycle. `free` are the outputs that are not taken; one
that finds none is dropped (DESIGN CHOICE, log 93). -/
def execFlitRoute (flit : Flit) (inPort : Nat) (free : BitVec 24) (s : State) (others : List (Flit × Nat) := []) : Host.Outcome State Fault Refusal :=
  let flits := (flit, inPort) :: others
  let count (s : State) (x : Flit × Nat) : State := s.modPort x.2 fun p => if x.2 < 24 then { p with flitsIn := p.flitsIn + 1 } else p
  .next (routeAll flits.length (flits.foldl count s) ((bitsSet free).filter (portUp s)) flits)

/-! ### Packets and flits (R252) -/

/-- Bytes of payload of a packet (R252). Those of an atomic are taken to fit, whatever its lanes (DESIGN CHOICE, log 96). -/
def payloadSize : Payload → Nat
  | .store cells => cells.length
  | .atomic _ width _ items => min 256 (2 * width * items.length)
  | .chunk _ _ _ elems _ => 4 * elems.length
  | .member _ _ _ _ _ bytes => bytes.length
  | .row _ _ _ infmt _ elems => (if infmt then 4 else 2) * elems.length
  | .read _ _ => 0

/-- The tag that a packet's flits carry: no two sources share one (DESIGN CHOICE, log 96). -/
def flitTag (p : Packet) : Nat := 128 * p.tag + p.src

/-- The flits of a packet (R252): the header's, and one for each 64 bytes of payload. -/
def flitsOf (p : Packet) : List Flit :=
  (List.range (1 + (payloadSize p.payload + 63) / 64)).map fun i => { dst := p.dst, cls := p.cls, hops := 0, tag := flitTag p, index := i }

/-- The ingress has every flit of a packet, which has at most five (R252). -/
def reassembled (s : State) (p : Packet) : Bool :=
  decide ((flitsOf p).length ≤ 5) && (flitsOf p).all fun f => s.fabric.ingress.any fun g => g.tag == f.tag && g.index == f.index

/-- The flits of a packet leave the ingress. -/
def takeFlits (s : State) (p : Packet) : State :=
  { s with fabric := { s.fabric with ingress := s.fabric.ingress.filter fun g => g.tag != flitTag p } }

/-- A package has been heard on the fabric (R269). -/
def hear (s : State) (p : Nat) : State := { s with fabric := { s.fabric with heard := tput s.fabric.heard p s.clock } }

/-! ### Packets that arrive (R183, R255, R256) -/

/-- The port whose counters a packet of a package moves: the direct one, else the first minimal one (DESIGN CHOICE, log 46). -/
def countPort (s : State) (q : Nat) : Nat := (minimalPorts s q).headD 24

/-- Answers a packet (R255). -/
def answer (s : State) (p : Packet) (code : Nat) : State :=
  let s := { s with fabric := { s.fabric with replies := s.fabric.replies ++ [(p.src, p.tag, code)] } }
  let port := countPort s p.src
  if code != 0 && port < 24 then s.modPort port fun x => { x with nacks := x.nacks + 1 } else s

/-- A chunk beyond the 64 that its session can hold is refused (R275). -/
def chunkRefused (s : State) (p : Packet) : Bool :=
  match p.payload with
  | .chunk session index _ _ _ => (tget s.sessions session).any fun y => !y.fits index
  | _ => false

/-- PACKET_ARRIVAL (R183, R252, R255, R256): a packet whose flits are all there is checked; an intact one enters the reorder buffer, stamped with the applied milestone; a duplicate is acknowledged
again. -/
def execPacketArrival (packet : Packet) (s : State) : Host.Outcome State Fault Refusal :=
  let whole := packet.dst == s.pkg && packet.src != s.pkg && !isLost s packet.src && reassembled s packet
  if !whole then .next s else
  let s := hear (takeFlits s packet) packet.src
  let f := s.fabric
  if !packet.crcOk then .next (answer s packet 1)
  else if f.arrived.contains (packet.src, packet.tag) then .next (answer s packet 0)
  else if Config.reorderEntries ≤ f.arrivals.length || chunkRefused s packet then .next (answer s packet 2)
  else
    let a : Arrival := { packet := packet, stamp := s.ring.applied }
    let s := { s with fabric := { f with
      arrivals := f.arrivals ++ [a], arrived := f.arrived ++ [(packet.src, packet.tag)] } }
    .next (answer { s with epoch := s.epoch + 1 } packet 0)

/-! ### Packets of this package (R255) -/

/-- Changes the sent packet of a tag. -/
def modSent (s : State) (tag : Nat) (f : SentPacket → SentPacket) : State :=
  { s with fabric := { s.fabric with sent := replaceFirst (fun p => p.packet.tag == tag) f s.fabric.sent } }

/-- The sent packet of a tag that has not been acknowledged. -/
def waitingPacket (s : State) (tag : Nat) : Option SentPacket := s.fabric.sent.find? fun p => p.packet.tag == tag && p.stage == 0

/-- PACKET_ACK (R255, R269): the packet has arrived, and its copy is no longer kept for sending. -/
def execPacketAck (tag : Nat) (s : State) : Host.Outcome State Fault Refusal :=
  match waitingPacket s tag with
  | none => .next s
  | some p => .next { (hear (modSent s tag fun p => { p with stage := 1, backing := false }) p.packet.dst) with epoch := s.epoch + 1 }

/-- The packet is sent again (R255). -/
def resend (s : State) (p : SentPacket) : State :=
  let sent (q : SentPacket) : SentPacket := { q with sentAt := s.clock, backing := false }
  let s := modSent s p.packet.tag sent
  let port := countPort s p.packet.dst
  if port < 24 then s.modPort port fun x => { x with resends := x.resends + 1 } else s

/-- PACKET_NACK (R255): a corrupt packet is sent again at once; after a full buffer the resend waits 1 µs, and twice as long each further time, up to
64 µs. -/
def execPacketNack (tag : Nat) (bufferFull : Bool) (s : State) : Host.Outcome State Fault Refusal :=
  match waitingPacket s tag with
  | none => .next s
  | some p =>
    let s := hear s p.packet.dst
    if bufferFull then
      let wait := if p.backoff == 0 then 1 else min 64 (2 * p.backoff)
      .next (modSent s tag fun p => { p with backoff := wait, backing := true, sentAt := s.clock })
    else .next (resend s p)

/-- RESEND_TIMEOUT (R255): no answer within the resend time, or the end of a back-off. -/
def execResendTimeout (tag : Nat) (s : State) : Host.Outcome State Fault Refusal :=
  match waitingPacket s tag with
  | none => .next s
  | some p =>
    let us := if p.backing then p.backoff else if p.packet.cls == 0 then 2 else 20
    .next (if s.clock < p.sentAt + us * Config.cyclesPerUs then s else resend s p)

/-! ### Commit (R181, R182, R185) -/

/-- An earlier packet of an ordered flow of this package has not committed. -/
def flowBehind (s : State) (p : SentPacket) : Bool :=
  p.packet.ordered && s.fabric.sent.any fun q => q.packet.dst == p.packet.dst && q.packet.stream == p.packet.stream &&
    q.packet.context == p.packet.context && decide (q.packet.seq < p.packet.seq)

/-- The source learns that its packet has committed. -/
def commitOwn (s : State) (tag : Nat) : State :=
  match s.fabric.sent.find? fun p => p.packet.tag == tag with
  | none => s
  | some p =>
    if p.stage == 0 || flowBehind s p then s
    else { s with fabric := { s.fabric with sent := dropFirst (fun q => q.packet.tag == tag) s.fabric.sent }, epoch := s.epoch + 1 }

/-- The flow of an arrival, as this package numbers them. -/
def arrivalFlow (p : Packet) : Nat := flowKey p.context p.stream p.src

/-- An arrival may commit (R181, R182, R185): its flow has reached it, its horizon is met by the arrivals before it (DEDUCED, log 47), and no home holds its
lines. -/
def mayCommit (s : State) (a : Arrival) : Bool :=
  let p := a.packet
  let before := s.fabric.arrivals.takeWhile fun b => b != a
  (!p.ordered || p.seq == tgetD s.fabric.expected (arrivalFlow p) 0) && (before.all fun b => !decide (b.stamp.toNat < p.horizon.toNat)) &&
  (payloadLines p.payload).all fun l => !isSwitching s (128 * l) && !leaseBlocks s l 1 (.package p.src)

/-- An address of this package's memory, its host's included. -/
def ownAddr (s : State) (a : Nat) : Bool := paPkg a == s.pkg && offsetOk (paRegion a) (paOffset a) && (hasMode a || paRegion a == 8)

/-- One atomic of a packet, at its home (R166, R181, R215). -/
def remoteAtomic (op width : Nat) (float : Bool) (s : State) (x : Nat × Dword × Dword) : State :=
  if !ownAddr s x.1 then s
  else
    let old := leNat ((List.range width).map fun i => currentByte s (x.1 + i))
    let new := match barrierAtomOp op x.2.1 x.2.2 old with
      | some b => b
      | none => atomNew op width float old x.2.1.toNat x.2.2.toNat
    noteWritePa (agentWrite s none x.1 (bytesOf width new)) x.1 width

/-- A part of a chunk of a member reaches a session of the switch (R275): it waits for the session, for the agreement on the losses that it counts, and for
room; the contribution counts once all its parts have come. -/
def commitChunk (s : State) (src session index part : Nat) (elems : List Word) (round : Nat) : Option State :=
  match tget s.sessions session with
  | none => none
  | some y => match tget s.collectives y.collective with
    | none => none
    | some x =>
      let port := (portTo s.pkg src).getD 25
      if round < x.lost.length then some s
      else if x.lost.length < round then none
      else if !awaitsChunk x y index port then some s
      else if !y.fits index then none
      else
        let mine := y.parts.filter fun e => e.1 == index && e.2.1 == port
        let all := joinParts ((x.chunkLen index + 255) / 256) ((part, elems) :: mine.map (·.2.2))
        if all.length * elemWord x.fmt == x.chunkLen index then
          some (putChunk s session index port { y with parts := y.parts.filter fun e => !(e.1 == index && e.2.1 == port) } all)
        else some { s with sessions := tput s.sessions session { y with parts := y.parts ++ [(index, port, part, elems)] } }

/-- A part of a chunk reaches a member's instance of a collective (R281): it waits for the instance, and for the agreement on the losses that it counts (DEDUCED,
log 99); the chunk counts once all its parts have come. -/
def commitMember (s : State) (context collid round index part : Nat) (bytes : List Byte) (poison : Bool) : Option State :=
  match s.collectives.find? fun e => e.2.context == context && e.2.collid == collid && !e.2.reused with
  | none => if s.collectives.any fun e => e.2.context == context && e.2.collid == collid then some s else none
  | some (id, x) =>
    if round < x.lost.length || x.done.contains index || x.stopped then some s
    else if x.lost.length < round then none
    else
      let bad := if poison then (List.range bytes.length).map (index * x.chunk + 256 * part + ·) else []
      let mine := (index, part, bytes) :: x.pieces
      let all := joinParts ((x.chunkLen index + 255) / 256) ((mine.filter fun e => e.1 == index).map (·.2))
      let x := { x with bad := x.bad ++ bad, since := s.clock }
      let x :=
        if all.length == x.chunkLen index then { x with got := tput x.got index all, pieces := x.pieces.filter fun e => e.1 != index }
        else { x with pieces := mine }
      some { s with collectives := tput s.collectives id x }

/-- Performs a packet at this package; none where it must wait: an addition that would overflow PENDING (R214), a chunk. A Vat row is the Vat's own (R290). -/
def performPacket (s : State) (p : Packet) : Option State :=
  match p.payload with
  | .store cells =>
    let mine := cells.filter fun c => ownAddr s c.1
    let s := mine.foldl (fun s c => noteWritePa (pokeByte s c.1 c.2) c.1 1) s
    let s := (dedup (mine.map fun c => lineOf c.1)).foldl (fun s l => noteWrite s none l) s
    some (if p.poison then { s with poisoned := dedup (s.poisoned ++ mine.map fun c => lineOf c.1) } else s)
  | .atomic op width float items =>
    if items.any fun x => ownAddr s x.1 && barrierHeld op x.2.1 (leNat ((List.range width).map fun i => currentByte s (x.1 + i))) then none
    else some (items.foldl (remoteAtomic op width float) s)
  | .chunk session index part elems round => if p.cls != 0 then some s else commitChunk s p.src session index part elems round
  | .member context collid round index part bytes => commitMember s context collid round index part bytes p.poison
  | .row .. => some s
  | .read .. => some s

/-- A packet of another package commits; the home asks back the leases that stand in its way, once (R150). -/
def commitArrival (s : State) (a : Arrival) : State :=
  if !mayCommit s a then (payloadLines a.packet.payload).foldl (fun s l => recallHolders s l 1 (.package a.packet.src)) s
  else match performPacket s a.packet with
    | none => s
    | some t =>
      let key := arrivalFlow a.packet
      { t with
        fabric := { t.fabric with
          arrivals := dropFirst (fun b => b == a) t.fabric.arrivals
          expected := tput t.fabric.expected key (max (tgetD t.fabric.expected key 0) (a.packet.seq + 1)) }
        epoch := t.epoch + 1 }

/-- PACKET_COMMIT (R181, R182): a packet of this package has committed at its destination, or one that has arrived commits here. -/
def execPacketCommit (src tag : Nat) (s : State) : Host.Outcome State Fault Refusal :=
  if src == s.pkg then .next (commitOwn s tag)
  else match s.fabric.arrivals.find? fun a => a.packet.src == src && a.packet.tag == tag with
    | none => .next s
    | some a => .next (commitArrival s a)

/-- Every link towards a package is lost (R282): no minimal output can carry a flit. -/
def linksLost (s : State) (p : Nat) : Bool := (minimalPorts s p).all fun k => !portUp s k

/-- A chunk from a member is overdue (R282): from the owner, one that this package waits for; at the owner, one of an input of its session. -/
def chunkOverdue (s : State) (x : Collective) (p index : Nat) : Bool :=
  (p == x.owner && decide (index < x.chunks) && !x.done.contains index && (x.nextChunk s).isNone && decide (x.since + x.limit ≤ s.clock)) ||
  (x.session.bind fun k => tget s.sessions k).any fun y => (portTo s.pkg p).any fun port => inputLate s y port index

/-- MEMBER_OVERDUE (R282): every link to a member is lost, or a chunk from it, that of the index, is overdue. -/
def execMemberOverdue (collective package index : Nat) (s : State) : Host.Outcome State Fault Refusal :=
  match tget s.collectives collective with
  | none => .next s
  | some x => .next (if linksLost s package || chunkOverdue s x package index then dropMember s collective package else s)

/-- LINK_LOSS (R253, R282): a port's link is lost, and traffic goes round it. -/
def execLinkLoss (port : Nat) (s : State) : Host.Outcome State Fault Refusal :=
  .next (if port < 24 then s.modPort port fun p => { p with down := true } else s)

end Sys2Proof.Machine
end

