-- ==== Sys2Proof/Machine/Observe.lean ====
section
/-! DEFINITION. Observation: PC sampling (R359 to R361), the debugger's commands (R349 to R356), snapshots and triggers (R362, R363), and
checkpoints (R364 to R367). -/

namespace Sys2Proof.Machine

/-! ### PC sampling -/

/-- The stall reason of a path that has not issued (R361). -/
def stallCode (w : Wave) (p : Path) : Nat :=
  if p.hold == .debug then 25 else if w.park.isSome then 24 else if w.asleep then 23
  else match p.hold with
    | .regang => 22
    | .joint _ _ => 21
    | .wait r _ _ => r
    | _ => 1

/-- The resident waves of an issue scheduler, by slot. -/
def residentWaves (s : State) (core k : Nat) : List (Nat × Nat × Wave) :=
  let mine := s.waves.filter fun e => e.2.core == core && e.2.slot % 2 == k && isPlaced s e.1 && !e.2.ended
  (List.range 24).flatMap fun slot => (mine.filter fun e => e.2.slot == slot).map fun e => (slot, e.1, e.2)

/-- The sampling interval of a core (R360): the smallest that a resident context has set. -/
def sampleLog (s : State) (core : Nat) : Option Nat :=
  let logs := (s.waves.filter fun e => e.2.core == core && isPlaced s e.1 && !e.2.ended).map fun e => (s.context (waveContext s e.1)).log2n
  (logs.filter (· != 0)).foldl (fun (m : Option Nat) x => some (match m with | none => x | some y => min x y)) none

/-- PC_SAMPLE (R360): at its interval a scheduler picks the next of its waves, and, where the wave's context has sampling on, records its lowest
valid path. -/
def execPcSample (core sched : Nat) (s : State) : Host.Outcome State Fault Refusal :=
  let sc := vget (s.core core).scheds sched Sched.initial
  match sampleLog s core with
  | none => .next s
  | some n =>
    if s.clock % 2 ^ n != 0 || sc.sampledAt == s.clock then .next s
    else
      let ws := residentWaves s core sched
      match (match ws.find? fun e => decide (sc.rotation ≤ e.1) with | some e => some e | none => ws.head?) with
      | none => .next s
      | some (slot, key, w) =>
        let c := s.core core
        let s := s.setCore core { c with scheds := c.scheds.setIfInBounds sched { sc with rotation := slot + 1, sampledAt := s.clock } }
        let ctx := waveContext s key
        let p := w.div.valid.headD 0
        let issued := sc.last == some (key, p) && sc.issuedAt == s.clock + 1
        if (s.context ctx).log2n == 0 then .next s
        else .next (writeSample s ctx (pathRecord s key p 0 0 (if issued then 0 else stallCode w (w.div.path p)) issued))

/-! ### The debugger (R349 to R356) -/

/-- The debugger holds rights over the wave's context, and the wave stands on its core. -/
def debugMay (s : State) (wave : Nat) : Bool := (s.context (waveContext s wave)).rights && isPlaced s wave

/-- A path halted by debug goes on, its breakpoints unchecked at its first instruction; `step` halts it after that (R354). -/
def releasePath (p : Path) (step : Bool) (stamp : Nat) : Path :=
  if p.hold == .debug then { p with hold := .none, skipBreak := true, stepping := step, readyAt := stamp } else p

/-- Resumes a path. -/
def resumeDebug (s : State) (wave path : Nat) (step : Bool) : State :=
  if debugMay s wave then
    { (s.modWave wave fun w => { w with div := w.div.setPath path (releasePath (w.div.path path) step (s.epoch + 1)) }) with epoch := s.epoch + 1 }
  else s

/-- DEBUG_RESUME (R354): RESUME. -/
def execDebugResume (wave path : Nat) (s : State) : Host.Outcome State Fault Refusal := .next (resumeDebug s wave path false)

/-- DEBUG_STEP (R354): STEP. -/
def execDebugStep (wave path : Nat) (s : State) : Host.Outcome State Fault Refusal := .next (resumeDebug s wave path true)

/-- Every path of the wave is halted (R356). -/
def allHalted (w : Wave) : Bool := !w.div.valid.isEmpty && w.div.valid.all fun p => (w.div.path p).hold == .debug

/-- The field exists (R336). -/
def shadowIndexOk (sel i : Nat) : Bool :=
  if sel ≤ 4 then decide (i < 8) else if sel ≤ 6 then decide (i < 32) else if sel == 7 then decide (i < 8) else if sel == 8 then decide (i < 128)
  else sel == 9 && decide (i < 24)

/-- A field of the divergence state after an edit: none where the edit is refused (R336, R356). An empty entry at the top of a stack is popped
before the strand's next instruction (R45). -/
def editDiv (d : Div) (sel i : Nat) (v : Dword) : Option Div :=
  if !shadowIndexOk sel i || !shadowValueOk sel v.toNat || !shadowStepOk d sel i v.toNat then none
  else
    let d := setShadowField d sel i v.toNat
    let d : Div := { d with strands := d.strands.map Strand.endDead }
    if d.ok then some { d with strands := d.strands.map (Strand.popEmpty 4) } else none

/-- An edit of a halted wave; none where it is refused. -/
def editWave (w : Wave) : DebugChange → Option Wave
  | .field sel i v => (editDiv w.div sel i v).map fun d => { w with div := d }
  | .vlane r l v => if r < 256 && l < 32 then
      some (w.setVreg r { w.vreg r with
        lanes := lanesOf fun L => if L == l then v else lane (w.vreg r).lanes L, undef := (w.vreg r).undef &&& ~~~(15#128 <<< (4 * l)) }) else none
  | .vtag r t => if r < 256 then some (w.setVreg r { w.vreg r with tag := t }) else none
  | .scalar r v => if r < 64 then some (w.setSreg r v) else none
  | .pred r v => if r < 8 then some (w.setPreg r v) else none

/-- DEBUG_EDIT (R356): accepted while every path of the wave is halted; it sets MODIFIED. -/
def execDebugEdit (wave : Nat) (change : DebugChange) (s : State) : Host.Outcome State Fault Refusal :=
  match tget s.waves wave with
  | none => .next s
  | some w =>
    if !debugMay s wave || !allHalted w then .next s
    else match editWave w change with
      | none => .next s
      | some w =>
        let ctx := waveContext s wave
        let s := s.setWave wave w
        .next (s.setContext ctx { s.context ctx with modified := true })

/-- RIGHTS_REVOKE (R350): the context's breakpoints are disabled, and its halted paths released as by a resume with skip. -/
def execRightsRevoke (context : Nat) (s : State) : Host.Outcome State Fault Refusal :=
  let off (b : Breakpoint) : Breakpoint :=
    if bits b.cond.toNat 0 12 == context then { b with cond := b.cond &&& ~~~(1#64 <<< 27) } else b
  let free (key : Nat) (w : Wave) : Wave :=
    if waveContext s key == context then
      { w with div := { w.div with paths := w.div.paths.map fun p => { releasePath p false (s.epoch + 1) with stepping := false } } }
    else w
  let s := { s with
    cores := tmap s.cores fun _ c => { c with breakpoints := tmap c.breakpoints fun _ b => off b }
    waves := tmap s.waves free
    epoch := s.epoch + 1 }
  .next (s.setContext context { s.context context with rights := false })

/-! ### Snapshots (R362, R363, R376) -/

/-- The live counters by their offset (R376), but for REGGATE. -/
def liveCounters (s : State) : List (Nat × Nat) :=
  let v := s.vat
  [(0x1000, s.logs.faultSeq.toNat), (0x1008, s.logs.faultLost.toNat), (0x1010, s.logs.errorSeq.toNat), (0x1018, s.ring.appliedCount.toNat),
   (0x1020, s.ring.errors.toNat), (0x1028, s.ring.gapFetches.toNat), (0x1030, s.ring.recoveries.toNat)] ++
  (List.range 4).map (fun k => (0x1040 + 8 * k, (s.stack k).wakeovf.toNat)) ++
  (List.range 24).flatMap (fun p =>
    let x := s.port p
    [(0x1100 + 32 * p, x.flitsOut), (0x1108 + 32 * p, x.flitsIn), (0x1110 + 32 * p, x.nacks), (0x1118 + 32 * p, x.resends)]) ++
  [(0x1400, freeSlots s), (0x1408, v.freePages), (0x1410, v.late.toNat), (0x1418, v.rejected.toNat), (0x1420, v.duplicate.toNat),
   (0x1428, v.refused.toNat)] ++
  s.contexts.map fun e => (0x2000 + 8 * e.1, pack [(0, e.2.sampDrop.toNat), (32, e.2.evDrop.toNat)])

/-- Brings every REGGATE counter up to date (R34). -/
def countGates (s : State) : State := countGatesOf s (List.range 512)

/-- A trigger latches every copy together (R362). -/
def latchSnapshot (s : State) (tag : Dword) : State :=
  let s := countGates s
  let t := (s.cores.map fun e => (8 * e.1, e.2.reggate.toNat)) ++ liveCounters s
  let counters := t.foldl (fun (m : Table Dword) e => tset 0 m e.1 (BitVec.ofNat 64 e.2)) []
  { s with snapshot := { clock := BitVec.ofNat 64 s.clock, milestone := s.ring.applied, tag := tag, count := s.snapshot.count + 1,
                         counters := counters, regions := s.regions } }

/-- TRIGGER_WRITE (R363): the driver latches this package at once. -/
def execTriggerWrite (tag : Dword) (s : State) : Host.Outcome State Fault Refusal := .next (latchSnapshot s tag)

/-- The record of a trigger (R357, R363): it is about no path, and what a path would give is left open. -/
def triggerRecord (s : State) (context : Nat) : Nat :=
  let f (i n : Nat) : Nat := (Config.freeDword s.draws (650 + i)).toNat % 2 ^ n
  pack [(208, s.clock % 2 ^ 48), (144, f 0 64), (112, f 1 32), (80, f 2 32), (48, f 3 32), (36, context % 4096), (31, f 4 5), (28, f 5 3),
        (16, f 6 6), (13, f 7 3), (10, f 8 3), (8, 3)]

/-- A TRIGGER record (R363): the package latches, and each context with rights gets an event record. -/
def applyTrigger (s : State) (tag : Dword) : State :=
  let s := latchSnapshot s tag
  s.contexts.foldl (fun s e => if e.2.rights then writeEvent s e.1 (triggerRecord s e.1) else s) s

/-! ### Checkpoints (R364 to R367; DESIGN CHOICE, log 50) -/

/-- The bytes of the binding table, four for each entry (R23). -/
def bindingBytes (s : State) : List Byte := (List.range 512).flatMap fun p => bytesOf 4 (tgetD s.binding p 0).toNat

/-- The packages of the ring that are not lost. -/
def livePackages (s : State) : List Nat :=
  (dedup (s.settings.ringOrder.toList.map (·.toNat))).filter fun p => decide (p < 128) && !isLost s p

/-- The mask of a list of packages. -/
def pkgMask (l : List Nat) : Nat := (dedup l).foldl (fun m p => m + 2 ^ p) 0

/-- The header of a checkpoint area: step, milestone, package count, PKGMASK, the binding table's digest (R364), and
how many granules follow. -/
def ckptHeader (s : State) (step milestone : Dword) (n : Nat) : List Byte :=
  let l := livePackages s
  bytesOf 8 step.toNat ++ bytesOf 8 milestone.toNat ++ bytesOf 16 l.length ++ bytesOf 16 (pkgMask l) ++
  bytesOf 48 (Config.sha384 (bindingBytes s)) ++ bytesOf 8 n

/-- The two areas that a checkpoint is written to. -/
def ckptAreas (s : State) : List Nat := [s.settings.ckptBase.toNat, s.settings.buddyBase.toNat].filter (· != 0)

/-- Writes to both areas, in class 2 (R365). -/
def ckptWrite (s : State) (context off : Nat) (bs : List Byte) : State :=
  (ckptAreas s).foldl (fun s a => globalWrite s context 2 (a + off) bs) s

/-- Where granule `i` of `n` lies in an area: after the header and the table of 8-byte entries. -/
def granuleOffset (n i : Nat) : Nat := 4096 + (8 * n + 4095) / 4096 * 4096 + 65536 * i

/-- The granules that a SNAP marks (R365): those of the context's leaf pages with W = 1 that lie in the package's far or near memory. -/
def snapLeaves (s : State) : List (Nat × Nat × Nat) → Nat → Nat → List (Nat × Nat × Nat)
  | [], _, _ => []
  | (level, shift, n) :: rest, table, va =>
    (List.range (2 ^ n)).flatMap fun i =>
      let e : Dword := BitVec.ofNat 64 (peekNat s (table + 8 * i) 8)
      let va := va + i * 2 ^ shift
      if !pteV e || pteMalformed level shift e then []
      else if e.getLsbD 62 then (if pteW e then [(va, ptePa e, 2 ^ shift)] else [])
      else snapLeaves s rest (ptePa e) va

/-- The marked granules, ascending by virtual page, each once by its place. -/
def snapGranules (s : State) (context : Nat) : List Granule :=
  let pages := snapLeaves s walkLevels (s.context context).desc.root.toNat 0
  let all := pages.flatMap fun p => (List.range (p.2.2 / 65536)).map fun k => (p.1 / 65536 + k, p.2.1 + 65536 * k)
  let mine := all.filter fun g => paPkg g.2 == s.pkg && hasMode g.2
  let once := mine.foldl (fun (l : List (Nat × Nat)) g => if l.any fun h => h.2 == g.2 then l else l ++ [g]) []
  once.map fun g => { vpage := g.1, base := g.2, bytes := (List.range 65536).filterMap fun i =>
    let b := currentByte s (g.2 + i)
    if b == 0 then none else some (i, b) }

/-- A SNAP record (R365, R367): where the previous snapshot is unfinished nothing is marked and BUSY is set; the previous one goes on, and DONE is not
set at its end, since STEP is by then that of a SNAP for which nothing was marked (DEDUCED, log 87). -/
def applySnap (s : State) (context : Nat) (step milestone : Dword) : State :=
  if !s.ckpt.granules.isEmpty then { s with ckpt := { s.ckpt with busy := true, step := step } }
  else
    let gs := snapGranules s context
    let d := (s.context context).desc
    let window := s.waymark.filter fun e => decide (d.wmBase ≤ e.1) && decide (e.1 < d.wmBase + d.wmSize)
    let s := ckptWrite s context 0 (ckptHeader s step milestone gs.length)
    let s := ckptWrite s context 4096 (gs.flatMap fun g => bytesOf 8 g.vpage)
    { s with ckpt := { context := context, step := step, milestone := milestone, granules := gs, written := 0, waymark := window,
                       busy := false, done := gs.isEmpty, taken := step } }

/-- CHECKPOINT_GRANULE_WRITE (R365): the engine writes the next marked granule to both areas and unmarks it. -/
def execCheckpointGranuleWrite (s : State) : Host.Outcome State Fault Refusal :=
  match s.ckpt.granules with
  | [] => .next s
  | g :: rest =>
    let k := s.ckpt
    let s := ckptWrite s k.context (granuleOffset (k.written + rest.length + 1) k.written) (readRun g.bytes 0 65536)
    .next { s with ckpt := { k with granules := rest, written := k.written + 1, done := rest.isEmpty && !k.busy }, epoch := s.epoch + 1 }

end Sys2Proof.Machine
end

