-- ==== Sys2Proof/Machine/Coherence.lean ====
section
/-! DEFINITION. The events of coherence: requests at a home, the messages of a request (R142 to R145), leases of lines of other packages
at their holder (R147 to R150). An event that is not enabled changes nothing (DESIGN CHOICE, log 16). -/

namespace Sys2Proof.Machine

/-! ### Requests (R144, R145) -/

/-- A request for a line may reach a home of this package: a stack asks for a hardware-coherent line; a package for any line of
memory. -/
def requestOk (s : State) (line : Nat) : Requester → Bool
  | .stack k => decide (k < 4) && coherentHere s (128 * line)
  | .package p _ => decide (p < 128) && p != s.pkg && isLocal s (128 * line)

/-- A request reaches the home. -/
def arriveRequest (s : State) (line kind : Nat) (req : Requester) : State :=
  if requestOk s line req then { (enqueue s line kind req) with epoch := s.epoch + 1 } else s

/-- RDS (R144). -/
def execRds (line : Nat) (req : Requester) (s : State) : Host.Outcome State Fault Refusal := .next (arriveRequest s line 0 req)

/-- RDX (R144). -/
def execRdx (line : Nat) (req : Requester) (s : State) : Host.Outcome State Fault Refusal := .next (arriveRequest s line 1 req)

/-- UPG (R145): without the copy it is served as RDX. -/
def execUpg (line : Nat) (req : Requester) (s : State) : Host.Outcome State Fault Refusal := .next (arriveRequest s line 2 req)

/-! ### Messages -/

/-- A message of a line's open request, where its order stands. -/
def onOrder (s : State) (line stack : Nat) (p : OpenReq → Bool) (f : State → Nat → Nat → State) : State :=
  if hasOrder s line stack p then { (f s line stack) with epoch := s.epoch + 1 } else s

/-- FWDS (R143, R144). -/
def execFwds (line stack : Nat) (s : State) : Host.Outcome State Fault Refusal :=
  .next (onOrder s line stack (fun r => r.kind == 0 && r.forward == some stack) actFwds)

/-- FWDX (R143, R144). -/
def execFwdx (line stack : Nat) (s : State) : Host.Outcome State Fault Refusal :=
  .next (onOrder s line stack (fun r => r.kind == 1 && r.forward == some stack) actFwdx)

/-- INV (R143), and of a line of another package, held under a read lease, that of its home (R150): the holder gives it up. -/
def execInv (line stack : Nat) (s : State) : Host.Outcome State Fault Refusal :=
  .next (if paPkg (128 * line) != s.pkg then
      match copyOf s line stack with
      | some c => if c.lease.isSome && c.state == 0 then { (giveUp s line stack 2) with epoch := s.epoch + 1 } else s
      | none => s
    else onOrder s line stack (fun r => (r.kind == 1 || r.kind == 2) && r.forward != some stack) actInv)

/-- BINV (R142). -/
def execBinv (line stack : Nat) (s : State) : Host.Outcome State Fault Refusal :=
  .next (onOrder s line stack (fun r => r.kind == 3) actBinv)

/-- When a stack asked for a line of another package that it still waits for (R149): the first of its loads that read the line, or, for a write
lease, of its stores and atomics to it. -/
def askedAt (s : State) (stack line : Nat) (write : Bool) : Option Nat :=
  let here (k : Nat) : Bool := match tget s.waves k with | some w => coreStack w.core == stack | none => false
  let l := if write then
      s.fabric.sent.filterMap fun p => if p.wave.any here && (payloadLines p.packet.payload).contains line then some p.sentAt else none
    else s.loads.filterMap fun e => if here e.2.wave && e.2.spans.any fun x => lineOf x.1 == line then some e.2.since else none
  l.foldl (fun m t => some (match m with | none => t | some u => min u t)) none

/-- A stack holds a line of another package under a lease that its home has granted: a read lease gives S, a write lease E (R147); its term runs
from the request (R149). The request is the earliest outstanding one for the line (DEDUCED, log 34). -/
def installLease (s : State) (line stack asked : Nat) (write : Bool) (term : Nat) (bytes : List Byte) : State :=
  addCopy s line stack { state := if write then 1 else 0, bytes := lineTable fun i => bytes.getD i 0, dirty := 0, lease := some (asked, term) }

/-- A grant may reach a stack (R147, R149): of a line of another package that it does not hold, with a legal term; a write lease is given in
a hardware-coherent region. -/
def grantOk (s : State) (line stack : Nat) (write : Bool) (term : Nat) : Bool :=
  let a := 128 * line
  paPkg a != s.pkg && decide (paPkg a < 128) && hasMode a && decide (stack < 4) && decide (5 ≤ term) && decide (term ≤ 1000) &&
  (copyOf s line stack).isNone && (!write || lineCoherent s a)

/-- DATA (R144): the requester receives the line. For a line of another package that it waits for it brings the lease that the home granted, with
its term in microseconds (R147, R149). -/
def execData (line : Nat) (req : Requester) (lease : Option (Bool × Nat × List Byte)) (s : State) : Host.Outcome State Fault Refusal :=
  match req, lease with
  | .stack k, some (write, term, bytes) =>
    match askedAt s k line write with
    | some asked =>
      if grantOk s line k write term then .next { (installLease s line k asked write term bytes) with epoch := s.epoch + 1 } else .next s
    | none => .next s
  | _, _ => match (s.homeLine line).openReq with
    | some r => if r.req == req && !r.delivered && r.data.isSome && r.kind != 3 then
        .next { (actData s line) with epoch := s.epoch + 1 } else .next s
    | none => .next s

/-- WB (R142, R145). -/
def execWb (line stack : Nat) (s : State) : Host.Outcome State Fault Refusal :=
  if (s.homeLine line).writeback.any fun w => w.1 == stack then .next { (actWb s line stack) with epoch := s.epoch + 1 } else .next s

/-- ACK (R143): of a holder that has acted, its write-back before it. -/
def execAck (line stack : Nat) (s : State) : Host.Outcome State Fault Refusal :=
  match (s.homeLine line).openReq with
  | some r =>
    if r.acks.getLsbD stack && !r.orders.getLsbD stack && !(r.kind == 3 && (s.homeLine line).writeback.any fun w => w.1 == stack) then
      .next { (actAck s line stack) with epoch := s.epoch + 1 }
    else .next s
  | none => .next s

/-- CMP (R143, R144): every ACK has been collected. -/
def execCmp (line : Nat) (req : Requester) (s : State) : Host.Outcome State Fault Refusal :=
  match (s.homeLine line).openReq with
  | some r =>
    if r.req == req && r.orders == 0 && r.acks == 0 && !r.complete then .next { (actCmp s line) with epoch := s.epoch + 1 } else .next s
  | none => .next s

/-! ### Leases of other packages' lines, at the holder (R149, R150) -/

/-- The copies that are held under leases: key, line, copy, when the lease was asked for, its term in cycles. -/
def leasedCopies (s : State) : List (Nat × Copy × Nat × Nat) :=
  s.copies.filterMap fun e => match e.2.lease with
    | some (asked, term) => some (e.1, e.2, asked, term * Config.cyclesPerUs)
    | none => none

/-- The renewal point of a lease: the lesser of 0.75 T and T - 4 µs (R149). -/
def renewalPoint (term : Nat) : Nat := min (3 * term / 4) (term - 4 * Config.cyclesPerUs)

/-- The holder's renewals (R149): every lease of the region of the first that is due, whose renewal point has passed, up to 64 lines in one
message; the renewal is the new beginning of the holder's term. -/
def renewLeases (s : State) : State :=
  let due := (leasedCopies s).filter fun x => decide (x.2.2.1 + renewalPoint x.2.2.2 ≤ s.clock) &&
    decide (s.clock < x.2.2.1 + (x.2.2.2 - 2 * Config.cyclesPerUs))
  match due with
  | [] => s
  | x :: _ =>
    let region (k : Nat) : Nat := 128 * (k / 4) / 2 ^ 26
    let mine := (due.filter fun y => region y.1 == region x.1 && y.1 % 4 == x.1 % 4).take 64
    let line := x.1 / 4
    let s := sendLease s { package := paPkg (128 * line), line := line, kind := 0, dirty := [], lines := mine.map fun y => y.1 / 4 }
    mine.foldl (fun s y => { s with copies := tmod s.copies y.1 fun c => { c with lease := c.lease.map fun l => (s.clock, l.2) } }) s

/-- A holder's renewal reaches the home (R149): the leases that it still holds end a term later. -/
def renewed (s : State) (package : Nat) (lines : List Nat) : State :=
  let stop := s.clock + s.settings.leaseterm * Config.cyclesPerUs
  let again (h : Nat × Nat) : Nat × Nat := if h.1 == package && decide (s.clock < h.2) then (h.1, stop) else h
  (lines.take 64).foldl (fun s l => { s with leases := tmod s.leases l fun x => { x with holders := x.holders.map again } }) s

/-- LEASE_RENEWAL (R149): this package's renewals leave, or those of another package reach their home. -/
def execLeaseRenewal (s : State) (incoming : Option (Nat × List Nat) := none) : Host.Outcome State Fault Refusal :=
  match incoming with
  | none => .next (renewLeases s)
  | some (package, lines) => .next (renewed s package lines)

/-- LEASE_HOLDER_EXPIRY (R149, R151, R152): a lease ends at the holder at T - 2 µs, and its copy is dropped: with any dirty data of a write lease,
its dirty bytes written back where software manages the line. -/
def execLeaseHolderExpiry (s : State) : Host.Outcome State Fault Refusal :=
  match (leasedCopies s).find? fun x => decide (x.2.2.1 + (x.2.2.2 - 2 * Config.cyclesPerUs) ≤ s.clock) with
  | none => .next s
  | some x =>
    let line := x.1 / 4
    let stack := x.1 % 4
    let s' := if lineCoherent s (128 * line) then s else cleanCopy s line stack
    .next { (dropCopy s' line stack) with epoch := s.epoch + 1 }

/-- RECALL (R150): the holder of a write lease returns the line and ends its lease. -/
def execRecall (stack line : Nat) (s : State) : Host.Outcome State Fault Refusal :=
  match copyOf s line stack with
  | some c => if c.lease.isSome then .next { (giveUp s line stack 2) with epoch := s.epoch + 1 } else .next s
  | none => .next s

end Sys2Proof.Machine
end

