-- ==== Sys2Proof/Machine/Region.lean ====
section
/-! DEFINITION. Switching the mode of a region (R153 to R156), and the clearing of its status word. -/

namespace Sys2Proof.Machine

/-! ### The lines of a region -/

/-- The 64 MiB granule that holds a line (R139). -/
def granuleOf (line : Nat) : Nat := 128 * line / 2 ^ 26

/-- The lines of a granule of which a stack of the package holds a copy. -/
def granuleLines (s : State) (g : Nat) : List Nat := dedup ((s.copies.filter fun e => granuleOf (e.1 / 4) == g).map fun e => e.1 / 4)

/-- What a stack writes back of its copy of a line (R153, R155): all of an M or O copy of a coherent line, else the dirty bytes. -/
def backBytes (s : State) (line stack : Nat) : List (Nat × Byte) :=
  match copyOf s line stack with
  | none => []
  | some c =>
    if lineCoherent s (128 * line) && decide (2 ≤ c.state) then (List.range 128).map fun i => (128 * line + i, byteAt c.bytes i)
    else c.dirtyCells.map fun x => (128 * line + x.1, x.2)

/-- A copy that has been written back (R153): clean, and no longer held in M or O. -/
def cleanedCopy (s : State) (line stack : Nat) : State :=
  match copyOf s line stack with
  | none => s
  | some c => setCopy s line stack { c with dirty := 0, state := if 2 ≤ c.state || c.lease.isSome then 0 else c.state }

/-- The write-backs of one stack. -/
def stackBack (s : State) (g stack : Nat) : List (Nat × Byte) := (granuleLines s g).flatMap fun l => backBytes s l stack

/-- Every line of the granule is brought to rest at its home: the requests being served are finished, the write-backs in flight arrive. -/
def settleGranule (s : State) (g : Nat) : State :=
  s.home.foldl (fun s e =>
    if granuleOf e.1 == g then
      let s := settle s e.1
      (s.homeLine e.1).writeback.foldl (fun s w => actWb s e.1 w.1) s
    else s) s

/-- The four stacks clean their copies, in ascending stack order: the write-backs by stack, and the state after. -/
def cleanGranule (s : State) (g : Nat) : List (Nat × List (Nat × Byte)) × State :=
  let back := (List.range 4).map fun k => (k, stackBack s g k)
  (back, (granuleLines s g).foldl (fun s l => (List.range 4).foldl (fun s k => cleanedCopy s l k) s) s)

/-! ### The end of a switch (R153 to R155) -/

/-- The packages of the pod that have not been declared lost, without this one. -/
def livePeers (s : State) : List Nat :=
  (dedup (s.settings.ringOrder.toList.map (·.toNat))).filter fun p => decide (p < 128) && p != s.pkg && !s.fabric.lost.contains p

/-- The write-backs in ascending order of global stack index (R153). -/
def inOrder (l : List (Nat × List (Nat × Byte))) : List (Nat × Byte) :=
  (List.range 512).flatMap fun k => (l.filter fun e => e.1 == k).flatMap (·.2)

/-- Two write-backs carry different values for one byte (R154). -/
def conflicting : List (Nat × Byte) → Bool
  | [] => false
  | x :: rest => (rest.any fun y => y.1 == x.1 && y.2 != x.2) || conflicting rest

/-- After a switch to hardware-coherent every copy in an RDC is entered in the snoop filter as S; one that finds no entry is dropped (R155).
The copies keep their bytes (DEDUCED, log 60). -/
def enterCopies (s : State) (g : Nat) : State :=
  (granuleLines s g).foldl (fun s l =>
    let s := flushHome s l
    let holders := (List.range 4).foldl (fun (m : BitVec 4) k => if (copyOf s l k).isSome then m ||| stackBit k else m) 0
    if holders == 0 then s
    else if (filterVictim s l).isSome then (List.range 4).foldl (fun s k => dropCopy s l k) s
    else
      let s := (List.range 4).foldl (fun s k => match copyOf s l k with
        | some c => setCopy s l k { c with state := 0 }
        | none => s) s
      setFilter s l holders none) (dropStrayL1 s)
where
  /-- An L1 keeps no line that its stack does not hold (R140). -/
  dropStrayL1 (s : State) : State :=
    let held (e : Nat × Table Byte) : Bool := granuleOf (e.1 / 512) != g || (copyOf s (e.1 / 512) (coreStack (e.1 % 512))).isSome
    { s with l1 := s.l1.filter held }

/-- After a switch to software-managed the snoop-filter and lease entries of the region are freed, its copies kept (R155). -/
def freeEntries (s : State) (g : Nat) : State :=
  { s with filters := s.filters.filter fun e => granuleOf e.1 != g, leases := s.leases.filter fun e => granuleOf e.1 != g }

/-- The write leases of a granule that the home still waits for when its region becomes software-managed (R155). -/
def writeLeases (s : State) (g : Nat) : List Nat := (s.leases.filter fun e => granuleOf e.1 == g && e.2.write).map (·.1)

/-- The switch of a region ends at its home, once every live package has sent its write-backs and the write leases that it recalls have ended (R153,
R155): they are merged, the mode is set, and the held accesses go on. -/
def finishSwitch (s : State) (n : Nat) (g : Nat) : State :=
  match tget s.switches n with
  | none => s
  | some w =>
    if !((livePeers s).all fun p => w.ended.contains p) || (!w.mode && !(writeLeases s g).isEmpty) then s
    else
      let cells := inOrder w.collected
      let s := cells.foldl (fun s c => pokeByte s c.1 c.2) s
      let s := (dedup (cells.map fun c => lineOf c.1)).foldl (fun s l => noteWrite s none l) s
      let old := regionWord s n
      let word := (old &&& ~~~9#32) ||| (if w.mode then 1 else 0) ||| (if conflicting cells then 2 else 0)
      let s := { s with switches := tdel s.switches n, regions := tset 0 s.regions n word, epoch := s.epoch + 1 }
      let s := if w.mode == old.getLsbD 0 then s else if w.mode then enterCopies s g else freeEntries s g
      serveAll s

/-! ### Leases of this package's lines, at the home (R149 to R151) -/

/-- A package's lease of a line ends at the home. -/
def endLease (s : State) (line package : Nat) : State :=
  match tget s.leases line with
  | none => s
  | some l =>
    let rest := l.holders.filter fun h => h.1 != package
    if rest.isEmpty then { s with leases := tdel s.leases line } else { s with leases := tput s.leases line { l with holders := rest } }

/-- What has waited for the end of a lease goes on: the request at the home, and the switch of the region (R150, R155). -/
def leaseEnded (s : State) (line : Nat) : State :=
  let n := regionNumber (128 * line)
  let s := if (tget s.switches n).isSome then finishSwitch s n (granuleOf line) else s
  serveHead s line

/-- LEASE_RELEASE (R149, R150): the holder has given the line up, with its dirty bytes and their poison (R339). One that arrives after the lease has
ended is discarded (R151). -/
def execLeaseRelease (line package : Nat) (dirty : List (Nat × Byte)) (s : State) (poison : Bool := false) : Host.Outcome State Fault Refusal :=
  match tget s.leases line with
  | none => .next s
  | some l =>
    if l.holders.any fun h => h.1 == package then
      let s := mergeHome s line (dirty.filter fun x => decide (x.1 < 128))
      let s := if poison && !dirty.isEmpty then { s with poisoned := dedup (s.poisoned ++ [line]) } else s
      .next { (leaseEnded (endLease s line package) line) with epoch := s.epoch + 1 }
    else .next s

/-- The status word of a region after a write lease of a package has been reverted (R151, R156). -/
def revertWord (w : Word) (package : Nat) : Word :=
  let reverts := min (bits w.toNat 4 8 + 1) 255
  BitVec.ofNat 32 (pack [(0, bits w.toNat 0 4), (4, reverts), (12, package % 256)]) ||| 4

/-- The first lease of the home's tables that has run out: its line, its holder, whether it is a write lease. -/
def dueLease (s : State) : Option (Nat × Nat × Bool) :=
  s.leases.findSome? fun e => (e.2.holders.find? fun h => decide (h.2 ≤ s.clock)).map fun h => (e.1, h.1, e.2.write)

/-- LEASE_HOME_EXPIRY (R151): a lease ends at the home; that of a write lease reverts the line and is recorded. -/
def execLeaseHomeExpiry (s : State) : Host.Outcome State Fault Refusal :=
  match dueLease s with
  | none => .next s
  | some (line, package, write) =>
    let s := endLease s line package
    let n := regionNumber (128 * line)
    let s := if write then { s with regions := tset 0 s.regions n (revertWord (regionWord s n) package) } else s
    .next { (leaseEnded s line) with epoch := s.epoch + 1 }

/-! ### Applying a REGION record (R153, R273) -/

/-- The payload of a REGION record is well formed (R273). -/
def regionPayloadOk (p : Nat) : Bool :=
  let a := bits p 0 64
  let region := paRegion a
  bits p 65 319 == 0 && decide (a < 2 ^ 60) && decide (paPkg a < 128) && (region == 8 || (region < 2 && offsetOk region (paOffset a / 2 ^ 26 * 2 ^ 26)))

/-- A switch of the record's region is still going on at this package, its home. -/
def regionBusy (s : State) (p : Nat) : Bool := paPkg (bits p 0 64) == s.pkg && (tget s.switches (regionNumber (bits p 0 64))).isSome

/-- Applies a well-formed REGION record (R153, R155): at the home the switch begins; at another package the write-backs leave for the home; of
host memory the copies are cleaned. -/
def applyRegion (s : State) (milestone : Dword) (p : Nat) : State :=
  let a := bits p 0 64
  let g := a / 2 ^ 26
  let mode := bits p 64 1 == 1
  if paRegion a == 8 then
    (granuleLines s g).foldl (fun s l => (List.range 4).foldl (fun s k => cleanCopy s l k) s) s
  else if paPkg a == s.pkg then
    let n := regionNumber a
    let s := settleGranule s g
    let r := cleanGranule s g
    let w : Switch := { milestone := milestone, mode := mode, collected := r.1.map fun x => (4 * s.pkg + x.1, x.2), ended := [] }
    let s := { r.2 with switches := tput r.2.switches n w, regions := tset 0 r.2.regions n (regionWord r.2 n ||| 8) }
    let s := if mode then s else (writeLeases s g).foldl (fun s l => recallHolders s l 1 (.stack (lineHome l))) s
    finishSwitch s n g
  else
    let r := cleanGranule s g
    let line := g * 2 ^ 19
    let msgs (k : Nat) (cells : List (Nat × Byte)) : List LeaseMsg :=
      (if cells.isEmpty then [] else [{ package := paPkg a, line := line + k, kind := 5, dirty := cells, milestone := milestone }]) ++
      [{ package := paPkg a, line := line + k, kind := 6, dirty := [], milestone := milestone }]
    let s := { r.2 with modes := tset false r.2.modes g mode }
    r.1.foldl (fun s x => (msgs x.1 x.2).foldl sendLease s) s

/-! ### Events -/

/-- The first physical address of the granule of a region number of this package (R374). -/
def regionGranule (s : State) (n : Nat) : Nat :=
  if n < 24576 then mkPa s.pkg 0 (n * 2 ^ 26) / 2 ^ 26
  else mkPa s.pkg 1 ((n - 24576) / 96 * 2 ^ 33 + (n - 24576) % 96 * 2 ^ 26) / 2 ^ 26

/-- REGION_WRITEBACK (R153): the home collects a stack's write-back for the record's milestone; `last` ends those of the stack's package. -/
def execRegionWriteback (region source : Nat) (milestone : Dword) (dirty : List (Nat × Byte)) (last : Bool) (s : State) :
    Host.Outcome State Fault Refusal :=
  match tget s.switches region with
  | none => .next s
  | some w =>
    let g := regionGranule s region
    if w.milestone != milestone || isLostPackage s (source / 4) || w.ended.contains (source / 4) then .next s
    else
      let cells := dirty.filter fun c => c.1 / 2 ^ 26 == g
      let w := { w with collected := w.collected ++ [(source, cells)], ended := if last then w.ended ++ [source / 4] else w.ended }
      .next (finishSwitch { s with switches := tput s.switches region w, epoch := s.epoch + 1 } region g)
where
  /-- A write-back of this package or of one declared lost is not collected. -/
  isLostPackage (s : State) (p : Nat) : Bool := p == s.pkg || s.fabric.lost.contains p

/-- A package has been declared lost (R269): the switches no longer wait for it. -/
def switchesLost (s : State) : State := s.switches.foldl (fun s e => finishSwitch s e.1 (regionGranule s e.1)) s

/-- REGION_STATUS_CLEAR (R156): the driver clears sticky bits of a status word by writing ones. -/
def execRegionStatusClear (region : Nat) (bits : Word) (s : State) : Host.Outcome State Fault Refusal :=
  .next { s with regions := tset 0 s.regions region (regionWord s region &&& ~~~(bits &&& 6)) }

end Sys2Proof.Machine
end

