-- ==== Sys2Proof/Machine/Ringway.lean ====
section
/-! DEFINITION. The Ringway tap (R259 to R269), the waymark store (R270 to R272), RWAY (R525 to R528) and what each kind of record does when it is
applied (R262, R273). -/

namespace Sys2Proof.Machine

/-! ### The payload of a waymark record (R271) -/

/-- OFFSET of a payload, with its reserved byte. -/
def payOffset (p : Nat) : Nat := bits p 0 32

/-- SIZE of a payload. -/
def paySize (p : Nat) : Nat := bits p 32 8

/-- The fields of a waymark payload lie in their values, the window apart. -/
def payloadOk (kind p : Nat) : Bool :=
  let size := paySize p
  let flags := bits p 40 8
  decide (payOffset p < 2 ^ 24) && bits p 48 16 == 0 && bits flags 2 6 == 0 && (bits flags 0 1 == 0 || kind == 3) && (bits flags 1 1 == 0 || kind == 1) &&
  (if kind == 0 then decide (1 ≤ size) && decide (size ≤ 40) else (size == 4 || size == 8) && payOffset p % size == 0)

/-- LENGTH of a record of a kind. -/
def payLength (kind p : Nat) : Nat := if kind == 0 then 8 + paySize p else 24

/-! ### RWAY -/

/-- The trap of the checks of RWAY at issue (R526; DEDUCED, log 42). -/
def rwayTrap (s : State) (c : Ctx) (word ea : Dword) (kind n : Nat) : Option Trap :=
  let result : Dword := BitVec.ofNat 64 (bits n 384 64)
  let p := n % 2 ^ 384
  if bits n 448 64 != 0 || !payloadOk kind p then some (Trap.mk' 0x02 word)
  else match (if result == 0 then none else firstCause s c [(result, 32, 32, .own)]) with
  | some t => some t
  | none => if inWaymark c.conv.desc.wmSize (payOffset p) (paySize p) then none else some (Trap.mk' 0x08 ea)

/-- An earlier FENCE or MSFENCE of another path of the wave has not returned (R188, R527). -/
def fenceWaits (w : Wave) : Bool := w.div.valid.any fun p => match (w.div.path p).hold with | .wait r _ _ => r == 13 || r == 14 | _ => false

/-- The records queued at the tap. -/
def queuedRecords (s : State) : Nat := (s.ring.queues.toList.map List.length).sum

/-- `rway` (R525 to R527): a waymark record from a descriptor is queued at the tap. -/
def execRway (a : BitVec 6) (k : BitVec 2) (kind : BitVec 4) (s : State) : Host.Outcome State Fault Refusal :=
  run (.rway a k kind) { inTx := false } s fun c =>
    let ea := c.w.sreg a.toNat
    match firstCause s c [(ea, 64, 64, .own)] with
    | some t => .trap t
    | none =>
      let n := ownScratch s c ea 64
      match rwayTrap s c (wordOf (.rway a k kind)) ea kind.toNat n with
      | some t => .trap t
      | none =>
        if fenceWaits c.w || decide (256 ≤ queuedRecords s) then .wait 30 0
        else
          let p := n % 2 ^ 384
          let r : Record := { milestone := 0, context := c.conv.context, origin := s.pkg, cls := k.toNat, length := payLength kind.toNat p,
                              kind := kind.toNat, payload := bytesOf 48 p }
          let result := bits n 384 64
          .next (queueRecord s r (if result == 0 then none else some (keyConvoy c.key, keyCrew c.key, result % 2 ^ 24)))

/-! ### The tap and the token (R260, R267, R268) -/

/-- Changes the tap. -/
def State.modRing (s : State) (f : Ring → Ring) : State := { s with ring := f s.ring }

/-- The tap takes part in the ring (R267): it is enabled, and the package has power. -/
def tapOn (s : State) : Bool := s.settings.tapEn && s.bootState == 1 && !s.power.stopped

/-- The tap that is master by its mark, or where none is marked by its package id: the lowest one (R259, R377). -/
def electedMaster (s : State) : Nat :=
  let marks := (livePackages s).filter fun p => if p == s.pkg then s.settings.master else s.ring.marked.contains p
  (if marks.isEmpty then livePackages s else marks).foldl min 128

/-- The token master (R259, R268): one that has taken the part, while it is live, else the elected one. -/
def masterOf (s : State) : Nat := (s.ring.master.filter fun p => (livePackages s).contains p).getD (electedMaster s)

/-- This package is the token master. -/
def isMaster (s : State) : Bool := masterOf s == s.pkg

/-- The live tap with the next higher package id, or the lowest of all after the highest (DEDUCED, log 53). -/
def nextMaster (s : State) : Nat :=
  let higher := (livePackages s).filter fun p => decide (masterOf s < p)
  (if higher.isEmpty then livePackages s else higher).foldl min 128

/-! ### The form of a record (R261) -/

/-- The header of a record with a CRC field. -/
def recordHeader (r : Record) (crc : Word) : Nat :=
  pack [(0, r.kind), (4, r.length), (10, r.cls), (12, r.origin), (19, r.context), (31, r.reserved.toNat), (32, crc.toNat), (64, r.milestone.toNat)]

/-- The 64 bytes of a record with a CRC field. -/
def recordBytes (r : Record) (crc : Word) : List Byte := bytesOf 16 (recordHeader r crc) ++ bytesOf 48 (leNat (r.payload.take 48))

/-- The CRC-32C of a record: over its header with the field zero, and its payload. -/
def recordCrc (r : Record) : Word := crc32c (recordBytes r 0)

/-- A record whose CRC holds (R265). -/
def recordIntact (r : Record) : Bool := r.crc == recordCrc r

/-- The record that 64 bytes hold. -/
def recordOf (bs : List Byte) : Record :=
  let n := leNat bs
  { milestone := BitVec.ofNat 64 (bits n 64 64), context := bits n 19 12, origin := bits n 12 7, cls := bits n 10 2, length := bits n 4 6,
    kind := bits n 0 4, payload := (bs.drop 16).take 48, crc := BitVec.ofNat 32 (bits n 32 32), reserved := bits n 31 1 == 1 }

/-- A record enters the replay window, which keeps the last 4,096 (R265). -/
def Ring.remember (r : Ring) (x : Record) : Ring :=
  { r with window := (if 4096 ≤ r.window.length then r.window.tail else r.window) ++ [x] }

/-- Emits queued records of a class with the milestones after `last` (R260): how many more may go, the last milestone given, the tap. -/
def emitClass (cls : Nat) : Nat → Dword → Ring → Nat × Dword × Ring
  | 0, last, r => (0, last, r)
  | n + 1, last, r => match vget r.queues cls [] with
    | [] => (n + 1, last, r)
    | (x, result) :: rest =>
      let m := last + 1
      let x := { x with milestone := m }
      let x := { x with crc := recordCrc x }
      let r := { (r.remember x) with
        queues := r.queues.setIfInBounds cls rest
        emitted := r.emitted ++ [x]
        held := tput r.held m.toNat x
        results := match result with | some y => r.results ++ [(m.toNat, y)] | none => r.results
        seen := m }
      emitClass cls n m r

/-- Emits up to four records (R260). -/
def emitFour (last : Dword) (r : Ring) : Dword × Ring :=
  let a := emitClass 0 4 last r
  let b := emitClass 1 a.1 a.2.1 a.2.2
  let c := emitClass 2 b.1 b.2.1 b.2.2
  c.2

/-- An epoch is older than another, by their distance on the circle of 16 bits. -/
def olderEpoch (a b : BitVec 16) : Bool := (a - b).slt 0

/-- The lowest milestone that the tap is missing below one it has seen. -/
def missingRecord (r : Ring) : Option Nat :=
  let m := r.applied.toNat + 1
  if decide (m ≤ r.seen.toNat) && (tget r.held m).isNone then some m else none

/-- The live taps upstream of this package's, the nearest first, at most 8 (R265). -/
def upstreamTaps (s : State) : List Nat :=
  let l := (s.settings.ringOrder.toList.map (·.toNat)).filter (· != 0xFF)
  let before := l.takeWhile (· != s.pkg)
  ((before.reverse ++ (l.drop (before.length + 1)).reverse).filter fun p => p != s.pkg && (livePackages s).contains p).take 8

/-- Asks the tap of a number upstream for a missing record; where there is none, the package is out of step (R265, R266). -/
def fetchFrom (s : State) (m k : Nat) : State :=
  match (upstreamTaps s)[k]? with
  | some p => s.modRing fun r => { r with messages := r.messages ++ [.fetch p m], fetching := some (m, k) }
  | none => if s.ring.outOfStep then s else signal (s.modRing fun r => { r with outOfStep := true, fetching := none }) 5

/-- The tap asks for the lowest record that it is missing, unless it is fetching one (R265). -/
def fetchMissing (s : State) : State :=
  match missingRecord s.ring, s.ring.fetching with
  | some m, none => fetchFrom s m 0
  | _, _ => s

/-- TOKEN_ARRIVAL (R260, R268): a tap that holds the token emits up to four records and passes it on. A token of an older epoch, or of the epoch
that was stopped, is discarded. -/
def execTokenArrival (last : Dword) (epoch : BitVec 16) (s : State) : Host.Outcome State Fault Refusal :=
  let r := s.ring
  if !tapOn s || olderEpoch epoch r.epoch || (r.stopped && epoch == r.epoch) then .next s
  else
    let e := emitFour last { r with epoch := epoch, stopped := false, stopSent := false, begun := true, lastToken := s.clock }
    .next (fetchMissing { s with ring := { e.2 with messages := e.2.messages ++ [.token e.1 epoch] }, epoch := s.epoch + 1 })

/-- The tap has seen the record of a milestone (R263). -/
def Ring.hasSeen (r : Ring) (m : Dword) : Bool :=
  decide (m.toNat ≤ r.applied.toNat) || (tget r.held m.toNat).isSome || r.window.any fun x => x.milestone == m

/-- RECORD_RECEIVE (R263, R265): a record with a good CRC that the tap has not seen is forwarded, kept in the window and held for its turn; the tap asks for
a lower one that it is missing. -/
def execRecordReceive (record : Record) (s : State) : Host.Outcome State Fault Refusal :=
  let r := s.ring
  if !tapOn s || !recordIntact record || r.hasSeen record.milestone then .next s
  else
    let r := { (r.remember record) with
      emitted := r.emitted ++ [record]
      held := if r.held.length < 4096 then tput r.held record.milestone.toNat record else r.held
      seen := if r.seen.toNat < record.milestone.toNat then record.milestone else r.seen }
    .next (fetchMissing { s with ring := r, epoch := s.epoch + 1 })

/-- A record that the tap is missing has come from a replay window (R265). -/
def takeFetched (s : State) (x : Record) : State :=
  let r := s.ring
  fetchMissing { s with ring := { (r.remember x) with held := tput r.held x.milestone.toNat x, gapFetches := r.gapFetches + 1, fetching := none }, epoch := s.epoch + 1 }

/-- RECORD_GAP_FETCH (R265, R266): the answer to a request for a missing record: the record; or the tap does not hold it, and the next one upstream is asked, of
at most 8. Or the request of another tap, which is answered from the own replay window. -/
def execRecordGapFetch (fetch : GapFetch) (s : State) : Host.Outcome State Fault Refusal :=
  let r := s.ring
  if !tapOn s then .next s
  else match fetch with
  | .request tap milestone => .next (s.modRing fun r => { r with messages := r.messages ++ [.answer tap (r.window.find? fun x => x.milestone == milestone)] })
  | .answer record => match record.filter recordIntact with
    | some x =>
      .next (if r.applied.toNat < x.milestone.toNat && x.milestone.toNat ≤ r.seen.toNat && (tget r.held x.milestone.toNat).isNone then takeFetched s x else s)
    | none => match r.fetching with
      | some (m, k) => .next (if missingRecord r == some m then fetchFrom s m (k + 1) else fetchMissing (s.modRing fun r => { r with fetching := none }))
      | none => .next (fetchMissing s)

/-- TOKENWAIT_EXPIRY (R268): a tap that has not seen the token for TOKENWAIT tells the master. -/
def execTokenwaitExpiry (s : State) : Host.Outcome State Fault Refusal :=
  if tapOn s && !s.ring.stopped && decide (max s.ring.lastToken s.ring.toldAt + s.settings.tokenwait * Config.cyclesPerUs ≤ s.clock) then
    .next (s.modRing fun r => { r with messages := r.messages ++ [.missing], toldAt := s.clock })
  else .next s

/-- TOKEN_STOP (R268): a tap that receives STOP stops emitting, and tells its count of records. -/
def execTokenStop (s : State) : Host.Outcome State Fault Refusal :=
  .next (if tapOn s then s.modRing fun r => { r with stopped := true, messages := r.messages ++ [.count r.seen r.applied] } else s)

/-- The greatest count of records seen (R268): of this tap and of the live ones that have reported theirs, by package. -/
def greatestSeen (s : State) (seen : List (Nat × Dword)) : Nat :=
  (seen.filter fun x => (livePackages s).contains x.1).foldl (fun m x => max m x.2.toNat) s.ring.seen.toNat

/-- Every live tap has reported that it has applied the records through a count (R268). -/
def allThrough (s : State) (applied : List (Nat × Dword)) (n : Nat) : Bool :=
  decide (n ≤ s.ring.applied.toNat) &&
  (livePackages s).all fun p => p == s.pkg || applied.any fun x => x.1 == p && decide (n ≤ x.2.toNat)

/-- TOKEN_RECOVERY (R268): the master stops the taps; once all have applied through the greatest count of records seen, it emits a token of the next
epoch. `seen` and `applied` are the counts that the taps have reported, by package. -/
def execTokenRecovery (seen applied : List (Nat × Dword)) (s : State) : Host.Outcome State Fault Refusal :=
  let n := greatestSeen s seen
  if !tapOn s || !isMaster s then .next s
  else if !s.ring.stopSent then .next (s.modRing fun r => { r with messages := r.messages ++ [.stop], stopped := true, stopSent := true })
  else if allThrough s applied n then
    .next (s.modRing fun r => { r with messages := r.messages ++ [.token (BitVec.ofNat 64 n) (r.epoch + 1)], epoch := r.epoch + 1, stopped := false,
                                       stopSent := false, lastToken := s.clock, recoveries := r.recoveries + 1 })
  else .next s

/-- MASTER_TIMEOUT (R268): a master that holds no token for twice TOKENWAIT is replaced by the live tap with the next higher package id. -/
def execMasterTimeout (s : State) : Host.Outcome State Fault Refusal :=
  if tapOn s && decide (max s.ring.lastToken s.ring.masterSince + 2 * s.settings.tokenwait * Config.cyclesPerUs ≤ s.clock) then
    .next (s.modRing fun r => { r with master := some (nextMaster s), masterSince := s.clock, stopSent := false })
  else .next s

/-- RINGCTL_WRITE (R259, R260, R267, R377): the driver enables or disables a package's tap, this one's where none is named, and marks it master. The
master's tap, enabled at pod set-up, emits the first token. -/
def execRingctlWrite (value : Dword) (s : State) (package : Option Nat := none) : Host.Outcome State Fault Refusal :=
  if 4 ≤ value.toNat then .next s
  else
    let package := package.getD s.pkg
    let others := s.ring.marked.filter (· != package)
    if package != s.pkg then
      .next { s with ring := { s.ring with marked := if value.getLsbD 1 then others ++ [package] else others }, epoch := s.epoch + 1 }
    else
      let t := { s with
        settings := { s.settings with tapEn := value.getLsbD 0, master := value.getLsbD 1 }
        ring := { s.ring with master := none, lastToken := s.clock, toldAt := s.clock, masterSince := s.clock }
        epoch := s.epoch + 1 }
      .next (if tapOn t && isMaster t && !t.ring.begun then
          t.modRing fun r => { r with messages := r.messages ++ [.token 0 0], begun := true } else t)

/-- The fabric class of what a tap sends over the fabric to recover records or the token (R257). -/
def RingMsg.cls (_ : RingMsg) : Nat := 0

/-- The fabric class of the messages of leases (R151, R257). -/
def LeaseMsg.cls (_ : LeaseMsg) : Nat := 0

/-- A RING record of this package about another (R273). -/
def ringRecord (s : State) (sub p : Nat) : Record :=
  { milestone := 0, context := 0, origin := s.pkg, cls := 0, length := 48, kind := 10, payload := bytesOf 48 (pack [(0, sub), (8, p)]) }

/-- A package has not answered on the fabric for the limit (R269): a packet has been waiting for its answer as long, and nothing has come from it since. -/
def silent (s : State) (package : Nat) : Bool :=
  let limit := s.settings.lostlimit * Config.cyclesPerUs
  s.fabric.sent.any fun p => p.packet.dst == package && p.stage == 0 && decide (max p.first (tgetD s.fabric.heard package 0) + limit ≤ s.clock)

/-- LOST_LIMIT_EXPIRY (R269, R377): the master declares a package lost that has been silent, or whose tap has been in pass-through, for the limit. `passing` is
since when the tap has been in pass-through, if it is. The limit is counted from the silence or the pass-through (DESIGN CHOICE, log 71). -/
def execLostLimitExpiry (package : Nat) (s : State) (passing : Option Nat := none) : Host.Outcome State Fault Refusal :=
  let passed := passing.any fun since => decide (since + s.settings.lostlimit * Config.cyclesPerUs ≤ s.clock)
  if tapOn s && isMaster s && (livePackages s).contains package && package != s.pkg && (passed || silent s package) then
    .next { (queueRecord s (ringRecord s 0 package) none) with epoch := s.epoch + 1 }
  else .next s

/-! ### Applying a record (R262 to R264) -/

/-- The record that is to be applied next. -/
def nextRecord (s : State) : Option Record :=
  if !tapOn s || s.ring.outOfStep then none else tget s.ring.held (s.ring.applied.toNat + 1)

/-- The next record, if it is of one of the kinds. One of the reserved CLASS 3 counts as one of a reserved kind, with no effect (DESIGN CHOICE, log 97). -/
def nextOf' (s : State) (p : Nat → Bool) : Option Record := (nextRecord s).filter fun r => p (if r.cls == 3 then 11 else r.kind)

/-- Writes the result of a record whose RWAY asked for one (R528). -/
def giveResult (s : State) (m old status : Nat) : State :=
  match s.ring.results.find? fun r => r.1 == m with
  | none => s
  | some (_, v, crew, off) =>
    let s := s.modRing fun r => { r with results := r.results.filter fun x => x.1 != m }
    if (tget s.convoys v).isNone then s
    else
      let s := writeScratch s none (crewKey v crew) off (bytesOf 32 (pack [(0, old), (64, m), (128, status)]))
      noteWriteEa s (((tget s.convoys v).map (·.context)).getD 0) v crew (BitVec.ofNat 64 (0xF1 * 2 ^ 56 + off)) 32

/-- A record has been applied (R262, R263, R264): the applied milestone advances, and its result is written. -/
def finishRecord (s : State) (r : Record) (old : Nat) (fail malformed : Bool) : State :=
  let s := s.modRing fun x => { x with
    applied := r.milestone
    held := tdel x.held r.milestone.toNat
    appliedCount := x.appliedCount + 1
    errors := x.errors + (if malformed then 1 else 0)
    waitingPte := none }
  { (giveResult s r.milestone.toNat old (1 + 2 * fail.toNat + 4 * malformed.toNat)) with epoch := s.epoch + 1 }

/-- The payload of a record, as a number. -/
def recordPay (r : Record) : Nat := leNat (r.payload.take 48)

/-- A waymark record stays within the window of its context (R270, R271). -/
def waymarkOk (s : State) (r : Record) : Bool :=
  payloadOk r.kind (recordPay r) && inWaymark (s.context r.context).desc.wmSize (payOffset (recordPay r)) (paySize (recordPay r))

/-- The place of a record's bytes in the store. -/
def waymarkAt (s : State) (r : Record) : Nat := (s.context r.context).desc.wmBase + payOffset (recordPay r)

/-- Writes bytes of the store, and tells those who watch their lines (R197, R201). -/
def writeWaymark (s : State) (a : Nat) (bs : List Byte) : State :=
  (linesOf a bs.length).foldl (fun s l => markChanged s none (waymarkPlace l)) { s with waymark := writeRun s.waymark a bs }

/-- RECORD_WRITE (R262, R271): the next record, if it is a WRITE; one of a reserved kind or class is applied as no effect. -/
def execRecordWrite (s : State) : Host.Outcome State Fault Refusal :=
  match nextOf' s fun k => k == 0 || decide (11 ≤ k) with
  | none => .next s
  | some r =>
    if r.cls == 3 || r.kind != 0 || !waymarkOk s r then .next (finishRecord s r 0 false true)
    else .next (finishRecord (writeWaymark s (waymarkAt s r) ((r.payload.drop 8).take (paySize (recordPay r)))) r 0 false false)

/-- What an RMW record makes of the value before it: the new value and the fail bit (R272). -/
def rmwNew (kind size flags old a b : Nat) : Nat × Bool :=
  let n := 8 * size
  if kind == 1 then (if flags / 2 % 2 == 1 && decide (b < old + a) then (old, true) else ((old + a) % 2 ^ n, false))
  else if kind == 2 then (if old == a then (b, false) else (old, true))
  else if kind == 3 then
    let greater : Bool := if flags % 2 == 1 then (BitVec.ofNat n old).slt (BitVec.ofNat n a) else decide (old < a)
    (if greater then a else old, false)
  else (old ||| a, false)

/-- Applies an RMW record of a kind (R272). -/
def applyRmw (kind : Nat) (s : State) : Host.Outcome State Fault Refusal :=
  match nextOf' s (· == kind) with
  | none => .next s
  | some r =>
    if !waymarkOk s r then .next (finishRecord { s with draws := s.draws + 1 } r (Config.freeDword s.draws 682).toNat false true)
    else
      let p := (recordPay r)
      let size := paySize p
      let at' := waymarkAt s r
      let old := readNat s.waymark at' size
      let x := rmwNew kind size (bits p 40 8) old (bits p 64 (8 * size)) (bits p 128 (8 * size))
      .next (finishRecord (writeWaymark s at' (bytesOf size x.1)) r old x.2 false)

/-- RECORD_ADD (R272). -/
def execRecordAdd (s : State) : Host.Outcome State Fault Refusal := applyRmw 1 s

/-- RECORD_CAS (R272). -/
def execRecordCas (s : State) : Host.Outcome State Fault Refusal := applyRmw 2 s

/-- RECORD_MAX (R272). -/
def execRecordMax (s : State) : Host.Outcome State Fault Refusal := applyRmw 3 s

/-- RECORD_BITSET (R272). -/
def execRecordBitset (s : State) : Host.Outcome State Fault Refusal := applyRmw 4 s

/-! ### Launches of several packages (R315) -/

/-- The first convoy index of a rank, and the one after its last: `n` packages share `count` convoys. -/
def rankRange (count n rank : Nat) : Nat × Nat :=
  let b := (count + n - 1) / n
  (min (rank * b) count, min ((rank + 1) * b) count)

/-- Enqueues a launch's card at this package if PKGMASK names it (R315): its rank among the packages, and its convoys. -/
def enqueueLaunch (s : State) (context : Nat) (launch : Word) (card : Card) (mask : BitVec 128) (seq : Dword) : State :=
  if !mask.getLsbD s.pkg then s
  else
    let ps := bitsSet mask
    let rank := (ps.filter fun p => decide (p < s.pkg)).length
    let r := rankRange card.count ps.length rank
    enqueueCard s context launch card none rank r.1 r.2 true (some seq)

/-- RECORD_LAUNCH (R315): a package that the record names enqueues the card. The receiver has the descriptor in its command;
`descriptor` is what the package that holds it gives. -/
def execRecordLaunch (descriptor : List Byte) (s : State) : Host.Outcome State Fault Refusal :=
  match nextOf' s (· == 5) with
  | none => .next s
  | some r =>
    let p := (recordPay r)
    let pa := bits p 64 64
    let mask := BitVec.ofNat 128 (bits p 128 128)
    let own := s.hostq.commands.find? fun c => c.op == 1 && (c.payload.drop 80).take 4 == r.payload.take 4
    let bs := match own with
      | some c => c.payload.take 64
      | none => if paPkg pa == s.pkg then peekBytes s pa 64 else descriptor.take 64
    if !mask.getLsbD s.pkg then .next (finishRecord s r 0 false false)
    else if bs.length != 64 || decide (Config.cardEntries ≤ s.disp.cards.length) then .next s
    else if !cardOk (leNat bs) then .next (finishRecord s r 0 false true)
    else
      let launch : Word := BitVec.ofNat 32 (bits p 0 32)
      .next (finishRecord (enqueueLaunch s r.context launch (cardOf (leNat bs)) mask ((own.map (·.seq)).getD 0)) r 0 false false)

/-! ### Translations (R124), regions, triggers, checkpoints -/

/-- Every stack writes its dirty bytes of non-coherent lines back, so that the stores that have been made are performed at their homes (R124). -/
def cleanAll (s : State) : State := (List.range 4).foldl (fun s k => cleanStack s k 5) s

/-- Forgets every translation of a context (R124; DESIGN CHOICE, log 54). -/
def dropTranslations (s : State) (context : Nat) : State :=
  let s := cleanAll s
  let keep (t : List (Nat × Nat × Nat)) : List (Nat × Nat × Nat) := t.filter fun e => e.1 != context
  { s with cores := tmap s.cores fun _ c => { c with tlb := keep c.tlb }, perStack := s.perStack.map fun k => { k with tlb := keep k.tlb } }

/-- The wave's transaction holds stores to memory, at the addresses that its translations gave. -/
def buffersMemory (w : Wave) : Bool := w.txn.buffer.any fun l => l.place.space == .mem

/-- The accesses of a context that are outstanding (R124): packets (0), with the write-backs of the stacks, loads (2), and transactions that hold
stores to memory (3; DESIGN CHOICE, log 86). -/
def contextAccesses (s : State) (context : Nat) : List (Nat × Nat) :=
  ((s.fabric.sent.filter fun p => (p.packet.context == context || p.back.isSome) && decide (p.stage < 2)).map fun p => (0, p.packet.tag)) ++
  ((s.loads.filter fun e => waveContext s e.2.wave == context).map fun e => (2, e.1)) ++
  (s.waves.filter fun e => waveContext s e.1 == context && buffersMemory e.2).map fun e => (3, e.1)

/-- None of the accesses is outstanding any more. -/
def accessesDone (s : State) (l : List (Nat × Nat)) : Bool :=
  l.all fun g =>
    if g.1 == 0 then !(s.fabric.sent.any fun p => p.packet.tag == g.2 && decide (p.stage < 2))
    else if g.1 == 3 then !((tget s.waves g.2).any buffersMemory)
    else (tget s.loads g.2).isNone

/-- RECORD_PTE (R124): the translations go, and the record is applied once every access that used them has completed. -/
def execRecordPte (s : State) : Host.Outcome State Fault Refusal :=
  match nextOf' s (· == 6) with
  | none => .next s
  | some r => match s.ring.waitingPte with
    | some l => .next (if accessesDone s l then finishRecord s r 0 false false else s)
    | none =>
      let s := dropTranslations s r.context
      let l := contextAccesses s r.context
      .next (if l.isEmpty then finishRecord s r 0 false false else s.modRing fun x => { x with waitingPte := some l })

/-- RECORD_REGION (R153, R273). -/
def execRecordRegion (s : State) : Host.Outcome State Fault Refusal :=
  match nextOf' s (· == 7) with
  | none => .next s
  | some r =>
    if !regionPayloadOk (recordPay r) then .next (finishRecord s r 0 false true)
    else if regionBusy s (recordPay r) then .next s
    else .next (finishRecord (applyRegion s r.milestone (recordPay r)) r 0 false false)

/-- RECORD_TRIGGER (R363): a record whose reserved bytes are not zero is malformed. -/
def execRecordTrigger (s : State) : Host.Outcome State Fault Refusal :=
  match nextOf' s (· == 8) with
  | none => .next s
  | some r =>
    if bits (recordPay r) 64 320 != 0 then .next (finishRecord s r 0 false true)
    else .next (finishRecord (applyTrigger s (BitVec.ofNat 64 (bits (recordPay r) 0 64))) r 0 false false)

/-- RECORD_SNAP (R365): as for a trigger. -/
def execRecordSnap (s : State) : Host.Outcome State Fault Refusal :=
  match nextOf' s (· == 9) with
  | none => .next s
  | some r =>
    if bits (recordPay r) 64 320 != 0 then .next (finishRecord s r 0 false true)
    else .next (finishRecord (applySnap s r.context (BitVec.ofNat 64 (bits (recordPay r) 0 64)) r.milestone) r 0 false false)

/-! ### Membership (R269, R273, R282) -/

/-- The next record, if it is a RING record of a SUB; a malformed one (R273) counts as SUB 3. -/
def nextRing (s : State) (sub : Nat) : Option Record :=
  (nextOf' s (· == 10)).filter fun r =>
    let k := bits (recordPay r) 0 8
    (if k < 3 && bits (recordPay r) 8 8 < 128 then k else 3) == sub

/-- A package is lost (R269): packets to it are discarded and reported, waves that wait for it end alone, and nothing waits for it any more. -/
def losePackage (s : State) (p : Nat) : State :=
  if p == s.pkg || isLost s p then s
  else
    let gone := s.fabric.sent.filter fun x => x.packet.dst == p
    let s := { s with fabric := { s.fabric with lost := s.fabric.lost ++ [p], sent := s.fabric.sent.filter fun x => x.packet.dst != p } }
    let s := gone.foldl (fun s x => match x.loss with | some r => addReport s r | none => s) s
    let waiting := (s.loads.filter fun e => e.2.package == p).map (·.2)
    let s := { s with loads := s.loads.filter fun e => e.2.package != p }
    let lone (s : State) (l : PendingLoad) : State := match tget s.waves l.wave with
      | some w => if w.ended then s else containWave s l.wave l.pc ((l.addrs.head?.map (·.2)).getD 0) l.lanes
      | none => s
    let s := sendsLost (vatLost (switchesLost (waiting.foldl lone s))) p
    (s.collectives.map (·.1)).foldl agree s

/-- RING_LOST (R269). -/
def execRingLost (s : State) : Host.Outcome State Fault Refusal :=
  match nextRing s 0 with
  | none => .next s
  | some r => .next (finishRecord (losePackage s (bits (recordPay r) 8 8)) r 0 false false)

/-- RING_JOIN (R269): a package that has been reset is live again, and its flows start anew. -/
def execRingJoin (s : State) : Host.Outcome State Fault Refusal :=
  match nextRing s 1 with
  | none => .next s
  | some r =>
    let p := bits (recordPay r) 8 8
    let f := s.fabric
    let s := if isLost s p then { s with fabric := { f with
        lost := f.lost.filter (· != p)
        nextSeq := f.nextSeq.filter fun e => e.1 % 256 != p
        expected := f.expected.filter fun e => e.1 % 256 != p
        arrived := f.arrived.filter fun e => e.1 != p } } else s
    .next (finishRecord s r 0 false false)

/-- RING_DONE (R273, R282): a member's report of a collective; a malformed RING record is applied as no effect. -/
def execRingDone (s : State) : Host.Outcome State Fault Refusal :=
  match nextRing s 3 with
  | some r => .next (finishRecord s r 0 false true)
  | none => match nextRing s 2 with
    | none => .next s
    | some r =>
      let p := (recordPay r)
      .next (finishRecord (applyDone s r.context (bits p 32 32) (bits p 8 8) (bits p 64 32) (BitVec.ofNat 128 (bits p 256 128))) r 0 false false)

/-! ### Recovery of a package out of step (R266) -/

/-- The result of a record that the loaded image already holds: its value before and its fail bit are open (DESIGN CHOICE, log 62). -/
def giveOpenResult (s : State) (m : Nat) : State :=
  { (giveResult s m (Config.freeDword s.draws 680).toNat (1 + 2 * (Config.freeBool s.draws 681).toNat)) with draws := s.draws + 1 }

/-- OUT_OF_STEP_RECOVERY (R266): the driver loads a waymark image with its milestone, and the package goes on at the next one. -/
def execOutOfStepRecovery (milestone : Dword) (image : List (Nat × Byte)) (s : State) : Host.Outcome State Fault Refusal :=
  if !s.ring.outOfStep then .next s
  else
    let s := { s with waymark := writeCells [] (image.filter fun c => decide (c.1 < 2 ^ 24)) }
    let watch (e : ReadEntry) : ReadEntry := if e.place.space == .waymark then { e with changed := true } else e
    let s := { s with waves := tmap s.waves fun _ w => { w with txn := { w.txn with reads := w.txn.reads.map watch } } }
    let s := s.modRing fun r => { r with
      applied := milestone, outOfStep := false, waitingPte := none, held := r.held.filter fun e => decide (milestone.toNat < e.1)
      seen := if r.seen.toNat < milestone.toNat then milestone else r.seen }
    let due := (s.ring.results.map (·.1)).filter fun m => decide (m ≤ milestone.toNat)
    .next { (due.foldl giveOpenResult s) with epoch := s.epoch + 1 }

end Sys2Proof.Machine
end

