-- ==== Sys2Proof/Machine/HostRegs.lean ====
section
/-! DEFINITION. Configuration space as the driver writes it (R371 to R377, R301, R130, R349, R359, R379 to R383), and MSI-X messages (R382). -/

namespace Sys2Proof.Machine

/-! ### Context descriptors (R301) -/

/-- A descriptor from its 128 bytes, as a number. -/
def descOf (n : Nat) : Descriptor :=
  let q (byte : Nat) : Dword := BitVec.ofNat 64 (bits n (8 * byte) 64)
  { root := q 0, slotSize := bits n 96 16, saveSlots := bits n 112 16, saveBase := q 16, bndBase := bits n 192 8, bndCount := bits n 200 8
    faultqLog := bits n 224 8, faultQuota := bits n 232 8, cardQuota := bits n 240 16, watchdog := bits n 256 16
    unordered := BitVec.ofNat 16 (bits n 272 16), classmap := BitVec.ofNat 32 (bits n 288 32), wmSize := bits n 320 32, wmBase := bits n 352 32
    faultq := q 48, handler := q 56, trampBase := q 64, spillBase := q 72, gridPa := q 80, gridVa := q 88 }

/-- The 128 bytes of a context's descriptor, as a number. -/
def descBits (context : Nat) (d : Descriptor) : Nat :=
  pack [(0, d.root.toNat), (96, d.slotSize), (112, d.saveSlots), (128, d.saveBase.toNat), (192, d.bndBase), (200, d.bndCount), (208, context),
    (224, d.faultqLog), (232, d.faultQuota), (240, d.cardQuota), (256, d.watchdog), (272, d.unordered.toNat), (288, d.classmap.toNat),
    (320, d.wmSize), (352, d.wmBase), (384, d.faultq.toNat), (448, d.handler.toNat), (512, d.trampBase.toNat), (576, d.spillBase.toNat),
    (640, d.gridPa.toNat), (704, d.gridVa.toNat)]

/-- A global physical address of a package of the pod, aligned (R116). -/
def globalAligned (a n : Nat) : Bool := decide (a < 2 ^ 60) && decide (paPkg a < 128) && a % n == 0

/-- The fields of a descriptor lie in their ranges (R301, R101). A window whose WMBASE + WMSIZE passes 16 MiB is accepted, and the store may hold
bytes beyond (DESIGN CHOICE, log 81). -/
def descOk (pkg context n : Nat) : Bool :=
  let d := descOf n
  globalAligned d.root.toNat 2048 && virtualAligned d.saveBase 65536 && decide (d.bndBase < 64) && decide (d.bndBase + d.bndCount ≤ 64) &&
  bits n 208 16 == context && decide (7 ≤ d.faultqLog) && decide (d.faultqLog ≤ 16) && decide (1 ≤ d.faultQuota) && decide (d.faultQuota ≤ 64) &&
  decide (1 ≤ d.cardQuota) && decide (d.cardQuota ≤ 4096) && ((List.range 16).all fun k => bits d.classmap.toNat (2 * k) 2 != 3) &&
  decide (d.wmSize ≤ 2 ^ 24) && d.wmSize % 65536 == 0 && decide (d.wmBase < 2 ^ 24) && d.wmBase % 65536 == 0 &&
  globalAligned d.faultq.toNat 4096 && virtualAligned d.handler 4 && virtualAligned d.trampBase 1 && virtualAligned d.spillBase 1 &&
  globalAligned d.gridPa.toNat 4096 && paPkg d.gridPa.toNat == pkg && virtualAligned d.gridVa 4096

/-- The grid page of a context is zero when it is set (R312; DESIGN CHOICE, log 40). -/
def newGrid (s : State) (context : Nat) (d : Descriptor) : State :=
  let x := s.context context
  if d.gridPa == x.desc.gridPa then s
  else agentWrite (s.setContext context { x with grid := [] }) none d.gridPa.toNat (List.replicate 4096 0)

/-- A write of a whole descriptor (R301, R302); `queue` where it covers FAULTQ or FAULTQLOG, which sets the pointers of the fault queue to zero
(R130). -/
def writeDescriptor (s : State) (context n : Nat) (queue : Bool) : State :=
  if decide (4096 ≤ context) || !descOk s.pkg context n then s
  else
    let d := descOf n
    let s := newGrid s context d
    let x := s.context context
    let x := { x with desc := d, fqWr := if queue then 0 else x.fqWr, fqRd := if queue then 0 else x.fqRd }
    flushFaults { (s.setContext context x) with epoch := s.epoch + 1 } context

/-- CONTEXT_DESCRIPTOR_WRITE (R301, R130). -/
def execContextDescriptorWrite (context : Nat) (bytes : List Byte) (s : State) : Host.Outcome State Fault Refusal :=
  .next (if bytes.length == 128 then writeDescriptor s context (leNat bytes) true else s)

/-- CONTEXT_TEARDOWN (R285): the context's Vat slots are freed, and its cards leave the store; a part none of whose
convoys is resident or saved ends. That such a part ends is read from R285 and R313 (DEDUCED, log 70). -/
def execContextTeardown (context : Nat) (s : State) : Host.Outcome State Fault Refusal :=
  let s := vatTeardown s context
  let gone := s.disp.cards.filter fun e => e.2.context == context
  let parts := gone.map (·.2.part)
  let left := s.disp.left ++ gone.map fun e => (s.context e.2.context).desc.gridPa
  let s := { s with disp := { s.disp with cards := s.disp.cards.filter fun e => e.2.context != context, left := left }, epoch := s.epoch + 1 }
  .next (parts.foldl (fun s k => if s.convoys.any fun e => e.2.part == k then s else endPart s k) s)

/-! ### Ring blocks (R373, R130) -/

/-- The base of a ring is in its range. -/
def ringBaseOk (v : Dword) : Bool := globalAligned v.toNat 4096

/-- A log size of a ring is in its range. -/
def ringLogOk (v : Dword) : Bool := decide (7 ≤ v.toNat) && decide (v.toNat ≤ 20)

/-- A field of a ring block after a write (R373). -/
def writeRing (x : Context) (field : RingField) (v : Dword) : Context :=
  match field with
  | .sampBase => if ringBaseOk v then { x with sampBase := v, sampWr := 0, sampRd := 0 } else x
  | .sampLog => if ringLogOk v then { x with sampLog := v.toNat, sampWr := 0, sampRd := 0 } else x
  | .sampRd => if v.toNat ≤ x.sampWr.toNat then { x with sampRd := v } else x
  | .sampDrop => if v == 0 then { x with sampDrop := 0 } else x
  | .evBase => if ringBaseOk v then { x with evBase := v, evWr := 0, evRd := 0 } else x
  | .evLog => if ringLogOk v then { x with evLog := v.toNat, evWr := 0, evRd := 0 } else x
  | .evRd => if v.toNat ≤ x.evWr.toNat then { x with evRd := v } else x
  | .evDrop => if v == 0 then { x with evDrop := 0 } else x

/-- RING_BLOCK_BASE_WRITE (R373). -/
def execRingBlockBaseWrite (context : Nat) (field : RingField) (value : Dword) (s : State) : Host.Outcome State Fault Refusal :=
  .next (if context < 4096 then s.setContext context (writeRing (s.context context) field value) else s)

/-- FQRD_WRITE (R130): the driver has consumed records, and held ones are written. -/
def execFqrdWrite (context : Nat) (value : Dword) (s : State) : Host.Outcome State Fault Refusal :=
  let x := s.context context
  .next (if decide (4096 ≤ context) || decide (x.fqWr.toNat < value.toNat) then s
    else flushFaults (s.setContext context { x with fqRd := value }) context)

/-! ### The tap, the bound table, rights -/

/-- BOUND_TABLE_WRITE (R102, R105): its reserved bits are ignored. -/
def execBoundTableWrite (index : Nat) (value : BitVec 128) (s : State) : Host.Outcome State Fault Refusal :=
  .next (if index < 64 then { s with bound := tset 0 s.bound index value } else s)

/-- The driver grants or revokes debug rights over a context, and clears MODIFIED (R349, R350; DESIGN CHOICE, log 49). -/
def writeRights (s : State) (context : Nat) (v : Nat) : State :=
  let x := s.context context
  let s := if bits v 1 1 == 1 then s.setContext context { x with modified := false } else s
  if bits v 0 1 == 1 then s.setContext context { s.context context with rights := true }
  else match execRightsRevoke context s with
    | .next t => t
    | _ => s

/-- SAMPCTL of a context (R359; DESIGN CHOICE, log 49): LOG2N is bits [4:0], and the reserved bits are ignored (R6). -/
def writeSampctl (s : State) (context : Nat) (v : Nat) : State :=
  let n := v % 32
  if n == 0 || (decide (6 ≤ n) && decide (n ≤ 16)) then s.setContext context { s.context context with log2n := n } else s

/-! ### Completions (R381, R383) -/

/-- Where a host address lies. -/
def hostPa (s : State) (a : Nat) : Nat := mkPa s.pkg 8 (a % 2 ^ 48)

/-- The bytes of a completion entry (R381). -/
def completionBytes (c : Completion) : List Byte :=
  bytesOf 32 (pack [(0, c.result.toNat), (64, c.status), (96, c.launch.toNat), (128, c.seq.toNat), (192, c.cseq.toNat)])

/-- Writes a completion entry into the ring. -/
def writeCompletion (s : State) (c : Completion) : State :=
  agentWrite s none (hostPa s (s.hostq.dqBase.toNat + 32 * (c.cseq.toNat % 2 ^ s.hostq.dqLog))) (completionBytes c)

/-- Writes held completions while the ring has room (R381). Once none is held, CPLFULL clears. -/
def pumpCompletions : Nat → State → State
  | 0, s => s
  | n + 1, s => match s.hostq.heldCpl with
    | [] => if s.hostq.cplFull then { s with hostq := { s.hostq with cplFull := false } } else s
    | c :: rest =>
      if 2 ^ s.hostq.dqLog ≤ (s.hostq.lastCseq - s.hostq.dqHead).toNat then s
      else
        let c := { c with cseq := s.hostq.lastCseq + 1 }
        let s := writeCompletion s c
        let kept := if 256 ≤ s.hostq.written.length then s.hostq.written.tail else s.hostq.written
        pumpCompletions n (signal { s with hostq := { s.hostq with heldCpl := rest, lastCseq := c.cseq, written := kept ++ [c] } } 0)

/-- Every completion that can be written is. -/
def flushCompletions (s : State) : State := pumpCompletions (s.hostq.heldCpl.length + 1) s

/-- DQHEAD_WRITE (R381). -/
def execDqheadWrite (value : Dword) (s : State) : Host.Outcome State Fault Refusal :=
  .next (flushCompletions { s with hostq := { s.hostq with dqHead := value } })

/-- GAP is set, and the host told (R380, R382, R383). -/
def setGap (s : State) : State := signal { s with hostq := { s.hostq with gap := true } } 5

/-- DQREPLAY_WRITE (R383): the completions from one of the last 256 on are written again; else GAP is set. -/
def execDqreplayWrite (value : Dword) (s : State) : Host.Outcome State Fault Refusal :=
  let last := s.hostq.lastCseq.toNat
  if 1 ≤ value.toNat && value.toNat ≤ last && last - value.toNat < 256 then
    .next (signal ((s.hostq.written.filter fun c => decide (value.toNat ≤ c.cseq.toNat)).foldl writeCompletion s) 0)
  else .next (setGap s)

/-- GAP_CLEAR (R379, R380). -/
def execGapClear (s : State) : Host.Outcome State Fault Refusal := .next { s with hostq := { s.hostq with gap := false } }

/-- DOORBELL_WRITE (R379, R380). -/
def execDoorbellWrite (value : Dword) (s : State) : Host.Outcome State Fault Refusal :=
  .next { s with hostq := { s.hostq with doorbell := value } }

/-- LASTCMP (R379): every command with a SEQ up to it has completed. -/
def lastCmp (s : State) : Dword := s.hostq.commands.foldl (fun m c => if c.seq.toNat ≤ m.toNat then c.seq - 1 else m) s.hostq.lastAcc

/-- MSI_X_MESSAGE (R382): a vector sends at most one message every 2 µs, which covers every event since. -/
def execMsiXMessage (vector : Nat) (s : State) : Host.Outcome State Fault Refusal :=
  let m := vget s.msi vector { pending := false, sent := 0, lastSent := none }
  let free := match m.lastSent with | some t => decide (t + 2 * Config.cyclesPerUs ≤ s.clock) | none => true
  .next (if m.pending && free then
    { s with msi := s.msi.setIfInBounds vector { pending := false, sent := m.sent + 1, lastSent := some s.clock } } else s)

/-! ### Writes of registers (R372 to R379) -/

/-- What a write of 4 or 8 bytes makes of the 64-bit register at an offset. -/
def mergedReg (old off size value : Nat) : Nat :=
  if size == 8 then value % 2 ^ 64
  else if off % 8 == 0 then old / 2 ^ 32 * 2 ^ 32 + value % 2 ^ 32
  else old % 2 ^ 32 + value % 2 ^ 32 * 2 ^ 32

/-- A number lies in a range. -/
def between (lo hi v : Nat) : Bool := decide (lo ≤ v) && decide (v ≤ hi)

/-- The package settings after a write of the register at an offset of their page (R377). -/
def writeSetting (t : Settings) (off size value : Nat) : Settings :=
  let r := off / 8 * 8
  let m (old : Nat) : Nat := mergedReg old off size value
  if r == 0x000 then (if between 5 1000 (m t.leaseterm) then { t with leaseterm := m t.leaseterm } else t)
  else if r == 0x008 then (if m t.selftest == 0 || between 100 1000000 (m t.selftest) then { t with selftest := m t.selftest } else t)
  else if r == 0x010 then (if between 65536 (2 ^ 28) (m t.hanglimit) then { t with hanglimit := m t.hanglimit } else t)
  else if r == 0x018 then (if between 10 10000 (m t.preemptwait) then { t with preemptwait := m t.preemptwait } else t)
  else if r == 0x020 then (if between 5 1000 (m t.tokenwait) then { t with tokenwait := m t.tokenwait } else t)
  else if r == 0x028 then (if between 20 100000 (m t.lostlimit) then { t with lostlimit := m t.lostlimit } else t)
  else if r == 0x040 then (if globalAligned (m t.ckptBase.toNat) 4096 then { t with ckptBase := BitVec.ofNat 64 (m t.ckptBase.toNat) } else t)
  else if r == 0x048 then (if globalAligned (m t.buddyBase.toNat) 4096 then { t with buddyBase := BitVec.ofNat 64 (m t.buddyBase.toNat) } else t)
  else if between 0x100 0x17F r && (bytesOf size value).all (fun b => decide (b.toNat < 128) || b == 0xFF) then
    { t with ringOrder := (bytesOf size value).foldl (fun (o : Vector Byte 128 × Nat) b => (o.1.setIfInBounds o.2 b, o.2 + 1)) (t.ringOrder, off - 0x100) |>.1 }
  else t

/-- The queue registers after a write (R379). -/
def writeQueue (s : State) (off size value : Nat) : State :=
  let q := s.hostq
  let r := off / 8 * 8
  let d (old : Dword) : Dword := BitVec.ofNat 64 (mergedReg old.toNat off size value)
  let hostBase (v : Dword) : Bool := decide (v.toNat < 2 ^ 48) && v.toNat % 4096 == 0
  let then' (o : Host.Outcome State Fault Refusal) : State := match o with | .next t => t | _ => s
  if r == 0x00 then (if hostBase (d q.cqBase) then { s with hostq := { q with cqBase := d q.cqBase } } else s)
  else if r == 0x08 then
    (let v := mergedReg q.cqLog off size value; if between 4 16 v then { s with hostq := { q with cqLog := v } } else s)
  else if r == 0x10 then then' (execDoorbellWrite (d q.doorbell) s)
  else if off == 0x28 && value % 2 == 1 then then' (execGapClear s)
  else if r == 0x40 then (if hostBase (d q.dqBase) then { s with hostq := { q with dqBase := d q.dqBase } } else s)
  else if r == 0x48 then
    (let v := mergedReg q.dqLog off size value; if between 4 16 v then { s with hostq := { q with dqLog := v } } else s)
  else if r == 0x50 then then' (execDqheadWrite (d q.dqHead) s)
  else if r == 0x60 then then' (execDqreplayWrite (d 0) s)
  else s

/-- A ring block after a write (R373). -/
def writeBlock (s : State) (off size value : Nat) : State :=
  let c := off / 128
  let o := off % 128
  let x := s.context c
  let d (old : Dword) : Dword := BitVec.ofNat 64 (mergedReg old.toNat off size value)
  let put (f : RingField) (v : Dword) (s : State) : State := s.setContext c (writeRing (s.context c) f v)
  let half (f g : RingField) : State :=
    let s := if o % 8 == 0 then put f (BitVec.ofNat 64 (value % 256)) s else s
    if size == 8 then put g (BitVec.ofNat 64 (value / 2 ^ 32 % 2 ^ 32)) s else if o % 8 == 4 then put g (BitVec.ofNat 64 (value % 2 ^ 32)) s else s
  match o / 8 with
  | 0 => put .sampBase (d x.sampBase) s
  | 2 => put .sampRd (d x.sampRd) s
  | 3 => half .sampLog .sampDrop
  | 4 => put .evBase (d x.evBase) s
  | 6 => put .evRd (d x.evRd) s
  | 7 => half .evLog .evDrop
  | 9 => match execFqrdWrite c (d x.fqRd) s with | .next t => t | _ => s
  | _ => s

/-- A breakpoint register after a write (R349, R351): one that would arm it for a context without rights is not accepted. -/
def writeBreakpoint (s : State) (off size value : Nat) : State :=
  let core := off / 128
  let b := off % 128 / 16
  let k := s.core core
  let x := tgetD k.breakpoints b { addr := 0, cond := 0 }
  let d (old : Dword) : Dword := BitVec.ofNat 64 (mergedReg old.toNat off size value)
  let y : Breakpoint := if off % 16 < 8 then { x with addr := d x.addr } else { x with cond := d x.cond }
  if y.addr.toNat % 4 != 0 || (y.cond.getLsbD 27 && !(s.context (bits y.cond.toNat 0 12)).rights) then s
  else s.setCore core { k with breakpoints := tset { addr := 0, cond := 0 } k.breakpoints b y }

/-- A route-table entry after a write (R372, R251): ports 22 and 23. -/
def writeRoute (s : State) (off value : Nat) : State :=
  let p := off / 8
  if off % 8 == 0 && between 22 23 p then s.modPort p fun x => { x with enabled := bits value 0 1 == 1, peer := bits value 1 7 } else s

/-- An INJECT register's write (R343, R374). -/
def writeInject (s : State) (off value : Nat) : State :=
  let k := off / 8
  if off % 8 != 0 then s
  else
    let s := if bits value 0 1 == 1 then arm s (k / 512) (k / 128 % 4) (k % 128) 0 else s
    let s := if bits value 1 1 == 1 then arm s (k / 512) (k / 128 % 4) (k % 128) 1 else s
    if bits value 2 1 == 1 && k / 512 == 9 then arm s 9 (k / 128 % 4) (k % 128) 2 else s

/-- The bytes of a descriptor, or of another block, with those of a write put in. -/
def putIn (old off size value : Nat) : Nat := leNat (((bytesOf 128 old).take off) ++ bytesOf size value ++ ((bytesOf 128 old).drop (off + size)))

/-- A write to configuration space by its offset (R372): read-only and unassigned places ignore it. PCAP, the operating point, and the rights and
SAMPCTL of the contexts stand at offsets that the model gives them (DESIGN CHOICE, log 49). -/
def writeConfig (s : State) (off size value : Nat) : State :=
  let next (o : Host.Outcome State Fault Refusal) : State := match o with | .next t => t | _ => s
  let inside (base n : Nat) : Bool := decide (base ≤ off) && decide (off < base + n)
  if off == 0x200 then (if between 1200 2800 value then { s with power := { s.power with pcap := value } } else s)
  else if off == 0x208 then next (execDvfsPointSelect value s)
  else if inside 0x20000 1024 then
    let i := (off - 0x20000) / 16
    next (execBoundTableWrite i (BitVec.ofNat 128 (putIn (tgetD s.bound i 0).toNat (off % 16) size value % 2 ^ 128)) s)
  else if inside 0x30000 192 then writeRoute s (off - 0x30000) value
  else if inside 0x40000 4096 then writeQueue s (off - 0x40000) size value
  else if inside 0x100000 0x80000 then
    let c := (off - 0x100000) / 128
    let o := off % 128
    writeDescriptor s c (putIn (descBits c (s.context c).desc) o size value) (decide (o < 29 && 28 < o + size) || decide (o < 56 && 48 < o + size))
  else if inside 0x180000 0x80000 then writeBlock s (off - 0x180000) size value
  else if inside 0x300000 0x10000 then writeBreakpoint s (off - 0x300000) size value
  else if inside 0x310000 0x10000 then writeInject s (off - 0x310000) value
  else if inside 0x340000 0x20000 then
    let s := next (execRegionStatusClear ((off - 0x340000) / 4) (BitVec.ofNat 32 (value % 2 ^ 32)) s)
    if size == 8 then (match execRegionStatusClear ((off - 0x340000) / 4 + 1) (BitVec.ofNat 32 (value / 2 ^ 32)) s with | .next t => t | _ => s) else s
  else if inside 0x3C0000 4096 then
    let o := off - 0x3C0000
    if o == 0x030 then next (execRingctlWrite (BitVec.ofNat 64 value) s)
    else if o == 0x038 then next (execTriggerWrite (BitVec.ofNat 64 value) s)
    else { s with settings := writeSetting s.settings o size value }
  else if inside 0x3D0000 0x10000 then
    let c := (off - 0x3D0000) / 16
    if off % 16 == 0 then writeRights s c value else if off % 16 == 8 then writeSampctl s c value else s
  else s

/-- REGISTER_WRITE (R372, R374): a host write of 4 or 8 aligned bytes. In BOOTFAIL configuration space offers no register to write (R384). -/
def execRegisterWrite (offset size : Nat) (value : Dword) (s : State) : Host.Outcome State Fault Refusal :=
  .next (if (size == 4 || size == 8) && offset % size == 0 && s.bootState != 2 then
    writeConfig s offset size (value.toNat % 2 ^ (8 * size)) else s)

end Sys2Proof.Machine
end

