-- ==== Sys2Proof/Machine/Transactions.lean ====
section
/-! DEFINITION. The transaction instructions (R195 to R206, R543 to R548), and the wakes of R207 and R208. -/

namespace Sys2Proof.Machine

/-- What the checks of a transaction instruction need: one path (R195). -/
def txSpec : IssueSpec := { onePath := true }

/-- The state after TBEGIN (R203): at depth 0 the attempt starts afresh. -/
def Txn.begin (t : Txn) (pc label : Dword) : Txn :=
  let t := if t.depth == 0 then
    { Txn.none with start := pc, code := t.code } else t
  { t with depth := t.depth + 1, fails := t.fails.setIfInBounds t.depth.toNat label,
           alts := t.alts.setIfInBounds t.depth.toNat Option.none }

/-- `tbegin label` (R203, R543). -/
def execTbegin (o : BitVec 16) (s : State) : Host.Outcome State Fault Refusal :=
  run (.tbegin o) txSpec s fun c =>
    if c.w.txn.depth == 4 then .trap (Trap.mk' 0x0F 0)
    else .next (s.modWave c.key fun w => { w with txn := w.txn.begin c.path.pc (c.path.pc + (o.signExtend 64 <<< 2)) })

/-- The innermost level is closed with its alternative (R202, R204), its buffered lines as given. -/
def Txn.close (t : Txn) (buffer : List BufLine) : Txn :=
  { t with depth := t.depth - 1, buffer := buffer, alts := t.alts.setIfInBounds (t.depth.toNat - 1) Option.none,
           retained := t.retained || t.depth == 1 }

/-- The state after a successful outermost commit (R544): the watches are freed. -/
def Txn.committed (t : Txn) : Txn :=
  { t with depth := 0, buffer := [], reads := [], pageMode := false, retained := false, alts := Vector.replicate 4 Option.none }

/-- `tcommit` (R202, R544). -/
def execTcommit (s : State) : Host.Outcome State Fault Refusal :=
  run .tcommit txSpec s fun c =>
    let t := c.w.txn
    let d := t.depth.toNat
    if d == 0 then .next s
    else if 2 ≤ d then .next (s.modWave c.key fun w => { w with txn := w.txn.close (mergeLevel w.txn d) })
    else if t.hit then .abort s (txCause "CONFLICT")
    else if streamsOut s c.key then .wait 11 0
    else match commitTrap s c t.buffer with
    | some trap => .trap trap
    | none => withClean s c 3 11 0 fun s => match commitAll s c t.buffer with
      | none => homeWait s c 1 (t.buffer.filterMap fun l =>
          if l.place.space == .mem then some { lane := 0, ea := l.ea, tgt := .mem (128 * l.place.unit) l.cache } else none)
      | some s => .next ((acquireFor s c.key c.w.core 3).modWave c.key fun w => { w with txn := w.txn.committed })
where
  /-- An earlier access of the wave in any stream is outstanding: the commit is a release (R169, R202). -/
  streamsOut (s : State) (key : Nat) : Bool := (List.range 16).any fun k => releaseWaits s key k

/-- `tabort code` (R204, R545). -/
def execTabort (code : BitVec 8) (s : State) : Host.Outcome State Fault Refusal :=
  run (.tabort code) txSpec s fun c =>
    let t := c.w.txn
    let d := t.depth.toNat
    if d == 0 then .next s
    else .jump (s.modWave c.key fun w =>
      { w with txn := { (w.txn.close (w.txn.buffer.filter fun l => l.level != d)) with cause := txCause "EXPLICIT", code := code } }) (t.fail d)

/-- `telse label` (R205, R546). -/
def execTelse (o : BitVec 16) (s : State) : Host.Outcome State Fault Refusal :=
  run (.telse o) txSpec s fun c =>
    let d := c.w.txn.depth.toNat
    if d == 0 then .next s
    else
      let a : Alt := { label := c.path.pc + (o.signExtend 64 <<< 2), taken := false }
      .next (s.modWave c.key fun w => { w with txn := { w.txn with alts := w.txn.alts.setIfInBounds (d - 1) (some a) } })

/-- The highest open level with an alternative that has not been taken (R206). -/
def Txn.nextAlt (t : Txn) : Option (Nat × Dword) :=
  ((List.range t.depth.toNat).reverse.findSome? fun j => match vget t.alts j Option.none with
    | some a => if a.taken then Option.none else some (j + 1, a.label)
    | Option.none => Option.none)

/-- `tretry` (R206, R547): the next alternative; or the attempt ends, and runs again at once where an entry has changed, else once
one does. -/
def execTretry (s : State) : Host.Outcome State Fault Refusal :=
  run .tretry txSpec s fun c =>
    let t := c.w.txn
    if t.depth == 0 && !t.retained then .next s
    else match t.nextAlt with
      | some (j, label) =>
        .jump (s.modWave c.key fun w => { w with txn := { w.txn with
          depth := BitVec.ofNat 3 j
          buffer := w.txn.buffer.filter fun l => decide (l.level < j)
          alts := (w.txn.alts.mapIdx fun i a => if decide (j ≤ i) then Option.none else a).setIfInBounds (j - 1)
            (some { label := label, taken := true }) } }) label
      | none =>
        let ended : Txn := { t with depth := 0, buffer := [], retained := true, alts := Vector.replicate 4 Option.none }
        if t.hit then
          .jump (s.modWave c.key fun w => { w with txn := { ended with
            cause := txCause "WOKEN"
            reads := ended.reads.map fun e => { e with tabled := false } } }) t.start
        else .jump (s.modWave c.key fun w => { w with txn := ended, asleep := true, sleptAt := s.clock }) t.start

/-- The status word (R209). -/
def Txn.status (t : Txn) : Dword :=
  let altrun := (List.range t.depth.toNat).any fun j => match vget t.alts j Option.none with | some a => a.taken | Option.none => false
  BitVec.ofNat 64 (pack [(32, t.code.toNat), (24, t.reads.length), (23, t.pageMode.toNat), (22, t.retained.toNat), (21, altrun.toNat),
    (18, t.depth.toNat), (0, t.cause.toNat)])

/-- `tstat sD` (R209, R548). -/
def execTstat (d : BitVec 6) (s : State) : Host.Outcome State Fault Refusal :=
  run (.tstat d) txSpec s fun c => .next (s.modWave c.key fun w => w.setSreg d.toNat c.w.txn.status)

/-! ### Wakes (R207, R208) -/

/-- A sleeping wave is woken (R206, R208): its watches are freed, and it goes on at START. -/
def Wave.woken (w : Wave) (cause : BitVec 4) : Wave :=
  { w with asleep := false, txn := { w.txn with cause := cause, reads := w.txn.reads.map fun e => { e with tabled := false } } }

/-- A change of a line that the wave watches has reached its stack. -/
def Wave.noticed (w : Wave) : Bool := w.txn.reads.any fun e => e.changed && e.tabled

/-- WAKE (R201, R206, R207): a change to a watched line reaches the wave, which wakes, or whose attempt aborts with CONFLICT. -/
def execWake (wave : Nat) (s : State) : Host.Outcome State Fault Refusal :=
  match tget s.waves wave with
  | none => .next s
  | some w =>
    if w.ended || !w.noticed || (tget s.convoys (keyConvoy wave)).all fun v => v.residence != .placed then .next s
    else if w.asleep then .next { (s.setWave wave (w.woken (txCause "WOKEN"))) with epoch := s.epoch + 1 }
    else if w.txn.depth != 0 then
      .next { (s.setWave wave (abortAttempt w (w.div.valid.headD 0) (txCause "CONFLICT"))) with epoch := s.epoch + 1 }
    else .next s

/-- A sleeping wave is due its timed wake (R208): an entry of its read set is in no wake table, and 4 µs have passed. -/
def timedDue (s : State) (w : Wave) : Bool :=
  w.asleep && !w.ended && (w.txn.reads.any fun e => !e.tabled) && decide (w.sleptAt + 4 * Config.cyclesPerUs ≤ s.clock)

/-- TIMED_WAKE (R208). -/
def execTimedWake (s : State) : Host.Outcome State Fault Refusal :=
  match s.waves.find? fun e => timedDue s e.2 && (tget s.convoys (keyConvoy e.1)).any fun v => v.residence == .placed with
  | none => .next s
  | some e => .next { (s.modWave e.1 fun w => w.woken (txCause "SPURIOUS")) with epoch := s.epoch + 1 }

end Sys2Proof.Machine
end

