-- ==== Sys2Proof/Machine/Eviction.lean ====
section
/-! DEFINITION. Blocking points, the choice of victims, eviction with its save slot, and restore (R316 to R320). -/

namespace Sys2Proof.Machine

/-! ### Blocking points (R316, R323) -/

/-- A wave is at a blocking point (R316): a sleeper, one parked on a fault, or one all of whose paths wait for another package or at REGANG. R194
says that no stall, parking on a fault included, is a blocking point; R134 and R316 make a parked wave one, and are followed (DESIGN CHOICE, log 80). -/
def Wave.atBlocking (w : Wave) : Bool :=
  let paths := w.div.valid.map w.div.path
  let held (p : Path) : Bool := match p.hold with | .debug => true | .joint _ _ => true | _ => false
  !w.inHandler && w.txn.depth == 0 && !paths.any held &&
  (w.asleep || w.park.isSome || paths.all fun p => p.waitedLong || p.hold == .regang)

/-- A convoy is evictable (R316). -/
def evictable (s : State) (v : Nat) : Bool :=
  match tget s.convoys v with
  | none => false
  | some c =>
    c.residence == .placed && decide (c.noEvictUntil ≤ s.clock) &&
    s.waves.all fun e => keyConvoy e.1 != v || ((e.2.ended || e.2.atBlocking) && e.2.remoteStores == 0)

/-- The convoys that are to be evicted together, each evictable (R320): one convoy, or all those of a gang under its lowest. -/
def evictUnits (s : State) : List (Nat × Convoy × List Nat) :=
  s.convoys.filterMap fun e =>
    let g := (gangOf s e.1 e.2).filter fun k => (tget s.convoys k).any fun c => !c.isSaved
    if g.head? == some e.1 && g.all (evictable s) then some (e.1, e.2, g) else none

/-- Freezes convoys for their eviction (R318, steps 1 and 2). The paths that were selected last keep their chains over it (R68). -/
def freezeAll (s : State) (vs : List Nat) : State :=
  let t := vs.foldl (fun s v => { s with convoys := tmod s.convoys v fun c => { c with residence := .evicting } }) s
  { t with waves := tmap s.waves (fun k w => if vs.contains (keyConvoy k) then keepChain s k w else w), epoch := s.epoch + 1 }

/-! ### Victims (R317) -/

/-- A victim comes before another: lower PRIO, then more recently placed. -/
def victimBefore (x y : Convoy) : Bool := decide (x.prio < y.prio) || (x.prio == y.prio && decide (y.placedAt < x.placedAt))

/-- Puts a victim into the order. -/
def insertVictim (x : Nat × Convoy × List Nat) : List (Nat × Convoy × List Nat) → List (Nat × Convoy × List Nat)
  | [] => [x]
  | y :: t => if victimBefore x.2.1 y.2.1 then x :: y :: t else y :: insertVictim x t

/-- The state without the convoys of some victims, for planning. -/
def without (s : State) (vs : List (Nat × Convoy × List Nat)) : State :=
  let gone := vs.flatMap (·.2.2)
  { s with convoys := s.convoys.filter fun e => !gone.contains e.1 }

/-- The candidate fits once the victims are gone. -/
def fitsWithout (s : State) (x : Candidate) (vs : List (Nat × Convoy × List Nat)) : Bool := (findPlan (without s vs) x fun _ => true).isSome

/-- The choices of `n` elements of a list, in its order. -/
def choicesOf {α : Type} : Nat → List α → List (List α)
  | 0, _ => [[]]
  | _ + 1, [] => []
  | n + 1, x :: t => (choicesOf n t).map (x :: ·) ++ choicesOf (n + 1) t

/-- The victims for a candidate (R317): as few as free the cores it needs, and of those the first in the order of victims (DESIGN CHOICE, log 51). -/
def victims (s : State) (x : Candidate) : List (Nat × Convoy × List Nat) :=
  let l := ((evictUnits s).filter fun v => decide (v.2.1.prio < x.prio)).foldl (fun l v => insertVictim v l) []
  ((List.range (l.length + 1)).findSome? fun n => (choicesOf n l).find? (fitsWithout s x)).getD []

/-- PREEMPTWAIT_EXPIRY (R317): a candidate that has been chosen for PREEMPTWAIT and could not be placed has victims evicted for it. -/
def execPreemptwaitExpiry (s : State) : Host.Outcome State Fault Refusal :=
  let due (x : Candidate) : Bool := (x.since.any fun t => decide (t + s.settings.preemptwait * Config.cyclesPerUs ≤ s.clock)) &&
    (findPlan s x fun _ => true).isNone
  if s.convoys.any fun e => e.2.residence == .evicting then .next s
  else match (ordered s).find? due with
  | none => .next s
  | some x =>
    let vs := (victims s x).flatMap (·.2.2)
    .next (if vs.isEmpty then s else freezeAll s vs)

/-! ### The save record (R318, R319; DESIGN CHOICE, log 52) -/

/-- Bytes padded with zeros to a length. -/
def padTo (n : Nat) (bs : List Byte) : List Byte := (bs ++ List.replicate (n - bs.length) 0).take n

/-- A card's 64 bytes, as a number (R303, R304). -/
def cardBits (c : Card) : Nat :=
  let shape := pack [(62, c.w1kind), (60, c.w0kind), (58, c.target), (56, c.prio), (54, c.bind), (53, c.gang.toNat), (40, c.scratch), (35, c.tiles),
    (30, c.ext), (25, c.regs), (20, c.waves), (16, c.crews)]
  pack [(0, c.entry.toNat), (64, c.param.toNat), (128, c.stampAddr.toNat), (192, shape), (256, c.count), (288, c.stampVal.toNat), (320, c.w0.toNat),
    (384, c.w1.toNat), (448, c.v0.toNat), (480, c.v1.toNat)]

/-- The 4-byte words of a list. -/
def wordBytes (ws : List Word) : List Byte := ws.flatMap fun w => bytesOf 4 w.toNat

/-- The 96 bytes of a strand: masks and depth, the deferral entries, the pending EXT kinds and their payloads in ascending order of KIND. -/
def strandBytes (x : Strand) : List Byte :=
  padTo 8 (bytesOf 3 (pack [(0, x.live.toNat), (8, x.active.toNat), (16, x.depth.toNat)])) ++
  ((List.range 4).flatMap fun i => let e := vget x.stack i Deferred.empty; bytesOf 8 e.mask.toNat ++ bytesOf 8 e.pc.toNat) ++
  padTo 24 (bytesOf 4 x.ext.kinds.toNat ++ (bitsSet x.ext.kinds).flatMap fun k => bytesOf 4 (vget x.ext.payloads k 0).toNat)

/-- The blocking kind of a wave: 0 TRETRY, 1 parked, 2 remote load. -/
def Wave.blockKind (w : Wave) : Nat := if w.asleep then 0 else if w.park.isSome then 1 else 2

/-- The header of a wave record. -/
def waveHeader (key : Nat) (w : Wave) : List Byte :=
  padTo 64 (bytesOf 24 (pack [(0, w.blockKind), (8, keyIndex key), (16, w.groups.toNat), (32, w.grant.toNat), (64, w.horizon.toNat),
    (128, w.outstanding), (160, w.inHandler.toNat)]))

/-- The latches of a wave: tags with valid bits, then data. -/
def latchBytes (s : State) (w : Wave) : List Byte × List Byte :=
  let all := (List.range 8).flatMap fun p => (List.range 3).map fun j => vget (w.div.path p).latches j Latch.empty
  (padTo 32 (all.map fun l => BitVec.ofNat 8 (l.tag.toNat + 128 * l.valid.toNat)), all.flatMap fun l => wordBytes (l.read s.draws 563).toList)

/-- The transaction state of a wave. -/
def txnBytes (t : Txn) : List Byte :=
  let code (x : Space) : Nat := match x with | .mem => 0 | .scratch => 1 | .waymark => 2 | .vat => 3 | .pool => 4
  padTo 1024 (bytesOf 8 t.start.toNat ++ bytesOf 8 t.status.toNat ++ [BitVec.ofNat 8 t.retained.toNat, BitVec.ofNat 8 t.pageMode.toNat] ++
    t.reads.flatMap fun e => bytesOf 15 (pack [(0, code e.place.space), (8, e.place.owner), (64, e.place.unit)]))

/-- The fault state of a wave. -/
def parkBytes (s : State) (key : Nat) (w : Wave) : List Byte :=
  let f := match w.park with
    | some p => pack [(0, p.lanes.toNat), (64, p.pc.toNat), (128, ((p.pages.head?.bind (·.entry)).getD 255)), (136, ((p.pages.head?.map (·.stack)).getD 0))]
    | none => 0
  let l := match s.loads.find? fun e => e.2.wave == key with | some e => pack [(0, e.2.pc.toNat), (64, e.2.lanes.toNat)] | none => 0
  padTo 64 (bytesOf 24 f ++ bytesOf 16 l)

/-- The runs of bytes that are written for a wave record: offset and bytes (R319). -/
def waveRuns (s : State) (regs : Nat) (abandon : Bool) (key : Nat) (w : Wave) : List (Nat × List Byte) :=
  let paths := (List.range 8).flatMap fun p => bytesOf 8 (w.div.path p).mask.toNat ++ bytesOf 8 (w.div.path p).pc.toNat
  let strands := (List.range 8).flatMap fun k => strandBytes (w.div.strand k)
  let traps := padTo 64 ([w.trap.cause, w.trap.pc, w.trap.mask, w.trap.lanes, w.trap.addr, w.trap.skid].flatMap fun x => bytesOf 8 x.toNat)
  let tags := (List.range 128).map fun i => BitVec.ofNat 8 ((w.vreg (2 * i)).tag.toNat + 16 * (w.vreg (2 * i + 1)).tag.toNat)
  let data (lo n : Nat) : List Byte := (List.range n).flatMap fun i => wordBytes ((w.vreg (lo + i)).read s.draws (300 + lo + i)).toList
  [(0, waveHeader key w), (0x40, (List.range 64).flatMap fun i => bytesOf 8 (w.sreg i).toNat),
   (0x240, (List.range 8).flatMap fun i => bytesOf 4 (w.preg i).toNat), (0x260, paths), (0x2E0, strands), (0x5E0, (latchBytes s w).1),
   (0x600, (latchBytes s w).2), (0x1200, txnBytes w.txn), (0x1600, parkBytes s key w), (0x1640, traps), (0x1680, tags),
   (0x1700, bytesOf 8 (faultstatWord w abandon).toNat), (0x2000, data 0 regs)] ++ (if w.grant then [(0x6000, data 128 128)] else [])

/-- Bytes of a crew's area (R318). -/
def areaSize (c : Card) (crew : Crew) : Nat :=
  16 + c.tiles * (4 * tileRows c.bind * tileCols c.bind) + crew.scratchSize / 128 + crew.scratchSize + 0xA000 * c.waves

/-- The offset of a crew's area. -/
def areaStart (c : Card) (crew : Crew) (k : Nat) : Nat := 0x1000 + k * ((areaSize c crew + 4095) / 4096 * 4096)

/-- The runs of bytes of a crew's area. -/
def crewRuns (s : State) (v : Nat) (c : Convoy) (k : Nat) : List (Nat × List Byte) :=
  let key := crewKey v k
  let x := s.crew key
  let start := areaStart c.card x k
  let tb := 4 * tileRows c.card.bind * tileCols c.card.bind
  let tiles := (List.range c.card.tiles).flatMap fun t => tileImage (s.tile key t) (tileRows c.card.bind) (tileCols c.card.bind)
  let wins := start + 16 + c.card.tiles * tb
  let scr := wins + x.scratchSize / 128
  [(start, padTo 16 ((List.range c.card.tiles).map fun t => BitVec.ofNat 8 (s.tile key t).tag.toNat)), (start + 16, tiles),
   (wins, readRun x.windows 0 (x.scratchSize / 128)), (scr, readRun x.scratch 0 x.scratchSize)] ++
  (s.waves.filter fun e => keyCrewKey e.1 == key).flatMap fun e =>
    (waveRuns s c.regs c.abandon e.1 e.2).map fun r => (scr + x.scratchSize + 0xA000 * keyIndex e.1 + r.1, r.2)

/-- The runs of bytes of a convoy record (R318). -/
def convoyRuns (s : State) (v : Nat) (c : Convoy) : List (Nat × List Byte) :=
  let entry (k : Nat) : List Byte :=
    let x := s.crew (crewKey v k)
    padTo 32 ([areaStart c.card x k, x.scratchSize, c.card.tiles, c.card.waves].flatMap fun n => bytesOf 4 n)
  [(0, bytesOf 64 (cardBits c.card)),
   (0x40, bytesOf 64 (pack [(0, c.launch.toNat), (64, c.index.toNat), (128, c.card.crews), (136, c.card.bind), (144, c.prio), (152, c.edited.toNat),
      (192, c.age), (256, c.cluster), (264, c.position)])),
   (0x80, padTo 256 ((List.range c.card.crews).flatMap entry))] ++ (List.range c.card.crews).flatMap (crewRuns s v c)

/-- Bytes of a convoy record. -/
def recordSize (s : State) (v : Nat) (c : Convoy) : Nat :=
  let x := s.crew (crewKey v (c.card.crews - 1))
  areaStart c.card x (c.card.crews - 1) + areaSize c.card x

/-! ### Saving (R318) -/

/-- The convoy has a Ringway result due, which the drain waits for (R527). -/
def resultsDue (s : State) (v : Nat) : Bool :=
  (s.ring.results.any fun r => r.2.1 == v) || s.ring.queues.toList.any fun q => q.any fun r => r.2.any fun x => x.1 == v

/-- The drain of a convoy is over (R318, step 3), and no slab of its cores is being reset (R249). -/
def drained (s : State) (v : Nat) : Bool := !convoyBusy s v && !resultsDue s v && (tget s.convoys v).any fun c => !c.saveWait && c.cores.all fun k => !(s.core k).resetting

/-- What stops the writing of a save slot: a home that holds a line, or an absent page, the fault being noted. -/
inductive SlotStop where
  | held (pa kind : Nat)
  | absent (s : State)
  deriving DecidableEq, Repr

/-- Writes runs of bytes at offsets from an address. -/
def writeRuns (s : State) (context : Nat) (d : Descriptor) (base : Dword) : List (Nat × List Byte) → Except SlotStop State
  | [] => .ok s
  | r :: t =>
    match unitWriteRun (r.2.length / 128 + 3) s context d (base + BitVec.ofNat 64 r.1) r.2 false 0 with
    | (_, .ok s') | (_, .cause s' _) => writeRuns s' context d base t
    | (_, .absent s') => .error (.absent s')
    | (_, .hold _ pa kind) => .error (.held pa kind)

/-- The lowest free save slot of a context whose size suffices. -/
def freeSlotFor (s : State) (c : Convoy) (size : Nat) : Option Nat :=
  if c.desc.slotSize * 64 * kib < size then none
  else (List.range c.desc.saveSlots).find? fun i => !(s.context c.context).saveUsed.contains i

/-- An eviction is abandoned for want of a slot: the convoys go on, the replays recorded meanwhile being acted on, and are not evicted for
PREEMPTWAIT. -/
def abandonEviction (s : State) (vs : List Nat) : State :=
  let back (c : Convoy) : Convoy := { c with residence := .placed, noEvictUntil := s.clock + s.settings.preemptwait * Config.cyclesPerUs }
  let again (k : Nat) (w : Wave) : Wave := if vs.contains (keyConvoy k) && w.park.any (·.replayed) then unpark s w else w
  vs.foldl (fun s v => { s with convoys := tmod s.convoys v back }) { s with waves := tmap s.waves again, epoch := s.epoch + 1 }

/-- Saves one convoy into a slot; else the state to go on from: leases asked back, where it must wait for a home (R150), or a fault noted. -/
def saveConvoy (s : State) (v slot : Nat) (c : Convoy) : Except State State :=
  let c := { c with edited := (s.context c.context).modified }
  let base := c.desc.saveBase + BitVec.ofNat 64 (slot * c.desc.slotSize * 64 * kib)
  match writeRuns s c.context c.desc base (convoyRuns s v c) with
  | .error (.held pa kind) => .error (askLine s pa kind)
  | .error (.absent s') => .error { s' with convoys := tmod s'.convoys v fun c => { c with saveWait := true } }
  | .ok s' =>
    let x := s'.context c.context
    let s' := countGatesOf s' c.cores
    .ok ((s'.setConvoy v { c with residence := .saved slot, chosenAt := none }).setContext c.context { x with saveUsed := x.saveUsed ++ [slot] })

/-- Saves the convoys of a unit. -/
def saveUnit (s : State) : List Nat → Except State State
  | [] => .ok s
  | v :: t => match tget s.convoys v with
    | none => saveUnit s t
    | some c => match freeSlotFor s c (recordSize s v c) with
      | none => .error s
      | some slot => match saveConvoy s v slot c with
        | .ok s' => saveUnit s' t
        | r => r

/-- Every convoy of a unit has a slot to go to. -/
def slotsSuffice (s : State) (vs : List Nat) : Bool :=
  vs.all fun v => match tget s.convoys v with
    | none => true
    | some c =>
      let mine := vs.filter fun u => (tget s.convoys u).any fun d => d.context == c.context
      let free := (List.range c.desc.saveSlots).filter fun i => !(s.context c.context).saveUsed.contains i
      decide (recordSize s v c ≤ c.desc.slotSize * 64 * kib) && decide (mine.length ≤ free.length)

/-- EVICTION_SAVE (R318): once a convoy, or a gang, has drained, its state is written to save slots and its cores are freed; for want of a slot the
eviction is abandoned. -/
def execEvictionSave (s : State) : Host.Outcome State Fault Refusal :=
  let unit (v : Nat) (c : Convoy) : List Nat := (gangOf s v c).filter fun k => (tget s.convoys k).any fun c => c.residence == .evicting
  match s.convoys.find? fun e => e.2.residence == .evicting && (unit e.1 e.2).all (drained s) with
  | none => .next s
  | some (v, c) =>
    let vs := unit v c
    if !slotsSuffice s vs then .next (abandonEviction s vs)
    else match saveUnit s vs with
      | .ok t => .next { t with epoch := s.epoch + 1 }
      | .error t => .next t

/-! ### Reading a save slot (R320) -/

/-- The bytes of a save record that a restore has read, by offset. -/
abbrev Runs := List (Nat × List Byte)

/-- The number in the bytes read at an offset, from a byte of them on; `d` where they have not been read. -/
def Runs.nat (r : Runs) (off o n : Nat) (d : Nat) : Nat := match r.find? fun e => e.1 == off with | some e => leNat ((e.2.drop o).take n) | none => d

/-- A strand from its 96 bytes. -/
def strandOf (n : Nat) : Strand :=
  let kinds : BitVec 16 := BitVec.ofNat 16 (bits n 576 16)
  { live := BitVec.ofNat 4 (bits n 0 8), active := BitVec.ofNat 4 (bits n 8 8), depth := BitVec.ofNat 3 (min 4 (bits n 16 8))
    stack := Vector.ofFn fun i : Fin 4 => { mask := BitVec.ofNat 4 (bits n (64 + 128 * i.val) 4), pc := BitVec.ofNat 64 (bits n (128 + 128 * i.val) 64) }
    ext := { kinds := kinds, payloads := Vector.ofFn fun k : Fin 16 =>
      if kinds.getLsbD k.val then BitVec.ofNat 20 (bits n (608 + 32 * ((bitsSet kinds).idxOf k.val)) 20) else 0 } }

/-- The divergence state of a wave from its record: what the record does not name stays (R319). -/
def restoredDiv (r : Runs) (d : Div) : Div :=
  { paths := d.paths.mapIdx fun p q => { q with
      mask := BitVec.ofNat 8 (r.nat 0x260 (16 * p) 1 q.mask.toNat), pc := BitVec.ofNat 64 (r.nat 0x260 (16 * p + 8) 8 q.pc.toNat)
      latches := q.latches.mapIdx fun j l =>
        let t := r.nat 0x5E0 (3 * p + j) 1 (l.tag.toNat + 128 * l.valid.toNat)
        { l with tag := BitVec.ofNat 4 t, valid := decide (128 ≤ t),
                 lanes := lanesOf fun L => BitVec.ofNat 32 (r.nat 0x600 (384 * p + 128 * j + 4 * L) 4 (lane l.lanes L).toNat) } }
    strands := d.strands.mapIdx fun k x => if r.any fun e => e.1 == 0x2E0 then strandOf (r.nat 0x2E0 (96 * k) 96 0) else x }

/-- The kind of a watched place from its code in a record. -/
def spaceOf (n : Nat) : Space := if n == 0 then .mem else if n == 1 then .scratch else if n == 2 then .waymark else if n == 3 then .vat else .pool

/-- The transaction state of a wave from its record. -/
def restoredTxn (r : Runs) (t : Txn) : Txn :=
  if !r.any fun e => e.1 == 0x1200 then t
  else
    let status := r.nat 0x1200 8 8 0
    let entry (i : Nat) : Place :=
      let o := 18 + 15 * i
      { space := spaceOf (r.nat 0x1200 o 1 0), owner := r.nat 0x1200 (o + 1) 7 0, unit := r.nat 0x1200 (o + 8) 7 0 }
    let old (p : Place) : ReadEntry := (t.reads.find? fun e => e.place == p).getD { place := p, changed := false, tabled := false }
    { t with
      start := BitVec.ofNat 64 (r.nat 0x1200 0 8 0), cause := BitVec.ofNat 4 (bits status 0 4), code := BitVec.ofNat 8 (bits status 32 8)
      retained := r.nat 0x1200 16 1 0 % 2 == 1, pageMode := r.nat 0x1200 17 1 0 % 2 == 1
      reads := (List.range (bits status 24 8)).map fun i => old (entry i) }

/-- A wave from its record (R319, R333): what the record does not name stays as it was saved. ABANDON is the convoy's. -/
def restoredWave (regs : Nat) (r : Runs) (w : Wave) : Wave :=
  let h := r.nat 0 0 24 0
  let headed : Wave := if r.any fun e => e.1 == 0 then { w with
    groups := BitVec.ofNat 16 (bits h 16 16), grant := bits h 32 1 == 1, horizon := BitVec.ofNat 64 (bits h 64 64), outstanding := bits h 128 32
    inHandler := bits h 160 1 == 1 } else w
  let reg (n : Nat) (x : VReg) : VReg :=
    let lo := if n < 128 then 0x2000 else 0x6000
    { x with
      tag := BitVec.ofNat 4 (r.nat 0x1680 (n / 2) 1 (x.tag.toNat * (if n % 2 == 0 then 1 else 16)) / (if n % 2 == 0 then 1 else 16))
      lanes := if n < regs || 128 ≤ n then lanesOf fun L => BitVec.ofNat 32 (r.nat lo (128 * (n % 128) + 4 * L) 4 (lane x.lanes L).toNat) else x.lanes }
  let trap (i : Nat) (x : Dword) : Dword := BitVec.ofNat 64 (r.nat 0x1640 (8 * i) 8 x.toNat)
  { headed with
    sregs := w.sregs.mapIdx fun n x => BitVec.ofNat 64 (r.nat 0x40 (8 * n) 8 x.toNat)
    pregs := w.pregs.mapIdx fun n x => BitVec.ofNat 32 (r.nat 0x240 (4 * n) 4 x.toNat)
    div := restoredDiv r w.div, txn := restoredTxn r w.txn
    park := w.park.map fun p => { p with lanes := BitVec.ofNat 32 (r.nat 0x1600 0 4 p.lanes.toNat), pc := BitVec.ofNat 64 (r.nat 0x1600 8 8 p.pc.toNat) }
    trap := { cause := trap 0 w.trap.cause, pc := trap 1 w.trap.pc, mask := trap 2 w.trap.mask, lanes := trap 3 w.trap.lanes, addr := trap 4 w.trap.addr,
              skid := trap 5 w.trap.skid }
    faultstat := BitVec.ofNat 64 (r.nat 0x1700 0 8 w.faultstat.toNat) &&& 0xFF0B
    vregs := w.vregs.mapIdx reg }

/-- A tile from its image in a record. -/
def tileOf (tag : Nat) (rows cols : Nat) (bs : List Byte) : Tile :=
  { tag := BitVec.ofNat 4 tag
    elems := (List.range (rows * cols)).foldl (fun (t : Table Word) i =>
      tset 0 t (i / cols * 64 + i % cols) (BitVec.ofNat 32 (leNat ((bs.drop (4 * i)).take 4)))) [] }

/-- A crew from the runs of its area (R318), in their order: tile tags, tiles, window-control bytes, scratch. -/
def restoredCrew (card : Card) (x : Crew) : List (List Byte) → Crew
  | tags :: tiles :: wins :: scr :: _ =>
    let tb := 4 * tileRows card.bind * tileCols card.bind
    let tile (t : Nat) : Tile := tileOf ((tags.getD t 0).toNat % 16) (tileRows card.bind) (tileCols card.bind) ((tiles.drop (t * tb)).take tb)
    { x with
      tiles := (List.range card.tiles).foldl (fun m t => tset Tile.zero m t (tile t)) []
      windows := writeRun [] 0 wins, scratch := writeRun [] 0 scr }
  | _ => x

/-- What a restore's read of a save slot finds: the bytes, a translation fault, or memory that another package holds, whose bytes are those that were saved
(DEDUCED, log 22). -/
inductive SlotRead where
  | bytes (s : State) (bs : List Byte)
  | fault (s : State)
  | keep
  deriving DecidableEq, Repr

/-- Reads bytes of a save slot, page by page. -/
def readSlotRun (context : Nat) (root : Dword) : Nat → State → Nat → Nat → SlotRead
  | 0, s, _, _ => .bytes s []
  | fuel + 1, s, va, n =>
    if n == 0 then .bytes s []
    else
      let m := min (4096 - va % 4096) n
      match unitXlat s root .read va with
      | .replay => .fault (missPage s 0 context (va / 2 ^ 16) 0).1
      | .cause _ => .keep
      | .held pa kind => .fault (askLine s pa kind)
      | .ok t pa _ =>
        if lineHeld t pa 0 then .fault (askLine t pa 0) else
        if paPkg pa != s.pkg then .keep
        else match readSlotRun context root fuel t (va + m) (n - m) with
          | .bytes u bs => .bytes u (peekBytes t pa m ++ bs)
          | r => r

/-- Reads the runs of a record (R318, R319) from the save slot that holds it. -/
def readSlot (s : State) (context : Nat) (root base : Dword) : Runs → Except State (State × Runs)
  | [] => .ok (s, [])
  | r :: t => match readSlotRun context root (r.2.length / 4096 + 2) s ((base.toNat + r.1) % 2 ^ 56) r.2.length with
    | .fault s' => .error s'
    | .keep => readSlot s context root base t
    | .bytes s' bs => match readSlot s' context root base t with
      | .ok (s'', rest) => .ok (s'', (r.1, bs) :: rest)
      | .error s'' => .error s''

/-- Writes the state of a saved convoy back from its save slot (R320); the state with the fault noted where a page of it is absent. -/
def readBack (s : State) (v slot : Nat) (c : Convoy) : Except State State :=
  let base := c.desc.saveBase + BitVec.ofNat 64 (slot * c.desc.slotSize * 64 * kib)
  (List.range c.card.crews).foldl (fun (r : Except State State) k => match r with
    | .error e => .error e
    | .ok s =>
      let key := crewKey v k
      let x := s.crew key
      let start := areaStart c.card x k
      let waves := start + 16 + c.card.tiles * (4 * tileRows c.card.bind * tileCols c.card.bind) + x.scratchSize / 128 + x.scratchSize
      match readSlot s c.context c.desc.root base (crewRuns s v c k) with
      | .error e => .error e
      | .ok (t, runs) =>
        let mine := runs.filter fun e => decide (e.1 < waves)
        let crew := if mine.length == 4 then restoredCrew c.card x (mine.map (·.2)) else x
        let wave (j : Nat) (w : Wave) : Wave :=
          if keyCrewKey j == key then
            let at' := waves + 0xA000 * keyIndex j
            restoredWave c.regs ((runs.filter fun e => decide (at' ≤ e.1) && decide (e.1 < at' + 0xA000)).map fun e => (e.1 - at', e.2)) w
          else w
        .ok { (t.setCrew key crew) with waves := tmap t.waves wave }) (.ok s)

/-! ### Restore (R320) -/

/-- A wave goes on after its restore: a sleeper is woken with cause SPURIOUS, a parked wave retries. -/
def resumeRestored (s : State) (w : Wave) : Wave :=
  let fresh (p : Path) : Path := { p with readyAt := s.epoch, waitSince := s.clock, waitedLong := false }
  let w := { w with div := { w.div with paths := w.div.paths.map fresh } }
  if w.asleep then w.woken (txCause "SPURIOUS") else if w.park.isSome then unpark s w else w

/-- Restores a saved convoy on the cores of a run: its descriptor values are the context's of now (R302), and the loads that it abandoned are issued
again. -/
def restoreConvoy (s : State) (v : Nat) (run : Nat × List Nat) : State :=
  match tget s.convoys v with
  | some c => match c.residence with
    | .saved slot =>
      let x := s.context c.context
      let s := s.setContext c.context { x with saveUsed := x.saveUsed.filter (· != slot), modified := x.modified || c.edited }
      let s := { s with epoch := s.epoch + 1, loads := tmap s.loads fun _ l => if keyConvoy l.wave == v then { l with since := s.clock } else l }
      let s := countGatesOf s run.2
      let moved := (run.2.mapIdx fun k core => (k, core)).foldl (fun t kc =>
        let slots := freeSlotsOf s kc.2 c.card.waves
        t.foldl (fun (t : Table Wave) e =>
          if keyCrewKey e.1 == crewKey v kc.1 then
            tput t e.1 (resumeRestored s { e.2 with core := kc.2, slot := slots.getD (keyIndex e.1) 0 })
          else t) t) s.waves
      { s with waves := moved }.setConvoy v { c with
        residence := .placed, cluster := run.1, cores := run.2, position := run.2.headD 0 % 8, desc := x.desc, placedAt := s.clock
        chosenAt := none, noEvictUntil := 0 }
    | _ => s
  | none => s

/-- Reads back every convoy of a unit. -/
def readBackAll (s : State) : List Nat → Except State State
  | [] => .ok s
  | v :: t => match tget s.convoys v with
    | some c => match c.residence with
      | .saved slot => match readBack s v slot c with
        | .ok s' => readBackAll s' t
        | .error s' => .error { s' with convoys := tmod s'.convoys v fun c => { c with saveWait := true }, epoch := s.epoch + 1 }
      | _ => readBackAll s t
    | none => readBackAll s t

/-- CONVOY_RESTORE (R310, R320): the saved convoy whose turn it is has its state read back from its save slot and goes back on cores; a gang's go
together. -/
def execConvoyRestore (s : State) : Host.Outcome State Fault Refusal :=
  if !mayPlace s then .next s
  else match (turnOf s).2 with
  | some (x, 0, runs) =>
    if !x.saved then .next s
    else match tget s.convoys x.key with
      | none => .next s
      | some c => match readBackAll s (gangOf s x.key c) with
        | .error t => .next t
        | .ok t => .next (placedNow (((gangOf s x.key c).zip runs).foldl (fun s e => restoreConvoy s e.1 e.2) t) x runs.length)
  | _ => .next s

end Sys2Proof.Machine
end

