-- ==== Sys2Proof/Machine/Commands.lean ====
section
/-! DEFINITION. The host's commands (R378 to R381): their acceptance, and what each does (R124, R131, R246, R315, R317, R368, R385, R386). -/

namespace Sys2Proof.Machine

/-! ### Acceptance (R378, R380) -/

/-- The address of the entry for a SEQ (R378). -/
def entryPa (s : State) (seq : Dword) : Nat := hostPa s (s.hostq.cqBase.toNat + 256 * (seq.toNat % 2 ^ s.hostq.cqLog))

/-- What an entry's reserved and unused fields say (R378): 1 BADOP, 2 BADARG, or 0.
BADOP comes before BADARG, and the reserved fields of ARG and CONTEXT give BADARG (DEDUCED, log 68). -/
def entryStatus (n : Nat) : Nat :=
  let op := bits n 80 8
  let arg := bits n 128 64
  if op == 0 || 9 < op then 1
  else if bits n 88 40 != 0 || bits n 192 320 != 0 || bits n 76 4 != 0 then 2
  else if op ≤ 4 && arg != 0 then 2
  else if op == 5 && !(decide (5 ≤ bits arg 0 4) && decide (bits arg 0 4 ≤ 10) && decide (bits arg 4 2 ≤ 2) && bits arg 6 58 == 0) then 2
  else if op == 9 && 512 ≤ arg then 2
  else 0

/-- COMMAND_ACCEPT (R380): the package reads the entry at EXPECT, and accepts it or sets GAP. -/
def execCommandAccept (s : State) : Host.Outcome State Fault Refusal :=
  let q := s.hostq
  let expect := q.lastAcc + 1
  if s.bootState != 1 || q.gap || q.cplFull || decide (q.doorbell.toNat < expect.toNat) then .next s
  else
    let n := peekNat s (entryPa s expect) 256
    if BitVec.ofNat 64 (bits n 0 64) != expect then .next (setGap s)
    else
      let c : Command := { seq := expect, op := bits n 80 8, context := bits n 64 12, arg := BitVec.ofNat 64 (bits n 128 64)
                           payload := bytesOf 128 (bits n 512 1024), started := false, gate := [] }
      let s := { s with hostq := { q with lastAcc := expect, commands := q.commands ++ [c] } }
      .next (if entryStatus n == 0 then s else postCompletion s expect 0 (entryStatus n))

/-- The next command to start, if it is of an OP: commands start in the order of their acceptance (DEDUCED, log 69). -/
def nextCommand (s : State) (op : Nat) : Option Command := (s.hostq.commands.find? fun c => !c.started).filter fun c => c.op == op

/-- Notes that a command has started, with the accesses that it waits for. -/
def startCommand (s : State) (c : Command) (gate : List (Nat × Nat)) : State :=
  { s with hostq := { s.hostq with commands := replaceFirst (fun x => x.seq == c.seq) (fun x => { x with started := true, gate := gate }) s.hostq.commands }
           epoch := s.epoch + 1 }

/-- A command completes. -/
def completeCommand (s : State) (c : Command) (status : Nat) : State := { (postCompletion s c.seq 0 status) with epoch := s.epoch + 1 }

/-! ### LAUNCH (R315) -/

/-- The LAUNCH record of a command. -/
def launchRecord (s : State) (c : Command) (launch mask : Nat) : Record :=
  { milestone := 0, context := c.context, origin := s.pkg, cls := 0, length := 48, kind := 5
    payload := bytesOf 48 (pack [(0, launch), (64, entryPa s c.seq + 64), (128, mask)]) }

/-- LAUNCH (R315): a launch of this package alone is enqueued at once, another goes round the ring. A card that JPOST would refuse fails it. -/
def execLaunch (s : State) : Host.Outcome State Fault Refusal :=
  match nextCommand s 1 with
  | none => .next s
  | some c =>
    let card := leNat (c.payload.take 64)
    let mask := leNat ((c.payload.drop 64).take 16)
    let launch := leNat ((c.payload.drop 80).take 4)
    if !cardOk card || launch / 2 ^ 31 == 0 then .next (completeCommand s c 2)
    else if mask == 2 ^ s.pkg then
      (if Config.cardEntries ≤ s.disp.cards.length then .next s
       else .next (enqueueLaunch (startCommand s c []) c.context (BitVec.ofNat 32 launch) (cardOf card) (BitVec.ofNat 128 mask) c.seq))
    else if decide (256 ≤ queuedRecords s) then .next s
    else
      let t := queueRecord (startCommand s c []) (launchRecord s c launch mask) none
      .next (if bits mask s.pkg 1 == 1 then t else postCompletion t c.seq (BitVec.ofNat 32 launch) 0)

/-! ### INVAL, REPLAY, EVICT, RINGPOST -/

/-- A command of an OP that has started and of which `p` holds. -/
def pendingCommand (s : State) (op : Nat) (p : Command → Bool) : Option Command := s.hostq.commands.find? fun c => c.op == op && c.started && p c

/-- INVAL (R124): the translations of the context go; the command completes once every access that used them has completed. -/
def execInval (s : State) : Host.Outcome State Fault Refusal :=
  match pendingCommand s 2 fun c => accessesDone s c.gate with
  | some c => .next (completeCommand s c 0)
  | none => match nextCommand s 2 with
    | none => .next s
    | some c => 
      let s := dropTranslations s c.context
      .next (startCommand s c (contextAccesses s c.context))

/-- REPLAY (R131). -/
def execReplay (s : State) : Host.Outcome State Fault Refusal :=
  match nextCommand s 3 with
  | none => .next s
  | some c => .next (completeCommand (replayAll s c.context) c 0)

/-- A convoy of a context is being evicted. -/
def evictingNow (s : State) (context : Nat) : Bool := s.convoys.any fun e => e.2.context == context && e.2.residence == .evicting

/-- EVICT (R317, R318): the context's convoys that are evictable are evicted; the command completes once that is over. -/
def execEvict (s : State) : Host.Outcome State Fault Refusal :=
  match pendingCommand s 4 fun c => !evictingNow s c.context with
  | some c => .next (completeCommand s c 0)
  | none => match nextCommand s 4 with
    | none => .next s
    | some c => .next (freezeAll (startCommand s c []) (((evictUnits s).filter fun u => u.2.1.context == c.context).flatMap (·.2.2)))

/-- RINGPOST (R378): a record of kind 5 to 10 is queued at the tap. -/
def execRingpost (s : State) : Host.Outcome State Fault Refusal :=
  match nextCommand s 5 with
  | none => .next s
  | some c =>
    if 256 ≤ queuedRecords s then .next s
    else
      let arg := c.arg.toNat
      let r : Record := { milestone := 0, context := c.context, origin := s.pkg, cls := bits arg 4 2, length := 48, kind := bits arg 0 4
                          payload := c.payload.take 48 }
      .next (completeCommand (queueRecord s r none) c 0)

/-! ### FWLOAD, ATTEST, RESTORE, RESETCORE -/

/-- FWLOAD (R385): an image that fails its check completes with FWBAD; a good one waits for each processor named. -/
def execFwload (s : State) : Host.Outcome State Fault Refusal :=
  match nextCommand s 6 with
  | none => .next s
  | some c =>
    let image := peekBytes s (hostPa s c.arg.toNat) Config.imageBytes
    if !imageOk s.fuses image then .next (completeCommand s c 5)
    else
      let mask := c.payload.headD 0
      let put (w : Nat) (x : Wayside) : Wayside := if mask.getLsbD w then { x with next := some image } else x
      .next (finishLoads (startCommand { s with waysides := s.waysides.mapIdx put } c []))

/-- Bytes 0 to 431 of the attestation report (R386). -/
def attestBody (s : State) (nonce : List Byte) : List Byte :=
  nonce ++ bytesOf 8 s.pkg ++ bytesOf 8 s.fuses.rollback ++ bytesOf 48 (Config.sha384 s.fuses.firmware) ++
  ((List.range 6).flatMap fun w => match (s.wayside w).image with | some i => bytesOf 48 (Config.sha384 i) | none => bytesOf 48 0) ++
  bytesOf 48 (Config.sha384 (bindingBytes s))

/-- ATTEST (R386): the signed report is written to host memory. -/
def execAttest (s : State) : Host.Outcome State Fault Refusal :=
  match nextCommand s 7 with
  | none => .next s
  | some c =>
    let body := attestBody s (c.payload.take 32)
    .next (completeCommand (agentWrite s none (hostPa s c.arg.toNat) (body ++ bytesOf 96 (Config.deviceSign body))) c 0)

/-- The header in the own checkpoint area is that of a step, and its shape is the package's (R364, R368). -/
def shapeMatches (s : State) (step : Dword) : Bool :=
  let base := s.settings.ckptBase.toNat
  let want := ckptHeader s step 0 0
  let have' := peekBytes s base 96
  s.settings.ckptBase != 0 && have'.take 8 == want.take 8 && have'.drop 16 == (want.take 96).drop 16

/-- Puts one granule back where the context's page table maps its page. -/
def restoreGranule (s : State) (root : Dword) (area n i : Nat) : State :=
  let va := peekNat s (area + 4096 + 8 * i) 8 * 65536
  match walkFrom s (va % 2 ^ 56) walkLevels root.toNat with
  | .leaf _ level e =>
    let pa := leafPa e level (va % 2 ^ 56)
    if paPkg pa == s.pkg && hasMode pa then agentWrite s none pa (peekBytes s (area + granuleOffset n i) 65536) else s
  | _ => s

/-- The checkpointed memory and waymark window of a context are put back (R365, R368). -/
def restoreStep (s : State) (context : Nat) (step : Dword) : State :=
  let area := s.settings.ckptBase.toNat
  let n := peekNat s (area + 96) 8
  let d := (s.context context).desc
  let s := (List.range n).foldl (fun s i => restoreGranule s d.root area n i) s
  if s.ckpt.taken == step && s.ckpt.context == context then
    writeWaymark s d.wmBase (readRun s.ckpt.waymark d.wmBase d.wmSize)
  else s

/-- A line of memory that a home holds among those that a RESTORE writes (R150, R153). -/
def restoreHeld (s : State) (context : Nat) : Option (Nat × Nat) :=
  let area := s.settings.ckptBase.toNat
  let root := (s.context context).desc.root
  (List.range (peekNat s (area + 96) 8)).findSome? fun i =>
    let va := peekNat s (area + 4096 + 8 * i) 8 * 65536 % 2 ^ 56
    match walkFrom s va walkLevels root.toNat with
    | .held addr => some (addr, 0)
    | .leaf _ level e =>
      let pa := leafPa e level va
      ((List.range 512).find? fun j => paPkg pa == s.pkg && hasMode pa && lineHeld s (pa + 128 * j) 1).map fun j => (pa + 128 * j, 1)
    | _ => none

/-- RESTORE (R368): refused where the shape is another. -/
def execRestore (s : State) : Host.Outcome State Fault Refusal :=
  match nextCommand s 8 with
  | none => .next s
  | some c =>
    if !shapeMatches s c.arg then .next (completeCommand s c 3)
    else match restoreHeld s c.context with
    | some h => .next (askLine s h.1 h.2)
    | none => .next (completeCommand (restoreStep s c.context c.arg) c 0)

/-- RESETCORE (R246): the slabs of a core are reset. -/
def execResetcore (s : State) : Host.Outcome State Fault Refusal :=
  match nextCommand s 9 with
  | none => .next s
  | some c => .next (completeCommand (beginReset s (drivingCore s c.arg.toNat)) c 0)

end Sys2Proof.Machine
end

