-- ==== Sys2Proof/Machine/Convert.lean ====
section
/-! DEFINITION. Conversions (R91, R92, R450 to R452, R512 to R515). -/

namespace Sys2Proof.Machine

/-! ### CVT -/

/-- Elements per lane of a CVT code: one for the 64-bit code (R451). -/
def cvtElems (code : Nat) : Nat := if code == 0xF then 1 else elemsOf code

/-- Element `g` of the source group of CVT in a lane, counted over the group's registers (R451). -/
def cvtSource (s : State) (c : Ctx) (o : Opnd) (code : Nat) (L g : Nat) : Elem :=
  if code == 0xF then
    let x : Dword := if o.isVec then (lane (regLanes s c (o.reg c)) L).setWidth 64 ||| ((lane (regLanes s c (o.reg c + 1)) L).setWidth 64 <<< 32)
      else (source s c o).wideLane L
    .int x.toInt
  else
    let w : Word := if o.isVec then lane (regLanes s c (o.reg c + g / cvtElems code)) L else (source s c o).inFormat code L
    readElem code (c.modBit 12) (elemOf code w (g % cvtElems code))

/-- CVT (R450 to R452): element `g` of the result group is element `g` of the source group. -/
def execCvt (w : BitVec 1) (d : BitVec 7) (a : BitVec 8) (r t : BitVec 4) (s : State) : Host.Outcome State Fault Refusal :=
  let rc := r.toNat
  let sc := t.toNat
  let oa := (opA a).group (if selIsVec a then cvtSrcRegs rc sc else 1)
  let od := (opD d).group (cvtDstRegs rc sc)
  run (.cvt w d a r t)
    { kinds := kindsA, modMask := modPlain ||| 0x0F000, opnds := [od, oa], resultTag := fun _ => r,
      tags := fun c => needGroup c oa [t] } s fun c =>
    let put (v : Elem) : Nat := writeElem rc c.rnd (c.modBit 15) (c.modBit 12) v
    let outs : List (BitVec 4 × Lanes) :=
      if rc == 0xF then
        let x (L : Nat) : Nat := put (cvtSource s c oa sc L 0)
        [(r, lanesOf fun L => BitVec.ofNat 32 (x L)), (r, lanesOf fun L => BitVec.ofNat 32 (x L / 2 ^ 32))]
      else (List.range od.regs).map fun q =>
        (r, lanesOf fun L => laneOfElems rc fun i => put (cvtSource s c oa sc L (q * elemsOf rc + i)))
    aluDone s c (w == 1) (od.reg c) outs.length c.acting outs

/-! ### QCVT and QUNP -/

/-- The compact code names a tg8 container (R512). -/
def isTg8 (code : Nat) : Bool := code == 0xA || code == 0xB || code == 8

/-- The format tag of a compact code (R81). -/
def compactTag (code : Nat) : Nat :=
  if code == 0xB || code == 0xD then 1 else if code == 8 || code == 0xE then 2 else 0

/-- The largest positive value of a compact format (R92). -/
def compactMax (code : Nat) : FVal :=
  if code == 0xA then .fin false 448 0
  else if code == 0xB then .fin false 57344 0
  else if code == 8 then .fin false 127 (-6)
  else if code == 0xC then .fin false 6 0
  else if code == 0xD then .fin false 7 (-2)
  else .fin false 1 0

/-- An element, already divided by its block's scale, rounded to a compact format in RNE and saturated (R92). -/
def compactElem (code : Nat) (v : FVal) : Nat :=
  if code == 8 then wrapNat 8 (toIntSat 0 (-128) 127 (v.scale 6))
  else if code == 0xD then wrapNat 4 (toIntSat 0 (-8) 7 (v.scale 2))
  else writeElem code 0 true false (.real v)

/-- A block as quantised (R92): its tag, its scale byte, its elements. -/
structure QBlock where
  tag : Nat
  scale : Nat
  elems : List Nat
  deriving DecidableEq, Repr

/-- The value is NaN or an infinity. -/
def FVal.notFinite : FVal → Bool
  | .fin _ _ _ => false
  | _ => true

/-- The value is a zero. -/
def FVal.isZero : FVal → Bool
  | .fin _ m _ => m == 0
  | _ => false

/-- Quantising one block of 16 values (R92). -/
def quantise (code : Nat) (x : List FVal) : QBlock :=
  if x.all FVal.isZero then { tag := 3, scale := 0, elems := x.map fun _ => 0 }
  else if x.any FVal.notFinite then { tag := compactTag code, scale := 0xFF, elems := x.map fun _ => 0 }
  else
    let a := x.foldl (fun m v => m.max v.abs) (.fin false 0 0)
    let fits (e : Nat) : Bool := !((compactMax code).scale ((e : Int) - 127)).lt a
    let e := ((List.range 255).find? fits).getD 254
    { tag := compactTag code, scale := e, elems := x.map fun v => compactElem code (v.scale (127 - (e : Int))) }

/-- Element `x` of the row of a wide group (R513). -/
def wideElem (regs : List Lanes) (code x : Nat) : Nat :=
  let k := elemsOf code
  elemOf code (lane (regs.getD (x / (32 * k)) (Vector.replicate 32 0)) (x % (32 * k) / k)) (x % k)

/-- The plane register of a row (R513): scale bytes in lanes 0 to 3, tags in lane 4. -/
def planeLanes (bs : List QBlock) : Lanes :=
  lanesOf fun L =>
    if L < 4 then BitVec.ofNat 32 (leNat ((List.range 4).map fun i => BitVec.ofNat 8 (((bs[4 * L + i]?).map QBlock.scale).getD 0)))
    else if L == 4 then BitVec.ofNat 32 (pack (bs.mapIdx fun b q => (2 * b, q.tag)))
    else 0

/-- QCVT (R92, R512 to R515): every lane of its sources, every lane of its destinations. -/
def execQcvt (w : BitVec 1) (d : BitVec 7) (a : BitVec 8) (r t : BitVec 4) (s : State) : Host.Outcome State Fault Refusal :=
  let rc := r.toNat
  let sc := t.toNat
  let oa := (opA a).group (elemsOf rc / elemsOf sc)
  run (.qcvt w d a r t)
    { kinds := kindsA, modMask := 0x0FE00, opnds := [(opD d).group 2, oa], fullMask := true, resultTag := fun _ => r,
      tags := fun c => needGroup c oa [t] } s fun c =>
    let regs := (List.range oa.regs).map fun j => regLanes s c (oa.reg c + j)
    let val (x : Nat) : FVal := match readElem sc (c.modBit 12) (wideElem regs sc x) with | .real v => v | .int i => ofInt i
    let blocks := (List.range (2 * elemsOf rc)).map fun b => quantise rc ((List.range 16).map fun i => val (16 * b + i))
    let code (x : Nat) : Nat := ((blocks[x / 16]?).map fun q => q.elems.getD (x % 16) 0).getD 0
    aluDone s c false ((opD d).reg c) 1 0xFFFFFFFF
      [(r, lanesOf fun L => laneOfElems rc fun j => code (L * elemsOf rc + j)), (0, planeLanes blocks)]

/-- The scale byte of a block in a plane register (R513). -/
def planeScale (v : Lanes) (b : Nat) : Nat := bits (lane v (b / 4)).toNat (8 * (b % 4)) 8

/-- The tag of a block in a plane register (R513). -/
def planeTag (v : Lanes) (b : Nat) : Nat := bits (lane v 4).toNat (2 * b) 2

/-- QUNP (R512 to R515). -/
def execQunp (w : BitVec 1) (d : BitVec 7) (a : BitVec 8) (r t : BitVec 4) (s : State) : Host.Outcome State Fault Refusal :=
  let rc := r.toNat
  let sc := t.toNat
  let oa := (opA a).group 2
  let od := (opD d).group (elemsOf sc / elemsOf rc)
  run (.qunp w d a r t)
    { kinds := kindsA, modMask := 0x0FE00, opnds := [od, oa], fullMask := true, resultTag := fun _ => r,
      tags := fun c => need c (opA a) [t] } s fun c =>
    let data := regLanes s c (oa.reg c)
    let plane := regLanes s c (oa.reg c + 1)
    let code (x : Nat) : Nat :=
      let v := scaledVal (isTg8 sc) (planeTag plane (x / 16)) (planeScale plane (x / 16))
        (elemOf sc (lane data (x / elemsOf sc)) (x % elemsOf sc))
      writeElem rc c.rnd (c.modBit 15) (c.modBit 12) (.real v)
    aluDone s c false (od.reg c) od.regs 0xFFFFFFFF ((List.range od.regs).map fun q =>
      (r, lanesOf fun L => laneOfElems rc fun i => code ((q * 32 + L) * elemsOf rc + i)))

end Sys2Proof.Machine
end

