-- ==== Sys2Proof/Machine/FloatAlu.lean ====
section
/-! DEFINITION. Vector float and packed 16-bit instructions (R457 to R475, R482). -/

namespace Sys2Proof.Machine

/-- NEG and ABS of A and B (R398). -/
def modNegAB : BitVec 20 := 0xF0000

/-- NEG and ABS of A. -/
def modNegA : BitVec 20 := 0xC0000

/-- SAT, RND and FTZ. -/
def modSat : BitVec 20 := 0x08000

/-- The rounding field. -/
def modRnd : BitVec 20 := 0x06000

/-- The flush bit. -/
def modFtz : BitVec 20 := 0x01000

/-- A result of format F32 as a word, rounded by the instruction's mode, .sat and FTZ (R460). -/
def Ctx.put32 (c : Ctx) (v : FVal) : Word := BitVec.ofNat 32 (writeF .f32 c.rnd (c.modBit 15) (c.modBit 12) v)

/-- Operand A of an F32 instruction as a value. -/
def Ctx.va (c : Ctx) (x : Word) : FVal := c.fmod .f32 false x.toNat

/-- Operand B of an F32 instruction as a value. -/
def Ctx.vb (c : Ctx) (x : Word) : FVal := c.fmod .f32 true x.toNat

/-- The third source of an F32 instruction as a value: FTZ alone applies (R458, R471). -/
def Ctx.vd (c : Ctx) (x : Word) : FVal := readF .f32 (c.modBit 12) x.toNat

/-- FADD (R462). -/
def execFadd (w : BitVec 1) (d : BitVec 7) (a b : BitVec 8) (s : State) : Host.Outcome State Fault Refusal :=
  vector2 (.fadd w d a b) w d a b (modNegAB ||| modSat ||| modRnd ||| modFtz) [1] [1] 1 Source.float
    (fun c x y => c.put32 ((c.va x).add c.rnd (c.vb y))) s

/-- FSUB (R462). -/
def execFsub (w : BitVec 1) (d : BitVec 7) (a b : BitVec 8) (s : State) : Host.Outcome State Fault Refusal :=
  vector2 (.fsub w d a b) w d a b (modNegAB ||| modSat ||| modRnd ||| modFtz) [1] [1] 1 Source.float
    (fun c x y => c.put32 ((c.va x).add c.rnd (c.vb y).neg)) s

/-- FMUL (R473). -/
def execFmul (w : BitVec 1) (d : BitVec 7) (a b : BitVec 8) (s : State) : Host.Outcome State Fault Refusal :=
  vector2 (.fmul w d a b) w d a b (modNegAB ||| modSat ||| modRnd ||| modFtz) [1] [1] 1 Source.float
    (fun c x y => c.put32 ((c.va x).mul (c.vb y))) s

/-- FFMA (R471): one rounding of the exact product and sum. -/
def execFfma (w : BitVec 1) (d : BitVec 7) (a b : BitVec 8) (s : State) : Host.Outcome State Fault Refusal :=
  vector3 (.ffma w d a b) w d a b (modNegAB ||| modSat ||| modRnd ||| modFtz) [1] [1] [1] 1 Source.float
    (fun c x y z => c.put32 (((c.va x).mul (c.vb y)).add c.rnd (c.vd z))) s

/-- FMIN (R472). -/
def execFmin (w : BitVec 1) (d : BitVec 7) (a b : BitVec 8) (s : State) : Host.Outcome State Fault Refusal :=
  vector2 (.fmin w d a b) w d a b (modNegAB ||| modSat ||| modFtz) [1] [1] 1 Source.float
    (fun c x y => c.put32 ((c.va x).min (c.vb y))) s

/-- FMAX (R472). -/
def execFmax (w : BitVec 1) (d : BitVec 7) (a b : BitVec 8) (s : State) : Host.Outcome State Fault Refusal :=
  vector2 (.fmax w d a b) w d a b (modNegAB ||| modSat ||| modFtz) [1] [1] 1 Source.float
    (fun c x y => c.put32 ((c.va x).max (c.vb y))) s

/-- FABS (R461). -/
def execFabs (w : BitVec 1) (d : BitVec 7) (a : BitVec 8) (s : State) : Host.Outcome State Fault Refusal :=
  vector1 (.fabs w d a) w d a (modNegA ||| modSat ||| modFtz) [1] 1 Source.float (fun c x => c.put32 (c.va x).abs) s

/-- FNEG (R461). -/
def execFneg (w : BitVec 1) (d : BitVec 7) (a : BitVec 8) (s : State) : Host.Outcome State Fault Refusal :=
  vector1 (.fneg w d a) w d a (modNegA ||| modSat ||| modFtz) [1] 1 Source.float (fun c x => c.put32 (c.va x).neg) s

/-- FCLAMP (R463): D is the value, A the lower and B the upper bound. -/
def execFclamp (w : BitVec 1) (d : BitVec 7) (a b : BitVec 8) (s : State) : Host.Outcome State Fault Refusal :=
  vector3 (.fclamp w d a b) w d a b (modNegAB ||| modSat ||| modFtz) [1] [1] [1] 1 Source.float
    (fun c x y z => c.put32 (((c.vd z).max (c.va x)).min (c.vb y))) s

/-- FCMP (R464). -/
def execFcmp (cc : BitVec 4) (p : BitVec 3) (m : BitVec 1) (a b : BitVec 8) (s : State) : Host.Outcome State Fault Refusal :=
  run (.fcmp cc p m a b)
    { kinds := kindsP, modMask := modPlain ||| modNegAB ||| modFtz, opnds := [opA a, opB b],
      tags := fun c => need c (opA a) [1] ++ need c (opB b) [1] } s fun c =>
    let x := source s c (opA a)
    let y := source s c (opB b)
    compareDone s c p.toNat m (maskOf fun L => condFloat cc.toNat (c.va (x.float L)) (c.vb (y.float L)))

/-- The EXT.MOD bits that a transcendental honours and its choice may depend on (R470). -/
def Ctx.transMods (c : Ctx) : Nat := (c.mod &&& (modNegA ||| modSat ||| modRnd ||| modFtz)).toNat

/-- A transcendental's result as a word: FTZ flushes a subnormal (R470). -/
def Ctx.putTrans (c : Ctx) (x : Nat) : Word := BitVec.ofNat 32 (flushF .f32 (c.modBit 12) x)

/-- FEXP2 (R470). -/
def execFexp2 (w : BitVec 1) (d : BitVec 7) (a : BitVec 8) (s : State) : Host.Outcome State Fault Refusal :=
  vector1 (.fexp2 w d a) w d a (modNegA ||| modSat ||| modFtz) [1] 1 Source.float
    (fun c x => c.putTrans (exp2Code x c.transMods (c.modBit 15) (c.va x))) s

/-- FLOG2 (R470). -/
def execFlog2 (w : BitVec 1) (d : BitVec 7) (a : BitVec 8) (s : State) : Host.Outcome State Fault Refusal :=
  vector1 (.flog2 w d a) w d a (modNegA ||| modSat ||| modFtz) [1] 1 Source.float
    (fun c x => c.putTrans (log2Code x c.transMods (c.modBit 15) (c.va x))) s

/-- FRCP (R470, R474): rounded once. -/
def execFrcp (w : BitVec 1) (d : BitVec 7) (a : BitVec 8) (s : State) : Host.Outcome State Fault Refusal :=
  vector1 (.frcp w d a) w d a (modNegA ||| modSat ||| modRnd ||| modFtz) [1] 1 Source.float
    (fun c x => c.put32 (recipVal (c.va x))) s

/-- FRSQ (R470, R474). -/
def execFrsq (w : BitVec 1) (d : BitVec 7) (a : BitVec 8) (s : State) : Host.Outcome State Fault Refusal :=
  vector1 (.frsq w d a) w d a (modNegA ||| modSat ||| modFtz) [1] 1 Source.float
    (fun c x => c.putTrans (rsqrtCode x c.transMods (c.modBit 15) (c.va x))) s

/-- FSQRT (R470, R474): rounded once. -/
def execFsqrt (w : BitVec 1) (d : BitVec 7) (a : BitVec 8) (s : State) : Host.Outcome State Fault Refusal :=
  vector1 (.fsqrt w d a) w d a (modNegA ||| modSat ||| modRnd ||| modFtz) [1] 1 Source.float
    (fun c x => c.put32 (sqrtVal (c.va x))) s

/-- FTANH (R470, R475). -/
def execFtanh (w : BitVec 1) (d : BitVec 7) (a : BitVec 8) (s : State) : Host.Outcome State Fault Refusal :=
  vector1 (.ftanh w d a) w d a (modNegA ||| modSat ||| modFtz) [1] 1 Source.float
    (fun c x => c.putTrans (tanhCode x c.transMods (c.va x))) s

/-! ### Packed 16-bit -/

/-- The format of a packed instruction. -/
def halfFmt (code : Nat) : FFmt := if code == 2 then .f16 else .bf16

/-- Element `j` of a packed operand as a value; the third source takes FTZ alone (R482). -/
def Ctx.half (c : Ctx) (code : Nat) (isB : Bool) (x : Word) (j : Nat) : FVal := c.fmod (halfFmt code) isB (elemOf code x j)

/-- A packed result, each element rounded once (R482). -/
def Ctx.putHalf (c : Ctx) (code : Nat) (f : Nat → FVal) : Word :=
  laneOfElems code fun j => writeF (halfFmt code) c.rnd (c.modBit 15) (c.modBit 12) (f j)

/-- The EXT.MOD bits of the packed instructions (R458). -/
def modHalf : BitVec 20 := modNegAB ||| modSat ||| modRnd ||| modFtz

/-- HADD2 of a format (R482). -/
def hadd2 (i : Instr) (code : Nat) (w : BitVec 1) (d : BitVec 7) (a b : BitVec 8) (s : State) : Host.Outcome State Fault Refusal :=
  let t := BitVec.ofNat 4 code
  vector2 i w d a b modHalf [t] [t] t (Source.packed code)
    (fun c x y => c.putHalf code fun j => (c.half code false x j).add c.rnd (c.half code true y j)) s

/-- HMUL2 of a format (R482). -/
def hmul2 (i : Instr) (code : Nat) (w : BitVec 1) (d : BitVec 7) (a b : BitVec 8) (s : State) : Host.Outcome State Fault Refusal :=
  let t := BitVec.ofNat 4 code
  vector2 i w d a b modHalf [t] [t] t (Source.packed code)
    (fun c x y => c.putHalf code fun j => (c.half code false x j).mul (c.half code true y j)) s

/-- HFMA2 of a format (R482): rounded once. -/
def hfma2 (i : Instr) (code : Nat) (w : BitVec 1) (d : BitVec 7) (a b : BitVec 8) (s : State) : Host.Outcome State Fault Refusal :=
  let t := BitVec.ofNat 4 code
  vector3 i w d a b modHalf [t] [t] [t] t (Source.packed code)
    (fun c x y z => c.putHalf code fun j =>
      ((c.half code false x j).mul (c.half code true y j)).add c.rnd (readF (halfFmt code) (c.modBit 12) (elemOf code z j))) s

/-- HADD2.f16 (R482). -/
def execHadd2F16 (w : BitVec 1) (d : BitVec 7) (a b : BitVec 8) (s : State) : Host.Outcome State Fault Refusal :=
  hadd2 (.hadd2F16 w d a b) 2 w d a b s

/-- HADD2.bf16 (R482). -/
def execHadd2Bf16 (w : BitVec 1) (d : BitVec 7) (a b : BitVec 8) (s : State) : Host.Outcome State Fault Refusal :=
  hadd2 (.hadd2Bf16 w d a b) 3 w d a b s

/-- HMUL2.f16 (R482). -/
def execHmul2F16 (w : BitVec 1) (d : BitVec 7) (a b : BitVec 8) (s : State) : Host.Outcome State Fault Refusal :=
  hmul2 (.hmul2F16 w d a b) 2 w d a b s

/-- HMUL2.bf16 (R482). -/
def execHmul2Bf16 (w : BitVec 1) (d : BitVec 7) (a b : BitVec 8) (s : State) : Host.Outcome State Fault Refusal :=
  hmul2 (.hmul2Bf16 w d a b) 3 w d a b s

/-- HFMA2.f16 (R482). -/
def execHfma2F16 (w : BitVec 1) (d : BitVec 7) (a b : BitVec 8) (s : State) : Host.Outcome State Fault Refusal :=
  hfma2 (.hfma2F16 w d a b) 2 w d a b s

/-- HFMA2.bf16 (R482). -/
def execHfma2Bf16 (w : BitVec 1) (d : BitVec 7) (a b : BitVec 8) (s : State) : Host.Outcome State Fault Refusal :=
  hfma2 (.hfma2Bf16 w d a b) 3 w d a b s

end Sys2Proof.Machine
end

