-- ==== Sys2Proof/Machine/Jobs.lean ====
section
/-! DEFINITION. Posting job cards: JPOST (R306 to R309, R491); grid counters: GRIDARR (R312, R481). -/

namespace Sys2Proof.Machine

/-! ### JPOST -/

/-- The queue that TARGET names for a wave of a cluster (R304, R307): none is the package queue. -/
def targetQueue (target cluster : Nat) : Option Nat :=
  let stack := cluster / 16
  if target == 1 then some cluster
  else if target == 2 then some (16 * stack + (cluster + 1) % 16)
  else if target == 3 then some (16 * stack + (cluster + 15) % 16)
  else none

/-- The context holds its quota of cards, or the card store is full (R307, R309). A host's launch waits for room instead (DEDUCED, log 67). -/
def storeFull (s : State) (context quota : Nat) : Bool :=
  decide (quota ≤ (s.disp.cards.filter fun e => e.2.context == context).length) || decide (Config.cardEntries ≤ s.disp.cards.length)

/-- The stores and atomics of a wave in stream 0 that are not yet performed (R307), and what its stack has written back to other packages (R164). -/
def postGate (s : State) (key stack : Nat) : List (Nat × Nat) :=
  (packetsOut s key 0).map (fun p => (0, p.packet.tag)) ++
  (s.fabric.sent.filter fun p => p.back == some stack && decide (p.stage < 2)).map (fun p => (0, p.packet.tag)) ++
  (s.scratchOps.filter fun e => e.2.wave == key && e.2.stream == 0 && !e.2.arrived).map fun e => (1, e.1)

/-- Puts a posted card into the store (R307): its launch id, its age, and what it must wait for. -/
def postCard (s : State) (c : Ctx) (card : Card) : State × Nat :=
  let id := s.pkg % 128 * 2 ^ 24 + s.disp.posted % 2 ^ 24
  let key := s.disp.nextCard
  let s' := enqueueCard s c.conv.context (BitVec.ofNat 32 id) card (targetQueue card.target c.conv.cluster) 0 0 card.count false none
  let gate := postGate s c.key (coreStack c.w.core)
  ({ s' with disp := { s'.disp with
      posted := s'.disp.posted + 1
      cards := tmod s'.disp.cards key fun x => { x with gate := gate } } }, id)

/-- What JPOST writes: the status in [39:32], the launch id, and the predicate (R307, R491). -/
def postStatus (s : State) (c : Ctx) (p d status id : Nat) : State :=
  s.modWave c.key fun w => (w.setPreg p (if status == 0 then 0xFFFFFFFF else 0)).setSreg d (BitVec.ofNat 64 (status * 2 ^ 32 + id))

/-- `jpost pD, sD, sA` (R306, R307): a release at package scope in stream 0 for which the wave does not wait. -/
def execJpost (a : BitVec 6) (p : BitVec 3) (d : BitVec 6) (s : State) : Host.Outcome State Fault Refusal :=
  run (.jpost a p d) { inTx := false, onePath := true } s fun c =>
    let ea := c.w.sreg a.toNat
    match firstCause s c [(ea, 64, 64, .own)] with
    | some t => .trap t
    | none =>
      let n := ownScratch s c ea 64
      if !cardOk n then .trap (Trap.mk' 0x02 (wordOf (.jpost a p d)))
      else
        let card := cardOf n
        let s := cleanStack s (coreStack c.w.core) 3
        if neverFits s card (List.range 64) card.count then .next (postStatus s c p.toNat d.toNat 2 0)
        else if storeFull s c.conv.context c.conv.desc.cardQuota then .next (postStatus s c p.toNat d.toNat 1 0)
        else
          let r := postCard s c card
          .next (postStatus r.1 c p.toNat d.toNat 0 r.2)

/-! ### GRIDARR -/

/-- An arrival at a grid counter (R312): one atomic at the dispatcher. -/
def gridArrive (s : State) (context : Nat) (gridPa : Dword) (n expected : Nat) : State :=
  let x := s.context context
  let arrived := tgetD x.grid n 0 + 1
  if expected ≤ arrived then bumpRelease (s.setContext context { x with grid := tset 0 x.grid n 0 }) gridPa n
  else s.setContext context { x with grid := tset 0 x.grid n arrived }

/-- `gridarr sD, n, sE` (R312, R481): a release at package scope in stream 0. -/
def execGridarr (n : BitVec 5) (e d : BitVec 6) (s : State) : Host.Outcome State Fault Refusal :=
  run (.gridarr n e d) { inTx := false, onePath := true } s fun c =>
    if streamHeld c 0 then .wait (heldReason c 0) 0
    else if releaseWaits s c.key 0 then .wait 11 0
    else
      let expected := (c.w.sreg e.toNat).toNat % 2 ^ 32
      withClean s c 3 11 0 fun s =>
        let old := peekNat s (releaseAddr c.conv.desc.gridPa n.toNat) 4
        let s := gridArrive s c.conv.context c.conv.desc.gridPa n.toNat expected
        .next (s.modWave c.key fun w => w.setSreg d.toNat (BitVec.ofNat 64 old))

end Sys2Proof.Machine
end

