-- ==== Sys2Proof/Machine/Scalar.lean ====
section
/-! DEFINITION. The scalar ALU instructions (R530 to R532). -/

namespace Sys2Proof.Machine

/-- The shift count of a scalar shift: B as unsigned, at most 64 (R530). -/
def shiftCount64 (b : Dword) : Nat := min b.toNat 64

/-- SADD (R530). -/
def execSadd (d : BitVec 6) (a b : BitVec 8) (s : State) : Host.Outcome State Fault Refusal :=
  scalar2 (.sadd d a b) d a b (· + ·) s

/-- SSUB (R530). -/
def execSsub (d : BitVec 6) (a b : BitVec 8) (s : State) : Host.Outcome State Fault Refusal :=
  scalar2 (.ssub d a b) d a b (· - ·) s

/-- SMUL (R530). -/
def execSmul (d : BitVec 6) (a b : BitVec 8) (s : State) : Host.Outcome State Fault Refusal :=
  scalar2 (.smul d a b) d a b (· * ·) s

/-- SAND (R530). -/
def execSand (d : BitVec 6) (a b : BitVec 8) (s : State) : Host.Outcome State Fault Refusal :=
  scalar2 (.sand d a b) d a b (· &&& ·) s

/-- SOR (R530). -/
def execSor (d : BitVec 6) (a b : BitVec 8) (s : State) : Host.Outcome State Fault Refusal :=
  scalar2 (.sor d a b) d a b (· ||| ·) s

/-- SXOR (R530). -/
def execSxor (d : BitVec 6) (a b : BitVec 8) (s : State) : Host.Outcome State Fault Refusal :=
  scalar2 (.sxor d a b) d a b (· ^^^ ·) s

/-- SSHL (R530): 0 where the count is 64. -/
def execSshl (d : BitVec 6) (a b : BitVec 8) (s : State) : Host.Outcome State Fault Refusal :=
  scalar2 (.sshl d a b) d a b (fun x y => x <<< shiftCount64 y) s

/-- SSHR (R530): zero fill. -/
def execSshr (d : BitVec 6) (a b : BitVec 8) (s : State) : Host.Outcome State Fault Refusal :=
  scalar2 (.sshr d a b) d a b (fun x y => x >>> shiftCount64 y) s

/-- SSAR (R530): sign fill. -/
def execSsar (d : BitVec 6) (a b : BitVec 8) (s : State) : Host.Outcome State Fault Refusal :=
  scalar2 (.ssar d a b) d a b (fun x y => x.sshiftRight (shiftCount64 y)) s

/-- SMOV (R530). -/
def execSmov (d : BitVec 6) (a : BitVec 8) (s : State) : Host.Outcome State Fault Refusal :=
  run (.smov d a) { kinds := kindsS, opnds := [opS 1 a] } s fun c =>
    scalarDone s c false d.toNat (source s c (opS 1 a)).wide

/-- SMOVI (R530). -/
def execSmovi (d : BitVec 6) (i : BitVec 16) (s : State) : Host.Outcome State Fault Refusal :=
  run (.smovi d i) { kinds := kindsS } s fun c => scalarDone s c false d.toNat (i.signExtend 64)

/-- SCMP (R532): a uniform condition, written to PD in the acting lanes; the latches receive 64 bits of it. -/
def execScmp (cc : BitVec 4) (p : BitVec 3) (m : BitVec 1) (a b : BitVec 8) (s : State) : Host.Outcome State Fault Refusal :=
  run (.scmp cc p m a b) { kinds := kindsP, modMask := 0x001E0, opnds := [opS 1 a, opS 2 b] } s fun c =>
    let x := (source s c (opS 1 a)).wide
    let y := (source s c (opS 2 b)).wide
    let r := condInt cc.toNat (x.toInt, y.toInt) (x.toNat, y.toNat)
    .next (s.modWave c.key fun w =>
      (w.setPreg p.toNat (predAfter (w.preg p.toNat) c.acting (if r then 0xFFFFFFFF else 0) m)).pushLatch c.p 0xF 0xFFFFFFFF
        (scalarLanes (if r then 0xFFFFFFFFFFFFFFFF else 0)))

end Sys2Proof.Machine
end

