-- ==== Sys2Proof/Machine/Tile.lean ====
section
/-! DEFINITION. Tile instructions: TLD, TST, TZERO (R234 to R237, R549), and the completion of a tile load. -/

namespace Sys2Proof.Machine

/-! ### Formats and addresses -/

/-- The tag code of a memory element of a tile format (R234). -/
def tileCode (fa : Nat) : Nat :=
  if fa == 0 then 1 else if fa == 1 then 3 else if fa == 2 then 2 else if fa == 3 then 0xA else if fa == 4 then 0xB
  else if fa == 5 then 4 else 8

/-- Bytes of a memory element of a tile format (R234). -/
def tileBytes (fa : Nat) : Nat := codeBits (tileCode fa) / 8

/-- The tag of a tile that a format goes with (R234). -/
def tileTag (fa : Nat) : BitVec 4 := if fa ≤ 4 then 1 else 4

/-- A memory element as TLD converts it (R234, R236). -/
def tileIn (fa x : Nat) : Word := BitVec.ofNat 32 (writeElem (tileTag fa).toNat 0 false false (readElem (tileCode fa) false x))

/-- The number that stands for lane 0 in the accesses of a tile, so that its elements name no lane of the wave. -/
def tileBase : Nat := 4096

/-- The elements of a tile of a convoy, by 64 i + j above the base, with their addresses, in ascending order (R235). -/
def tileAddrs (c : Ctx) (e : Nat) (a b : BitVec 6) : List (Nat × Dword) :=
  (List.range (tileRows c.conv.card.bind)).flatMap fun i =>
    let row := c.w.sreg a.toNat + BitVec.ofNat 64 i * c.w.sreg b.toNat
    (List.range (tileCols c.conv.card.bind)).map fun j => (tileBase + 64 * i + j, row + BitVec.ofNat 64 (j * e))

/-- The address and the stride are multiples of the element's size (R235). -/
def tileMisaligned (c : Ctx) (e : Nat) (a b : BitVec 6) : Option Trap :=
  if (c.w.sreg a.toNat).toNat % e != 0 then some (Trap.mk' 0x06 (c.w.sreg a.toNat))
  else if (c.w.sreg b.toNat).toNat % e != 0 then some (Trap.mk' 0x06 (c.w.sreg a.toNat + c.w.sreg b.toNat))
  else none

/-- What holds a tile instruction at issue: a slab reset (R247), a TLD of the tile that has not completed (R236). -/
def tileWait (s : State) (c : Ctx) (t : Nat) : Option Nat :=
  if (s.core c.w.core).resetting then some 29 else if c.w.tldTiles.getLsbD t then some 18 else none

/-- A tile that matrix instructions still work on is written: their results are undefined (R180). -/
def spoilBusy (s : State) (crew t : Nat) : State := if tileBusy s crew t 0 true then spoilTile s crew t else s

/-! ### TLD -/

/-- TLD once its elements' addresses are found: those in reach are read, and the others left outstanding. The tile is written when it completes. -/
def loadTile (s : State) (c : Ctx) (fa t stream : Nat) (accs : List Acc) : Option State :=
  let crew := keyCrewKey c.key
  let away := awayAccs s c.w.core accs
  let here := if away.isEmpty then accs else accs.filter fun a => !away.contains a
  match touchReads s c.w.core true here with
  | none => none
  | some s =>
    let vals := here.map fun a => (a.lane - tileBase, tileIn fa (readAcc s c (tileBytes fa) a.tgt))
    let s := spoilBusy s crew t
    let s := sendLoads s c { bytes := tileBytes fa, scalar := false, stream := stream, scope := 4, acquire := false, dest := .tile t fa } away
    some (s.modWave c.key fun w => { w with
      tldTiles := w.tldTiles ||| (1#16 <<< t), tldData := tput w.tldData t (fa, vals.foldl (fun m e => tset 0 m e.1 e.2) []) })

/-- `tld` (R234 to R237): a translation fault parks the wave, and the whole retries. -/
def execTld (t f st : BitVec 4) (a b : BitVec 6) (s : State) : Host.Outcome State Fault Refusal :=
  let fa := f.toNat
  let e := tileBytes fa
  run (.tld t f st a b) { kinds := 0x10, tiles := [t.toNat], inTx := false } s fun c =>
    match tileMisaligned c e a b with
    | some trap => .trap trap
    | none =>
      match tileWait s c t.toNat with
      | some r => .wait r 0
      | none =>
        if streamHeld c st.toNat then .wait (heldReason c st.toNat) 0
        else match resolve s c .tileRead e true (tileAddrs c e a b) with
        | .trap t => .trap t
        | .poison ea => consumePoison s c ea 0
        | .held pa kind => walkWait s pa kind
        | .fault s' _ _ vas => .stay (parkWave s' c.key c.p c.path.pc 0xFFFFFFFF .read vas)
        | .ok s' accs =>
          if loadWaits s c st.toNat accs then .wait (loadReason s c st.toNat accs) 0
          else
            let s' := checkReads s' c accs
            let bad := accs.filter fun x => readsPoison s' (keyConvoy c.key) x.tgt || (match x.tgt with
              | .mem pa _ => x.tgt.foreign s && !isHeld s c.w.core x.tgt && isLost s (paPkg pa)
              | _ => false)
            if !bad.isEmpty then consumePoison s' c (firstEa bad fun _ => true) 0
            else if leasedDirty s (awayAccs s c.w.core accs) then .wait 31 0
            else match loadTile s' c fa t.toNat st.toNat accs with
              | none => homeWait s' c 0 accs
              | some s => .next s

/-- The tile that a TLD makes of what it has read. -/
def loadedTile (fa : Nat) (elems : Table Word) : Tile := { tag := tileTag fa, elems := elems }

/-- TLD_COMPLETE (R236): a tile load completes with the elements that other packages have returned, in the order of their addresses; its tile and tag are
written, and instructions that name the tile go on. -/
def execTldComplete (wave tile : Nat) (data : List Word) (s : State) : Host.Outcome State Fault Refusal :=
  let mine (l : PendingLoad) : Bool := l.wave == wave && (match l.dest with | .tile t _ => t == tile | _ => false)
  let pending := (s.loads.filter fun e => mine e.2).map (·.2)
  let elems := pending.flatMap fun l => l.addrs.map fun a => a.1 - tileBase
  match tget s.waves wave with
  | none => .next s
  | some w => match tget w.tldData tile with
    | none => .next s
    | some (fa, got) =>
      if elems.length != data.length || (waveConvoy s wave).any fun v => v.residence != .placed then .next s
      else
        let s := { s with loads := s.loads.filter (fun e => !mine e.2), epoch := s.epoch + 1, draws := s.draws + 1 }
        let vals := (elems.zip data).map fun x => (x.1, tileIn fa (x.2.toNat % 2 ^ (8 * tileBytes fa)))
        let s := s.setTile (keyCrewKey wave) tile (loadedTile fa (vals.foldl (fun m e => tset 0 m e.1 e.2) got))
        let s := spoilBusy s (keyCrewKey wave) tile
        .next (s.modWave wave fun w => { w with tldTiles := w.tldTiles &&& ~~~(1#16 <<< tile), tldData := tdel w.tldData tile })

/-! ### TST -/

/-- TST's elements as stored, with their bound check (R103, R104, R236): each element, and how many were out of range. -/
def tileOut (s : State) (c : Ctx) (fa : Nat) (x : Tile) (l : List Acc) : List LaneStore × Nat :=
  let code := tileCode fa
  let tag := (tileTag fa).toNat
  let en := boundEntry s c
  let on := c.ext.has 5 && boundEnabled en
  let kind := bits en.toNat 74 2
  let lo := boundVal kind (boundLo en)
  let hi := boundVal kind (boundHi en)
  let action := boundAction en (c.ext.payload 5)
  let put (a : Acc) : Nat × Bool :=
    let v := writeElem code c.rnd (c.modBit 15) (c.modBit 12) (readElem tag (c.modBit 12) (tgetD x.elems (a.lane - tileBase) 0).toNat)
    let site := 200000 + 8 * a.lane
    let side := if on then boundSide s.draws site lo hi (readElem code false v) else 0
    let v := if action == 1 then v
      else if side == 1 then boundAs s.draws (site + 2) code true lo
      else if side == 2 then boundAs s.draws (site + 3) code false hi else v
    (v, side != 0)
  let outs := l.map fun a => (a, put a)
  (outs.map fun o => (o.1, bytesOf (tileBytes fa) o.2.1), (outs.filter fun o => o.2.2).length)

/-- The end of TST's bound check (R104): HITS, the bound flag, and under the trap action a report that names the bound. -/
def tileBound (s : State) (c : Ctx) (n : Nat) : State :=
  let index := bits (c.ext.payload 5).toNat 14 6
  let en := boundEntry s c
  if n == 0 then s
  else
    let s := { s with bound := tset 0 s.bound (c.conv.desc.bndBase + index) (addHits en n) }
    let s := s.modWave c.key fun w => { w with faultstat := boundFlag w.faultstat index }
    if boundAction en (c.ext.payload 5) == 3 then addReport s (waveReport c 0x0A 0 (BitVec.ofNat 64 index) 0) else s

/-- `tst` (R234 to R237): every element is translated before any is stored. -/
def execTst (t f st : BitVec 4) (a b : BitVec 6) (s : State) : Host.Outcome State Fault Refusal :=
  let fa := f.toNat
  let e := tileBytes fa
  let sp : IssueSpec := {
    kinds := 0x34, modMask := 0x0F000, tiles := [t.toNat], inTx := false
    tags := (fun c => needTile s c t.toNat (tileTag fa)), resultTag := (fun _ => BitVec.ofNat 4 (tileCode fa)) }
  run (.tst t f st a b) sp s fun c =>
    match tileMisaligned c e a b with
    | some trap => .trap trap
    | none =>
      match tileWait s c t.toNat with
      | some r => .wait r 0
      | none =>
        if streamHeld c st.toNat then .wait (heldReason c st.toNat) 0
        else match resolve s c .tileWrite e true (tileAddrs c e a b) with
        | .trap t => .trap t
        | .poison ea => consumePoison s c ea 0
        | .held pa kind => walkWait s pa kind
        | .fault s' _ _ vas => .stay (parkWave s' c.key c.p c.path.pc 0xFFFFFFFF .write vas)
        | .ok s' accs =>
          match writeWaits s c st.toNat false accs with
          | some r => .wait r 0
          | none =>
            let s' := spoilBusy s' (keyCrewKey c.key) t.toNat
            let out := tileOut s' c fa (s'.tile (keyCrewKey c.key) t.toNat) accs
            match storeLanes (tileBound s' c out.2) c st.toNat out.1 with
            | none => homeWait s c 1 accs
            | some s => .next s

/-! ### TZERO -/

/-- `tzero` (R234, R236). -/
def execTzero (t f : BitVec 4) (s : State) : Host.Outcome State Fault Refusal :=
  run (.tzero t f) { tiles := [t.toNat], inTx := false } s fun c =>
    match tileWait s c t.toNat with
    | some r => .wait r 0
    | none => .next (spoilBusy (s.setTile (keyCrewKey c.key) t.toNat { tag := tileTag f.toNat, elems := [] }) (keyCrewKey c.key) t.toNat)

end Sys2Proof.Machine
end

