-- ==== Sys2Proof/Machine/VectorInt.lean ====
section
/-! DEFINITION. Vector logic, shift, bit-field and integer instructions (R423, R424, R429, R430, R441, R483 to R490, R495, R535). -/

namespace Sys2Proof.Machine

/-- The shift count of a vector shift: B as unsigned, at most 32 (R535). -/
def shiftCount32 (b : Word) : Nat := min b.toNat 32

/-- The offset and length of a bit field (R429): B[4:0], and B[13:8] capped at 32 minus the offset. -/
def fieldOf (b : Word) : Nat × Nat :=
  let o := bits b.toNat 0 5
  (o, min (bits b.toNat 8 6) (32 - o))

/-- The field of BFE, zero-extended (R429). -/
def bfeU (a b : Word) : Word := BitVec.ofNat 32 (bits a.toNat (fieldOf b).1 (fieldOf b).2)

/-- The field of BFE, sign-extended from its top bit; a length of 0 gives 0 (R429). -/
def bfeS (a b : Word) : Word :=
  let n := (fieldOf b).2
  if n == 0 then 0 else BitVec.ofInt 32 (signedNat n (bfeU a b).toNat)

/-- BFI: the field of D replaced from the low bits of A (R429). -/
def bfiWord (a b d : Word) : Word :=
  let f := fieldOf b
  let m : Word := BitVec.ofNat 32 (2 ^ f.2 - 1) <<< f.1
  (d &&& ~~~m) ||| ((a <<< f.1) &&& m)

/-- An exact integer clamped to the signed 32-bit range. -/
def clampS (i : Int) : Word := BitVec.ofInt 32 (max (-0x80000000) (min 0x7FFFFFFF i))

/-- An exact integer clamped to the unsigned 32-bit range. -/
def clampU (i : Int) : Word := BitVec.ofInt 32 (max 0 (min 0xFFFFFFFF i))

/-- AND (R423, R424). -/
def execAnd (w : BitVec 1) (d : BitVec 7) (a b : BitVec 8) (s : State) : Host.Outcome State Fault Refusal :=
  vector2 (.and w d a b) w d a b 0 anyTag anyTag 0 Source.bits (fun _ x y => x &&& y) s

/-- OR (R423, R424). -/
def execOr (w : BitVec 1) (d : BitVec 7) (a b : BitVec 8) (s : State) : Host.Outcome State Fault Refusal :=
  vector2 (.or w d a b) w d a b 0 anyTag anyTag 0 Source.bits (fun _ x y => x ||| y) s

/-- XOR (R423, R424). -/
def execXor (w : BitVec 1) (d : BitVec 7) (a b : BitVec 8) (s : State) : Host.Outcome State Fault Refusal :=
  vector2 (.xor w d a b) w d a b 0 anyTag anyTag 0 Source.bits (fun _ x y => x ^^^ y) s

/-- NOT (R423, R424). -/
def execNot (w : BitVec 1) (d : BitVec 7) (a : BitVec 8) (s : State) : Host.Outcome State Fault Refusal :=
  vector1 (.not w d a) w d a 0 anyTag 0 Source.bits (fun _ x => ~~~x) s

/-- SHL (R535). -/
def execShl (w : BitVec 1) (d : BitVec 7) (a b : BitVec 8) (s : State) : Host.Outcome State Fault Refusal :=
  vector2 (.shl w d a b) w d a b 0 anyTag anyTag 0 Source.bits (fun _ x y => x <<< shiftCount32 y) s

/-- SHR (R535). -/
def execShr (w : BitVec 1) (d : BitVec 7) (a b : BitVec 8) (s : State) : Host.Outcome State Fault Refusal :=
  vector2 (.shr w d a b) w d a b 0 anyTag anyTag 0 Source.bits (fun _ x y => x >>> shiftCount32 y) s

/-- SAR (R535). -/
def execSar (w : BitVec 1) (d : BitVec 7) (a b : BitVec 8) (s : State) : Host.Outcome State Fault Refusal :=
  vector2 (.sar w d a b) w d a b 0 anyTag anyTag 0 Source.bits (fun _ x y => x.sshiftRight (shiftCount32 y)) s

/-- BFE.n32 (R429, R430). -/
def execBfeN32 (w : BitVec 1) (d : BitVec 7) (a b : BitVec 8) (s : State) : Host.Outcome State Fault Refusal :=
  vector2 (.bfeN32 w d a b) w d a b 0 anyTag [4, 5, 0] 5 Source.bits (fun _ x y => bfeU x y) s

/-- BFE.i32 (R429, R430). -/
def execBfeI32 (w : BitVec 1) (d : BitVec 7) (a b : BitVec 8) (s : State) : Host.Outcome State Fault Refusal :=
  vector2 (.bfeI32 w d a b) w d a b 0 anyTag [4, 5, 0] 4 Source.bits (fun _ x y => bfeS x y) s

/-- BFI (R429, R430). -/
def execBfi (w : BitVec 1) (d : BitVec 7) (a b : BitVec 8) (s : State) : Host.Outcome State Fault Refusal :=
  vector3 (.bfi w d a b) w d a b 0 anyTag anyTag [4, 5, 0] 0 Source.bits (fun _ x y z => bfiWord x y z) s

/-- CLZ (R441): 32 for zero. -/
def execClz (w : BitVec 1) (d : BitVec 7) (a : BitVec 8) (s : State) : Host.Outcome State Fault Refusal :=
  vector1 (.clz w d a) w d a 0 anyTag 5 Source.bits
    (fun _ x => BitVec.ofNat 32 (if x == 0 then 32 else 31 - Nat.log2 x.toNat)) s

/-- POPC (R441). -/
def execPopc (w : BitVec 1) (d : BitVec 7) (a : BitVec 8) (s : State) : Host.Outcome State Fault Refusal :=
  vector1 (.popc w d a) w d a 0 anyTag 5 Source.bits (fun _ x => BitVec.ofNat 32 (bitsSet x).length) s

/-- IADD (R484, R485). -/
def execIadd (w : BitVec 1) (d : BitVec 7) (a b : BitVec 8) (s : State) : Host.Outcome State Fault Refusal :=
  vectorTyped (.iadd w d a b) w d a b false (fun x y _ => x + y) s

/-- ISUB (R484, R485). -/
def execIsub (w : BitVec 1) (d : BitVec 7) (a b : BitVec 8) (s : State) : Host.Outcome State Fault Refusal :=
  vectorTyped (.isub w d a b) w d a b false (fun x y _ => x - y) s

/-- IADDS.i32 (R486). -/
def execIaddsI32 (w : BitVec 1) (d : BitVec 7) (a b : BitVec 8) (s : State) : Host.Outcome State Fault Refusal :=
  vector2 (.iaddsI32 w d a b) w d a b 0 [4] [4] 4 Source.bits (fun _ x y => clampS (x.toInt + y.toInt)) s

/-- IADDS.n32 (R486). -/
def execIaddsN32 (w : BitVec 1) (d : BitVec 7) (a b : BitVec 8) (s : State) : Host.Outcome State Fault Refusal :=
  vector2 (.iaddsN32 w d a b) w d a b 0 [5] [5] 5 Source.bits (fun _ x y => clampU (x.toNat + y.toNat)) s

/-- ISUBS.i32 (R486). -/
def execIsubsI32 (w : BitVec 1) (d : BitVec 7) (a b : BitVec 8) (s : State) : Host.Outcome State Fault Refusal :=
  vector2 (.isubsI32 w d a b) w d a b 0 [4] [4] 4 Source.bits (fun _ x y => clampS (x.toInt - y.toInt)) s

/-- ISUBS.n32 (R486). -/
def execIsubsN32 (w : BitVec 1) (d : BitVec 7) (a b : BitVec 8) (s : State) : Host.Outcome State Fault Refusal :=
  vector2 (.isubsN32 w d a b) w d a b 0 [5] [5] 5 Source.bits (fun _ x y => clampU ((x.toNat : Int) - y.toNat)) s

/-- IMUL (R484, R490). -/
def execImul (w : BitVec 1) (d : BitVec 7) (a b : BitVec 8) (s : State) : Host.Outcome State Fault Refusal :=
  vectorTyped (.imul w d a b) w d a b false (fun x y _ => x * y) s

/-- IMULH.i32 (R490). -/
def execImulhI32 (w : BitVec 1) (d : BitVec 7) (a b : BitVec 8) (s : State) : Host.Outcome State Fault Refusal :=
  vector2 (.imulhI32 w d a b) w d a b 0 [4] [4] 4 Source.bits (fun _ x y => BitVec.ofInt 32 (x.toInt * y.toInt / 2 ^ 32)) s

/-- IMULH.n32 (R490). -/
def execImulhN32 (w : BitVec 1) (d : BitVec 7) (a b : BitVec 8) (s : State) : Host.Outcome State Fault Refusal :=
  vector2 (.imulhN32 w d a b) w d a b 0 [5] [5] 5 Source.bits (fun _ x y => BitVec.ofNat 32 (x.toNat * y.toNat / 2 ^ 32)) s

/-- IMAD (R484, R488). -/
def execImad (w : BitVec 1) (d : BitVec 7) (a b : BitVec 8) (s : State) : Host.Outcome State Fault Refusal :=
  vectorTyped (.imad w d a b) w d a b true (fun x y z => x * y + z) s

/-- IMIN.i32 (R489). -/
def execIminI32 (w : BitVec 1) (d : BitVec 7) (a b : BitVec 8) (s : State) : Host.Outcome State Fault Refusal :=
  vector2 (.iminI32 w d a b) w d a b 0 [4] [4] 4 Source.bits (fun _ x y => if x.toInt ≤ y.toInt then x else y) s

/-- IMIN.n32 (R489). -/
def execIminN32 (w : BitVec 1) (d : BitVec 7) (a b : BitVec 8) (s : State) : Host.Outcome State Fault Refusal :=
  vector2 (.iminN32 w d a b) w d a b 0 [5] [5] 5 Source.bits (fun _ x y => if x.toNat ≤ y.toNat then x else y) s

/-- IMAX.i32 (R489). -/
def execImaxI32 (w : BitVec 1) (d : BitVec 7) (a b : BitVec 8) (s : State) : Host.Outcome State Fault Refusal :=
  vector2 (.imaxI32 w d a b) w d a b 0 [4] [4] 4 Source.bits (fun _ x y => if x.toInt ≤ y.toInt then y else x) s

/-- IMAX.n32 (R489). -/
def execImaxN32 (w : BitVec 1) (d : BitVec 7) (a b : BitVec 8) (s : State) : Host.Outcome State Fault Refusal :=
  vector2 (.imaxN32 w d a b) w d a b 0 [5] [5] 5 Source.bits (fun _ x y => if x.toNat ≤ y.toNat then y else x) s

/-- IABS (R483): the most negative number wraps, and saturates under .sat. -/
def execIabs (w : BitVec 1) (d : BitVec 7) (a : BitVec 8) (s : State) : Host.Outcome State Fault Refusal :=
  vector1 (.iabs w d a) w d a 0x08000 [4] 4 Source.bits
    (fun c x => let r : Int := x.toInt.natAbs; if c.modBit 15 then clampS r else BitVec.ofInt 32 r) s

/-- A vector compare of integers (R487, R459). -/
def compareInt (i : Instr) (cc : BitVec 4) (p : BitVec 3) (m : BitVec 1) (a b : BitVec 8) (tag : BitVec 4) (signed : Bool)
    (s : State) : Host.Outcome State Fault Refusal :=
  run i { kinds := kindsP, modMask := modPlain, opnds := [opA a, opB b],
          tags := fun c => need c (opA a) [tag] ++ need c (opB b) [tag] } s fun c =>
    let x := source s c (opA a)
    let y := source s c (opB b)
    compareDone s c p.toNat m (maskOf fun L =>
      let u := x.bits L
      let v := y.bits L
      condInt cc.toNat (if signed then (u.toInt, v.toInt) else (u.toNat, v.toNat)) (u.toNat, v.toNat))

/-- ICMP.i32 (R487). -/
def execIcmpI32 (cc : BitVec 4) (p : BitVec 3) (m : BitVec 1) (a b : BitVec 8) (s : State) : Host.Outcome State Fault Refusal :=
  compareInt (.icmpI32 cc p m a b) cc p m a b 4 true s

/-- ICMP.n32 (R487). -/
def execIcmpN32 (cc : BitVec 4) (p : BitVec 3) (m : BitVec 1) (a b : BitVec 8) (s : State) : Host.Outcome State Fault Refusal :=
  compareInt (.icmpN32 cc p m a b) cc p m a b 5 false s

/-- The index of LEA (R495): sign-extended from an I32 operand, a constant, the EXT immediate or a scalar; else zero-extended. -/
def leaIndex (y : Source) (L : Nat) : Dword :=
  match y with
  | .tagged t v => if t == 4 then (lane v L).signExtend 64 else (lane v L).setWidth 64
  | .ident v => (lane v L).setWidth 64
  | y => (y.bits L).signExtend 64

/-- LEA (R495): a 64-bit address into a pair. -/
def execLea (w : BitVec 1) (d : BitVec 7) (a b : BitVec 8) (s : State) : Host.Outcome State Fault Refusal :=
  let oa := if selIsVec a then (opA a).group 2 else opA a
  run (.lea w d a b)
    { kinds := kindsA, modMask := modPlain, opnds := [(opD d).group 2, oa, opB b], resultTag := fun _ => 0xF,
      tags := fun c => needGroup c oa [0xF, 0] ++ need c (opB b) [4, 5, 0, 0xF] } s fun c =>
    let y := source s c (opB b)
    let x := source s c oa
    let base (L : Nat) : Dword :=
      if selIsVec a then (lane (regLanes s c (oa.reg c)) L).setWidth 64 ||| ((lane (regLanes s c (oa.reg c + 1)) L).setWidth 64 <<< 32)
      else x.wideLane L
    let r (L : Nat) : Dword := base L + leaIndex y L
    aluDone s c false ((opD d).reg c) 0 c.acting
      [(0xF, lanesOf fun L => (r L).setWidth 32), (0xF, lanesOf fun L => (r L >>> 32).setWidth 32)]

end Sys2Proof.Machine
end

