-- ==== Sys2Proof/Machine/VectorMove.lean ====
section
/-! DEFINITION. Moves and lane operations (R98, R499 to R501, R521, R522, R533, R534, R538, R557). -/

namespace Sys2Proof.Machine

/-- The tag that MOV writes (R499): the one it names, or that of A, or RAW. -/
def movTag (c : Ctx) (a : BitVec 8) (r : BitVec 1) (t : BitVec 4) : BitVec 4 :=
  if r == 1 then t else (tagOf c (opA a)).getD 0

/-- MOV (R499 to R501). -/
def execMov (w : BitVec 1) (d : BitVec 7) (a : BitVec 8) (r : BitVec 1) (t : BitVec 4) (s : State) :
    Host.Outcome State Fault Refusal :=
  run (.mov w d a r t) (specA [opD d, opA a] 0 (fun _ => []) (fun c => movTag c a r t)) s fun c =>
    let x := source s c (opA a)
    aluDone s c (w == 1) ((opD d).reg c) 1 c.acting [(movTag c a r t, lanesOf x.bits)]

/-- MOVI (R499, R500). -/
def execMovi (w : BitVec 1) (d : BitVec 7) (i : BitVec 16) (s : State) : Host.Outcome State Fault Refusal :=
  run (.movi w d i) (specA [opD d] 0 (fun _ => []) (fun _ => 4)) s fun c =>
    aluDone s c (w == 1) ((opD d).reg c) 1 c.acting [(4, lanesOf fun _ => i.signExtend 32)]

/-- The tag of SEL (R533, R64): the common tag, the tag of the one tagged operand, else RAW. -/
def selTag (c : Ctx) (a b : BitVec 8) : BitVec 4 :=
  match tagOf c (opA a), tagOf c (opB b) with
  | some t, some u => if t == u then t else 0
  | some t, none => t
  | none, some u => u
  | none, none => 0

/-- SEL (R533): PSEL and PINV choose A or B in each active lane, and mask no lane. -/
def execSel (w : BitVec 1) (d : BitVec 7) (a b : BitVec 8) (s : State) : Host.Outcome State Fault Refusal :=
  run (.sel w d a b) (specA [opD d, opA a, opB b] 0 (fun _ => []) (fun c => selTag c a b)) s fun c =>
    let x := source s c (opA a)
    let y := source s c (opB b)
    let q := predLanes c.w c.ext
    aluDone s c (w == 1) ((opD d).reg c) 1 c.active
      [(selTag c a b, lanesOf fun L => if q.getLsbD L then x.bits L else y.bits L)]

/-- SHFL (R534): each acting lane reads the lane that B[4:0] names. -/
def execShfl (w : BitVec 1) (d : BitVec 7) (a b : BitVec 8) (s : State) : Host.Outcome State Fault Refusal :=
  run (.shfl w d a b)
    (specA [opD d, opA a, opB b] 0 (fun c => need c (opB b) [4, 5, 0]) (fun c => (tagOf c (opA a)).getD 0)) s fun c =>
    let x := source s c (opA a)
    let y := source s c (opB b)
    aluDone s c (w == 1) ((opD d).reg c) 1 c.acting
      [((tagOf c (opA a)).getD 0, lanesOf fun L => x.bits (bits (y.bits L).toNat 0 5))]

/-- The result of VOTE (R557). -/
def voteResult (mode : Nat) (m acting : Word) : Nat :=
  if mode == 0 then m.toNat
  else if mode == 1 then (if m == 0 then 0 else 1)
  else if mode == 2 then (if acting &&& ~~~m == 0 then 1 else 0)
  else if mode == 3 then (bitsSet m).length
  else if m == 0 then 32 else lowestLane m

/-- VOTE (R557). -/
def execVote (d : BitVec 6) (p : BitVec 3) (b : BitVec 8) (s : State) : Host.Outcome State Fault Refusal :=
  run (.vote d p b) { kinds := 0x10 } s fun c =>
    scalarDone s c false d.toNat (BitVec.ofNat 64 (voteResult b.toNat (c.acting &&& c.w.preg p.toNat) c.acting))

/-- One level of the reduction tree (R98). -/
def treeLevel (op : Word → Word → Word) : List Word → List Word
  | x :: y :: t => op x y :: treeLevel op t
  | t => t

/-- The fixed pairwise tree over 32 lanes (R98). -/
def reduceTree (op : Word → Word → Word) (x : List Word) : Word :=
  (treeLevel op (treeLevel op (treeLevel op (treeLevel op (treeLevel op x))))).headD 0

/-- A float operation on words in RNE, subnormals honoured (R522). -/
def redFloat (op : FVal → FVal → FVal) (x y : Word) : Word := BitVec.ofNat 32 (encodeF .f32 0 false (op (f32Val x) (f32Val y)))

/-- The operators of REDL (R521). -/
def redlOp (code : Nat) (x y : Word) : Word :=
  if code == 0 then redFloat (FVal.add 0) x y
  else if code == 1 then redFloat FVal.max x y
  else if code == 2 then redFloat FVal.min x y
  else if code == 3 then x + y
  else if code == 4 then (if x.toInt ≤ y.toInt then y else x)
  else if code == 5 then (if x.toInt ≤ y.toInt then x else y)
  else if code == 6 then (if x.toNat ≤ y.toNat then y else x)
  else if code == 7 then (if x.toNat ≤ y.toNat then x else y)
  else if code == 8 then x &&& y
  else if code == 9 then x ||| y
  else x ^^^ y

/-- The identities of REDL's operators (R98, R521). -/
def redlIdentity (code : Nat) : Word :=
  if code == 0 then 0x80000000 else if code == 1 then 0xFF800000 else if code == 2 then 0x7F800000
  else if code == 4 then 0x80000000 else if code == 5 then 0x7FFFFFFF
  else if code == 7 || code == 8 then 0xFFFFFFFF else 0

/-- The tags that REDL's operators accept (R521). -/
def redlTags (code : Nat) : List (BitVec 4) :=
  if code ≤ 2 then [1] else if code == 3 then [4, 5, 0] else if code ≤ 5 then [4, 0] else if code ≤ 7 then [5, 0] else anyTag

/-- REDL (R521, R522): bit 23 is WS. -/
def execRedl (w : BitVec 1) (d : BitVec 6) (a b : BitVec 8) (s : State) : Host.Outcome State Fault Refusal :=
  run (.redl w d a b) { kinds := 0x10, opnds := [opS 1 a], tags := fun c => need c (opS 1 a) (redlTags b.toNat) } s fun c =>
    let x := source s c (opS 1 a)
    let k := b.toNat
    let r := reduceTree (redlOp k) ((List.range 32).map fun L => if c.acting.getLsbD L then x.bits L else redlIdentity k)
    let signed := k == 4 || k == 5 || (k == 3 && tagOf c (opS 1 a) == some 4)
    scalarDone s c (w == 1) d.toNat (if signed then r.signExtend 64 else r.setWidth 64)

/-- The A operand of SRDL: a register tagged W64 is the first of a pair (R538). -/
def srdlA (a : BitVec 8) (s : State) : Opnd :=
  match issueCtx s with
  | some c => if selIsVec a && tagOf c (opS 1 a) == some 0xF then (opS 1 a).group 2 else opS 1 a
  | none => opS 1 a

/-- SRDL (R538). -/
def execSrdl (d : BitVec 6) (a b : BitVec 8) (s : State) : Host.Outcome State Fault Refusal :=
  let oa := srdlA a s
  run (.srdl d a b) { kinds := kindsS, opnds := [oa, opS 2 b], fields := fun _ => !(oa.regs == 2 && a == 127) } s fun c =>
    let L := bits (source s c (opS 2 b)).wide.toNat 0 5
    let x : Dword := match source s c oa with
      | .tagged t v =>
        if t == 0xF then
          if selIsVec a then (lane v L).setWidth 64 ||| ((lane (regLanes s c (oa.reg c + 1)) L).setWidth 64 <<< 32) else lanePair v
        else if t == 4 then (lane v L).signExtend 64
        else (lane v L).setWidth 64
      | _ => 0
    scalarDone s c false d.toNat x

end Sys2Proof.Machine
end

