-- ==== Sys2Proof/Machine/Dispatch.lean ====
section
/-! DEFINITION. The meaning of each instruction and event, one arm for each constructor of `Instr`. -/

namespace Sys2Proof.Machine

/-- What an instruction or event does to a state. -/
def exec (i : Instr) (s : State) : Host.Outcome State Fault Refusal :=
  match i with
  | .nop => Sys2Proof.Machine.execNop s
  | .br o => Sys2Proof.Machine.execBr o s
  | .brc p m o => Sys2Proof.Machine.execBrc p m o s
  | .brd p o => Sys2Proof.Machine.execBrd p o s
  | .brdNot p o => Sys2Proof.Machine.execBrdNot p o s
  | .brx a => Sys2Proof.Machine.execBrx a s
  | .call o => Sys2Proof.Machine.execCall o s
  | .callIndirect a => Sys2Proof.Machine.execCallIndirect a s
  | .rejoin o => Sys2Proof.Machine.execRejoin o s
  | .regang => Sys2Proof.Machine.execRegang s
  | .ret => Sys2Proof.Machine.execRet s
  | .exit => Sys2Proof.Machine.execExit s
  | .trap n => Sys2Proof.Machine.execTrap n s
  | .bkpt => Sys2Proof.Machine.execBkpt s
  | .yield => Sys2Proof.Machine.execYield s
  | .tramp n => Sys2Proof.Machine.execTramp n s
  | .tool0 n => Sys2Proof.Machine.execTool0 n s
  | .tool1 n => Sys2Proof.Machine.execTool1 n s
  | .tool2 n => Sys2Proof.Machine.execTool2 n s
  | .sadd d a b => Sys2Proof.Machine.execSadd d a b s
  | .ssub d a b => Sys2Proof.Machine.execSsub d a b s
  | .smul d a b => Sys2Proof.Machine.execSmul d a b s
  | .sand d a b => Sys2Proof.Machine.execSand d a b s
  | .sor d a b => Sys2Proof.Machine.execSor d a b s
  | .sxor d a b => Sys2Proof.Machine.execSxor d a b s
  | .sshl d a b => Sys2Proof.Machine.execSshl d a b s
  | .sshr d a b => Sys2Proof.Machine.execSshr d a b s
  | .ssar d a b => Sys2Proof.Machine.execSsar d a b s
  | .smov d a => Sys2Proof.Machine.execSmov d a s
  | .smovi d im => Sys2Proof.Machine.execSmovi d im s
  | .scmp c p m a b => Sys2Proof.Machine.execScmp c p m a b s
  | .sldN8 d a st c o => Sys2Proof.Machine.execSldN8 d a st c o s
  | .sldI8 d a st c o => Sys2Proof.Machine.execSldI8 d a st c o s
  | .sldN16 d a st c o => Sys2Proof.Machine.execSldN16 d a st c o s
  | .sldI16 d a st c o => Sys2Proof.Machine.execSldI16 d a st c o s
  | .sldN32 d a st c o => Sys2Proof.Machine.execSldN32 d a st c o s
  | .sldI32 d a st c o => Sys2Proof.Machine.execSldI32 d a st c o s
  | .sldN64 d a st c o => Sys2Proof.Machine.execSldN64 d a st c o s
  | .sstN8 d a st c o => Sys2Proof.Machine.execSstN8 d a st c o s
  | .sstN16 d a st c o => Sys2Proof.Machine.execSstN16 d a st c o s
  | .sstN32 d a st c o => Sys2Proof.Machine.execSstN32 d a st c o s
  | .sstN64 d a st c o => Sys2Proof.Machine.execSstN64 d a st c o s
  | .and w d a b => Sys2Proof.Machine.execAnd w d a b s
  | .or w d a b => Sys2Proof.Machine.execOr w d a b s
  | .xor w d a b => Sys2Proof.Machine.execXor w d a b s
  | .not w d a => Sys2Proof.Machine.execNot w d a s
  | .shl w d a b => Sys2Proof.Machine.execShl w d a b s
  | .shr w d a b => Sys2Proof.Machine.execShr w d a b s
  | .sar w d a b => Sys2Proof.Machine.execSar w d a b s
  | .bfeN32 w d a b => Sys2Proof.Machine.execBfeN32 w d a b s
  | .bfeI32 w d a b => Sys2Proof.Machine.execBfeI32 w d a b s
  | .bfi w d a b => Sys2Proof.Machine.execBfi w d a b s
  | .clz w d a => Sys2Proof.Machine.execClz w d a s
  | .popc w d a => Sys2Proof.Machine.execPopc w d a s
  | .iadd w d a b => Sys2Proof.Machine.execIadd w d a b s
  | .isub w d a b => Sys2Proof.Machine.execIsub w d a b s
  | .iaddsI32 w d a b => Sys2Proof.Machine.execIaddsI32 w d a b s
  | .iaddsN32 w d a b => Sys2Proof.Machine.execIaddsN32 w d a b s
  | .isubsI32 w d a b => Sys2Proof.Machine.execIsubsI32 w d a b s
  | .isubsN32 w d a b => Sys2Proof.Machine.execIsubsN32 w d a b s
  | .imul w d a b => Sys2Proof.Machine.execImul w d a b s
  | .imulhI32 w d a b => Sys2Proof.Machine.execImulhI32 w d a b s
  | .imulhN32 w d a b => Sys2Proof.Machine.execImulhN32 w d a b s
  | .imad w d a b => Sys2Proof.Machine.execImad w d a b s
  | .iminI32 w d a b => Sys2Proof.Machine.execIminI32 w d a b s
  | .iminN32 w d a b => Sys2Proof.Machine.execIminN32 w d a b s
  | .imaxI32 w d a b => Sys2Proof.Machine.execImaxI32 w d a b s
  | .imaxN32 w d a b => Sys2Proof.Machine.execImaxN32 w d a b s
  | .iabs w d a => Sys2Proof.Machine.execIabs w d a s
  | .icmpI32 c p m a b => Sys2Proof.Machine.execIcmpI32 c p m a b s
  | .icmpN32 c p m a b => Sys2Proof.Machine.execIcmpN32 c p m a b s
  | .lea w d a b => Sys2Proof.Machine.execLea w d a b s
  | .mov w d a r t => Sys2Proof.Machine.execMov w d a r t s
  | .movi w d im => Sys2Proof.Machine.execMovi w d im s
  | .sel w d a b => Sys2Proof.Machine.execSel w d a b s
  | .shfl w d a b => Sys2Proof.Machine.execShfl w d a b s
  | .vote d p b => Sys2Proof.Machine.execVote d p b s
  | .redl w d a b => Sys2Proof.Machine.execRedl w d a b s
  | .srdl d a b => Sys2Proof.Machine.execSrdl d a b s
  | .fadd w d a b => Sys2Proof.Machine.execFadd w d a b s
  | .fsub w d a b => Sys2Proof.Machine.execFsub w d a b s
  | .fmul w d a b => Sys2Proof.Machine.execFmul w d a b s
  | .ffma w d a b => Sys2Proof.Machine.execFfma w d a b s
  | .fmin w d a b => Sys2Proof.Machine.execFmin w d a b s
  | .fmax w d a b => Sys2Proof.Machine.execFmax w d a b s
  | .fabs w d a => Sys2Proof.Machine.execFabs w d a s
  | .fneg w d a => Sys2Proof.Machine.execFneg w d a s
  | .fclamp w d a b => Sys2Proof.Machine.execFclamp w d a b s
  | .fcmp c p m a b => Sys2Proof.Machine.execFcmp c p m a b s
  | .fexp2 w d a => Sys2Proof.Machine.execFexp2 w d a s
  | .flog2 w d a => Sys2Proof.Machine.execFlog2 w d a s
  | .frcp w d a => Sys2Proof.Machine.execFrcp w d a s
  | .frsq w d a => Sys2Proof.Machine.execFrsq w d a s
  | .fsqrt w d a => Sys2Proof.Machine.execFsqrt w d a s
  | .ftanh w d a => Sys2Proof.Machine.execFtanh w d a s
  | .hadd2F16 w d a b => Sys2Proof.Machine.execHadd2F16 w d a b s
  | .hadd2Bf16 w d a b => Sys2Proof.Machine.execHadd2Bf16 w d a b s
  | .hmul2F16 w d a b => Sys2Proof.Machine.execHmul2F16 w d a b s
  | .hmul2Bf16 w d a b => Sys2Proof.Machine.execHmul2Bf16 w d a b s
  | .hfma2F16 w d a b => Sys2Proof.Machine.execHfma2F16 w d a b s
  | .hfma2Bf16 w d a b => Sys2Proof.Machine.execHfma2Bf16 w d a b s
  | .cvt w d a r st => Sys2Proof.Machine.execCvt w d a r st s
  | .qcvt w d a r st => Sys2Proof.Machine.execQcvt w d a r st s
  | .qunp w d a r st => Sys2Proof.Machine.execQunp w d a r st s
  | .ldB32 d a m st c o => Sys2Proof.Machine.execLdB32 d a m st c o s
  | .ldF32 d a m st c o => Sys2Proof.Machine.execLdF32 d a m st c o s
  | .ldI32 d a m st c o => Sys2Proof.Machine.execLdI32 d a m st c o s
  | .ldN32 d a m st c o => Sys2Proof.Machine.execLdN32 d a m st c o s
  | .ldF16 d a m st c o => Sys2Proof.Machine.execLdF16 d a m st c o s
  | .ldBf16 d a m st c o => Sys2Proof.Machine.execLdBf16 d a m st c o s
  | .ldE4m3 d a m st c o => Sys2Proof.Machine.execLdE4m3 d a m st c o s
  | .ldI64 d a m st c o => Sys2Proof.Machine.execLdI64 d a m st c o s
  | .loadReturn load lanes poison => Sys2Proof.Machine.execLoadReturn load lanes poison s
  | .stB32 d a m st c o => Sys2Proof.Machine.execStB32 d a m st c o s
  | .stI64 d a m st c o => Sys2Proof.Machine.execStI64 d a m st c o s
  | .fence u c k => Sys2Proof.Machine.execFence u c k s
  | .wldN32 d a m st o => Sys2Proof.Machine.execWldN32 d a m st o s
  | .wldN64 d a m st o => Sys2Proof.Machine.execWldN64 d a m st o s
  | .pref a m st c => Sys2Proof.Machine.execPref a m st c s
  | .atomAdd d a m st c o => Sys2Proof.Machine.execAtomAdd d a m st c o s
  | .atomSmin d a m st c o => Sys2Proof.Machine.execAtomSmin d a m st c o s
  | .atomSmax d a m st c o => Sys2Proof.Machine.execAtomSmax d a m st c o s
  | .atomUmin d a m st c o => Sys2Proof.Machine.execAtomUmin d a m st c o s
  | .atomUmax d a m st c o => Sys2Proof.Machine.execAtomUmax d a m st c o s
  | .atomAnd d a m st c o => Sys2Proof.Machine.execAtomAnd d a m st c o s
  | .atomOr d a m st c o => Sys2Proof.Machine.execAtomOr d a m st c o s
  | .atomXor d a m st c o => Sys2Proof.Machine.execAtomXor d a m st c o s
  | .atomExch d a m st c o => Sys2Proof.Machine.execAtomExch d a m st c o s
  | .atomCas d a m st c o => Sys2Proof.Machine.execAtomCas d a m st c o s
  | .redAdd d a m st c o => Sys2Proof.Machine.execRedAdd d a m st c o s
  | .redSmin d a m st c o => Sys2Proof.Machine.execRedSmin d a m st c o s
  | .redSmax d a m st c o => Sys2Proof.Machine.execRedSmax d a m st c o s
  | .redUmin d a m st c o => Sys2Proof.Machine.execRedUmin d a m st c o s
  | .redUmax d a m st c o => Sys2Proof.Machine.execRedUmax d a m st c o s
  | .redAnd d a m st c o => Sys2Proof.Machine.execRedAnd d a m st c o s
  | .redOr d a m st c o => Sys2Proof.Machine.execRedOr d a m st c o s
  | .redXor d a m st c o => Sys2Proof.Machine.execRedXor d a m st c o s
  | .mma t f g a b => Sys2Proof.Machine.execMma t f g a b s
  | .mmas t f g a b => Sys2Proof.Machine.execMmas t f g a b s
  | .mmag t g a b => Sys2Proof.Machine.execMmag t g a b s
  | .mmaG t f g a b => Sys2Proof.Machine.execMmaG t f g a b s
  | .mmasG t f g a b => Sys2Proof.Machine.execMmasG t f g a b s
  | .mmagG t g a b => Sys2Proof.Machine.execMmagG t g a b s
  | .tld t f st a b => Sys2Proof.Machine.execTld t f st a b s
  | .tst t f st a b => Sys2Proof.Machine.execTst t f st a b s
  | .tzero t f => Sys2Proof.Machine.execTzero t f s
  | .opfence => Sys2Proof.Machine.execOpfence s
  | .mwait n => Sys2Proof.Machine.execMwait n s
  | .cpy a c st d => Sys2Proof.Machine.execCpy a c st d s
  | .cpym a c st d => Sys2Proof.Machine.execCpym a c st d s
  | .coll a st g => Sys2Proof.Machine.execColl a st g s
  | .msfence k => Sys2Proof.Machine.execMsfence k s
  | .mswait m k => Sys2Proof.Machine.execMswait m k s
  | .rway a c k => Sys2Proof.Machine.execRway a c k s
  | .vopen a d => Sys2Proof.Machine.execVopen a d s
  | .vsend a h st => Sys2Proof.Machine.execVsend a h st s
  | .jpost a p d => Sys2Proof.Machine.execJpost a p d s
  | .vdrop h d => Sys2Proof.Machine.execVdrop h d s
  | .gjoin g => Sys2Proof.Machine.execGjoin g s
  | .gleave g => Sys2Proof.Machine.execGleave g s
  | .garrive g v b n st d => Sys2Proof.Machine.execGarrive g v b n st d s
  | .gridarr n e d => Sys2Proof.Machine.execGridarr n e d s
  | .racq d => Sys2Proof.Machine.execRacq d s
  | .rrel => Sys2Proof.Machine.execRrel s
  | .qpush d q v => Sys2Proof.Machine.execQpush d q v s
  | .qpop d q v => Sys2Proof.Machine.execQpop d q v s
  | .tbegin o => Sys2Proof.Machine.execTbegin o s
  | .tcommit => Sys2Proof.Machine.execTcommit s
  | .tabort c => Sys2Proof.Machine.execTabort c s
  | .tretry => Sys2Proof.Machine.execTretry s
  | .telse o => Sys2Proof.Machine.execTelse o s
  | .tstat d => Sys2Proof.Machine.execTstat d s
  | .sread r d => Sys2Proof.Machine.execSread r d s
  | .swrite r a => Sys2Proof.Machine.execSwrite r a s
  | .cflush a m st c => Sys2Proof.Machine.execCflush a m st c s
  | .pathrd st im d => Sys2Proof.Machine.execPathrd st im d s
  | .pathwr st im a => Sys2Proof.Machine.execPathwr st im a s
  | .eret => Sys2Proof.Machine.execEret s
  | .ext k p => Sys2Proof.Machine.execExt k p s
  | .asyncTrapEntry wave => Sys2Proof.Machine.execAsyncTrapEntry wave s
  | .siblingHalt wave skid => Sys2Proof.Machine.execSiblingHalt wave skid s
  | .asyncReport => Sys2Proof.Machine.execAsyncReport s
  | .convoyRetire => Sys2Proof.Machine.execConvoyRetire s
  | .matrixStart core => Sys2Proof.Machine.execMatrixStart core s
  | .matrixComplete core => Sys2Proof.Machine.execMatrixComplete core s
  | .tldComplete wave tile data => Sys2Proof.Machine.execTldComplete wave tile data s
  | .copyCommandStart core data => Sys2Proof.Machine.execCopyCommandStart core data s
  | .copyCompletion core code => Sys2Proof.Machine.execCopyCompletion core code s
  | .wake wave => Sys2Proof.Machine.execWake wave s
  | .timedWake => Sys2Proof.Machine.execTimedWake s
  | .scratchAccessArrival access => Sys2Proof.Machine.execScratchAccessArrival access s
  | .remoteStoreAck => Sys2Proof.Machine.execRemoteStoreAck s
  | .secondLevelTlbMiss stack context va kind waiter => Sys2Proof.Machine.execSecondLevelTlbMiss stack context va kind waiter s
  | .remoteLoadBlocking => Sys2Proof.Machine.execRemoteLoadBlocking s
  | .rds line req => Sys2Proof.Machine.execRds line req s
  | .rdx line req => Sys2Proof.Machine.execRdx line req s
  | .upg line req => Sys2Proof.Machine.execUpg line req s
  | .fwds line stack => Sys2Proof.Machine.execFwds line stack s
  | .fwdx line stack => Sys2Proof.Machine.execFwdx line stack s
  | .inv line stack => Sys2Proof.Machine.execInv line stack s
  | .binv line stack => Sys2Proof.Machine.execBinv line stack s
  | .data line req lease => Sys2Proof.Machine.execData line req lease s
  | .wb line stack => Sys2Proof.Machine.execWb line stack s
  | .ack line stack => Sys2Proof.Machine.execAck line stack s
  | .cmp line req => Sys2Proof.Machine.execCmp line req s
  | .leaseRenewal incoming => Sys2Proof.Machine.execLeaseRenewal s incoming
  | .leaseHolderExpiry => Sys2Proof.Machine.execLeaseHolderExpiry s
  | .leaseHomeExpiry => Sys2Proof.Machine.execLeaseHomeExpiry s
  | .leaseRecall stack line => Sys2Proof.Machine.execRecall stack line s
  | .leaseRelease line package dirty poison => Sys2Proof.Machine.execLeaseRelease line package dirty s poison
  | .regionWriteback region source milestone dirty last => Sys2Proof.Machine.execRegionWriteback region source milestone dirty last s
  | .flitRoute flit inPort free others => Sys2Proof.Machine.execFlitRoute flit inPort free s others
  | .packetArrival packet => Sys2Proof.Machine.execPacketArrival packet s
  | .packetAck tag => Sys2Proof.Machine.execPacketAck tag s
  | .packetNack tag bufferFull => Sys2Proof.Machine.execPacketNack tag bufferFull s
  | .resendTimeout tag => Sys2Proof.Machine.execResendTimeout tag s
  | .packetCommit src tag => Sys2Proof.Machine.execPacketCommit src tag s
  | .tokenArrival last epoch => Sys2Proof.Machine.execTokenArrival last epoch s
  | .recordReceive record => Sys2Proof.Machine.execRecordReceive record s
  | .recordGapFetch fetch => Sys2Proof.Machine.execRecordGapFetch fetch s
  | .tokenwaitExpiry => Sys2Proof.Machine.execTokenwaitExpiry s
  | .tokenStop => Sys2Proof.Machine.execTokenStop s
  | .tokenRecovery seen applied => Sys2Proof.Machine.execTokenRecovery seen applied s
  | .masterTimeout => Sys2Proof.Machine.execMasterTimeout s
  | .lostLimitExpiry package passing => Sys2Proof.Machine.execLostLimitExpiry package s passing
  | .recordWrite => Sys2Proof.Machine.execRecordWrite s
  | .recordAdd => Sys2Proof.Machine.execRecordAdd s
  | .recordCas => Sys2Proof.Machine.execRecordCas s
  | .recordMax => Sys2Proof.Machine.execRecordMax s
  | .recordBitset => Sys2Proof.Machine.execRecordBitset s
  | .recordLaunch descriptor => Sys2Proof.Machine.execRecordLaunch descriptor s
  | .recordPte => Sys2Proof.Machine.execRecordPte s
  | .recordRegion => Sys2Proof.Machine.execRecordRegion s
  | .recordTrigger => Sys2Proof.Machine.execRecordTrigger s
  | .recordSnap => Sys2Proof.Machine.execRecordSnap s
  | .ringLost => Sys2Proof.Machine.execRingLost s
  | .ringJoin => Sys2Proof.Machine.execRingJoin s
  | .ringDone => Sys2Proof.Machine.execRingDone s
  | .combineChunk session index port elems => Sys2Proof.Machine.execCombineChunk session index port elems s
  | .sessionInputTimeout session port index => Sys2Proof.Machine.execSessionInputTimeout session port index s
  | .memberOverdue collective package index => Sys2Proof.Machine.execMemberOverdue collective package index s
  | .collectiveCompletion collective result => Sys2Proof.Machine.execCollectiveCompletion collective result s
  | .vatArrival row => Sys2Proof.Machine.execVatArrival row s
  | .vatRowComplete src row => Sys2Proof.Machine.execVatRowComplete src row s
  | .vatDeadline slot => Sys2Proof.Machine.execVatDeadline slot s
  | .vatReleaseDone => Sys2Proof.Machine.execVatReleaseDone s
  | .cardConditionPoll words => Sys2Proof.Machine.execCardConditionPoll words s
  | .convoyPlacement => Sys2Proof.Machine.execConvoyPlacement s
  | .quadModeChangeDone => Sys2Proof.Machine.execQuadModeChangeDone s
  | .placementReservation => Sys2Proof.Machine.execPlacementReservation s
  | .preemptwaitExpiry => Sys2Proof.Machine.execPreemptwaitExpiry s
  | .evictionSave => Sys2Proof.Machine.execEvictionSave s
  | .convoyRestore => Sys2Proof.Machine.execConvoyRestore s
  | .watchdogExpiry => Sys2Proof.Machine.execWatchdogExpiry s
  | .cardCompletion => Sys2Proof.Machine.execCardCompletion s
  | .selfTestInjection core mismatch => Sys2Proof.Machine.execSelfTestInjection core mismatch s
  | .matrixHang core => Sys2Proof.Machine.execMatrixHang core s
  | .slabResetDone core found => Sys2Proof.Machine.execSlabResetDone core found s
  | .eccError unit stack inst loc uncorrectable => Sys2Proof.Machine.execEccError unit stack inst loc uncorrectable s
  | .pcSample core sched => Sys2Proof.Machine.execPcSample core sched s
  | .checkpointGranuleWrite => Sys2Proof.Machine.execCheckpointGranuleWrite s
  | .waysideImageLoad => Sys2Proof.Machine.execWaysideImageLoad s
  | .linkLoss port => Sys2Proof.Machine.execLinkLoss port s
  | .packageReset boot => Sys2Proof.Machine.execPackageReset boot s
  | .packagePowerLoss => Sys2Proof.Machine.execPackagePowerLoss s
  | .junctionTemperature celsius => Sys2Proof.Machine.execJunctionTemperature celsius s
  | .powerMeasurement watts => Sys2Proof.Machine.execPowerMeasurement watts s
  | .dvfsPointSelect point => Sys2Proof.Machine.execDvfsPointSelect point s
  | .debugResume wave path => Sys2Proof.Machine.execDebugResume wave path s
  | .debugStep wave path => Sys2Proof.Machine.execDebugStep wave path s
  | .debugEdit wave change => Sys2Proof.Machine.execDebugEdit wave change s
  | .rightsRevoke context => Sys2Proof.Machine.execRightsRevoke context s
  | .triggerWrite tag => Sys2Proof.Machine.execTriggerWrite tag s
  | .injectCorrected unit stack inst => Sys2Proof.Machine.execInjectCorrected unit stack inst s
  | .injectUncorrectable unit stack inst => Sys2Proof.Machine.execInjectUncorrectable unit stack inst s
  | .injectSelfTest stack inst => Sys2Proof.Machine.execInjectSelfTest stack inst s
  | .doorbellWrite value => Sys2Proof.Machine.execDoorbellWrite value s
  | .commandAccept => Sys2Proof.Machine.execCommandAccept s
  | .launch => Sys2Proof.Machine.execLaunch s
  | .inval => Sys2Proof.Machine.execInval s
  | .replay => Sys2Proof.Machine.execReplay s
  | .evict => Sys2Proof.Machine.execEvict s
  | .ringpost => Sys2Proof.Machine.execRingpost s
  | .fwload => Sys2Proof.Machine.execFwload s
  | .attest => Sys2Proof.Machine.execAttest s
  | .restore => Sys2Proof.Machine.execRestore s
  | .resetcore => Sys2Proof.Machine.execResetcore s
  | .gapClear => Sys2Proof.Machine.execGapClear s
  | .dqheadWrite value => Sys2Proof.Machine.execDqheadWrite value s
  | .dqreplayWrite value => Sys2Proof.Machine.execDqreplayWrite value s
  | .fqrdWrite context value => Sys2Proof.Machine.execFqrdWrite context value s
  | .contextDescriptorWrite context bytes => Sys2Proof.Machine.execContextDescriptorWrite context bytes s
  | .ringBlockBaseWrite context field value => Sys2Proof.Machine.execRingBlockBaseWrite context field value s
  | .regionStatusClear region bits => Sys2Proof.Machine.execRegionStatusClear region bits s
  | .ringctlWrite value package => Sys2Proof.Machine.execRingctlWrite value s package
  | .boundTableWrite index value => Sys2Proof.Machine.execBoundTableWrite index value s
  | .msiXMessage vector => Sys2Proof.Machine.execMsiXMessage vector s
  | .registerWrite offset size value => Sys2Proof.Machine.execRegisterWrite offset size value s
  | .illegalOp w => Sys2Proof.Machine.execIllegalOp w s
  | .illegalField w => Sys2Proof.Machine.execIllegalField w s
  | .outOfStepRecovery milestone image => Sys2Proof.Machine.execOutOfStepRecovery milestone image s
  | .contextTeardown context => Sys2Proof.Machine.execContextTeardown context s
  | .dvfsPauseEnd => Sys2Proof.Machine.execDvfsPauseEnd s
  | .hostLinkError wave pc addr lanes => Sys2Proof.Machine.execHostLinkError wave pc addr lanes s

end Sys2Proof.Machine
end

