-- ==== Sys2Proof/Machine/Sched.lean ====
section
/-! DEFINITION. The issue schedulers of a front end (R72 to R75), latch chains and the loss of latches (R68, R74), instruction fetch (R125,
R126, R404), and the issue of one instruction. -/

namespace Sys2Proof.Machine

/-! ### Ready paths (R73) -/

/-- An addition to PENDING in another package that the wave waits for has not been performed (R214). -/
def addingOut (s : State) (w : Wave) : Bool :=
  w.adding.any fun tag => s.fabric.sent.any fun p => p.packet.tag == tag && decide (p.stage < 2)

/-- The wave can issue: its convoy stands on its cores, and it neither sleeps nor is parked nor waits for an addition to PENDING. -/
def waveReady (s : State) (key : Nat) (w : Wave) : Bool :=
  !w.ended && !w.asleep && w.park.isNone && !addingOut s w &&
  match tget s.convoys (keyConvoy key) with
  | some v => v.residence == .placed
  | none => false

/-- A path may be ready (R73). One that waits is tried again once something has changed. -/
def pathReady (s : State) (p : Path) : Bool :=
  p.mask != 0 && match p.hold with
  | .none => true
  | .wait _ e _ => e != s.epoch
  | _ => false

/-- The ready paths of a scheduler's waves (R72): how long they have been ready, the wave, the path. -/
def readyPaths (s : State) (core sched : Nat) : List (Nat × Nat × Nat) :=
  s.waves.flatMap fun e =>
    if e.2.core == core && e.2.slot % 2 == sched && waveReady s e.1 e.2 then
      (e.2.div.valid.filter fun p => pathReady s (e.2.div.path p)).map fun p => ((e.2.div.path p).readyAt, e.1, p)
    else []

/-- The path that has been ready longest; ties go to the older wave, then to the lower index (R73; DEDUCED, log 21). -/
def longestReady (l : List (Nat × Nat × Nat)) : Option (Nat × Nat) :=
  (l.foldl (fun (m : Option (Nat × Nat × Nat)) x => match m with
    | none => some x
    | some y => if x.1 < y.1 then some x else some y) none).map (·.2)

/-! ### Fetch -/

/-- What the fetch of a word finds: the word, a replayable fault, a home that holds it, a precise cause, or an uncorrectable error on the walk. -/
inductive Fetched where
  | word (s : State) (w : Word)
  | absent
  | held (pa kind : Nat)
  | cause (code : Nat)
  deriving DecidableEq, Repr

/-- Fetches the word at an address (R125, R404; DEDUCED, log 13). A code address has no other space. -/
def fetch (s : State) (c : Ctx) (pc : Dword) : Fetched :=
  match decodeEa (keyCrew c.key) pc with
  | .virt va => match translate s c.w.core c.conv.context c.conv.desc.root .fetch va with
    | .ok s' pa _ => if lineHeld s' pa 0 then .held pa 0 else .word s' (BitVec.ofNat 32 (peekNat s' pa 4))
    | .replay => .absent
    | .held pa kind => .held pa kind
    | .cause code => .cause code
  | _ => .cause 0x07

/-- The instruction that the path executes next, EXT words passed over (R74), where it can be fetched. -/
def upcoming (s : State) (c : Ctx) : Nat → Dword → Option Instr
  | 0, _ => none
  | n + 1, pc => match fetch s c pc with
    | .word _ w => match decode w with
      | .ext _ _ => upcoming s c n (pc + 4)
      | i => some i
    | _ => none

/-! ### Latch chains -/

/-- The instruction counts as ALU (R66). -/
def isAlu (i : Instr) : Bool :=
  match encode i with
  | some w => let op := w.toNat / 2 ^ 24; (0x20 ≤ op && op ≤ 0x2B) || (0x40 ≤ op && op ≤ 0x9F)
  | none => false

/-- The chain after an instruction has issued (R74): its count, which is 0 where the next instruction opens a new selection. -/
def chainAfter (s : State) (i : Instr) (count : Nat) : Nat :=
  match issueCtx s with
  | none => 0
  | some c => match i with
    | .ext _ _ => count
    | i => if isAlu i && count + 1 < 8 && waveReady s c.key c.w then
        (match upcoming s c 4 c.path.pc with
         | some j => if isAlu j && readsLatch j then count + 1 else 0
         | none => 0)
      else 0

/-- A selection that goes to another path loses that path's latches (R68, R74; DEDUCED, log 21), but for a path that a trap's return, a restore or a
debug resume has put back into its chain. -/
def selectPath (s : State) (sc : Sched) (key p : Nat) : State :=
  s.modWave key fun w =>
    let q := w.div.path p
    { w with div := w.div.setPath p (if sc.last != some (key, p) && !q.kept then q.dropLatches else q) }

/-! ### Waiting paths (R73) -/

/-- A path of a wave, free where there is none. -/
def State.pathOf (s : State) (key p : Nat) : Path := ((tget s.waves key).map fun w => w.div.path p).getD Path.free

/-- Puts a path back into its wave. -/
def State.putPath (s : State) (key p : Nat) (q : Path) : State := s.modWave key fun w => { w with div := w.div.setPath p q }

/-- The path has just been found to wait: its hold names the present epoch. -/
def Path.waitsAt (p : Path) (epoch : Nat) : Bool := match p.hold with | .wait _ e _ => e == epoch | _ => false

/-- A path whose next instruction would wait for an operand or a resource, as it waits; none where it can issue (R73). -/
def waitOf (s : State) (key p : Nat) : Option Path :=
  let s := { s with cur := { wave := key, path := p } }
  match issueCtx s with
  | none => none
  | some c => if (breakpointHit s c).isSome then none else match fetch s c c.path.pc with
    | .word t w => match exec (decode w) t with
      | .next u => if (u.pathOf key p).waitsAt s.epoch then some (u.pathOf key p) else none
      | _ => none
    | .held pa kind => if (unasked s (lineOf pa) kind (.stack (homeStack pa))).isEmpty then some ((stall s c 9 0).pathOf key p) else none
    | _ => none

/-- Finds out which of the paths that may be ready wait, and notes it: they are not ready (R73). -/
def noteWaits (s : State) (core k : Nat) : State :=
  (readyPaths s core k).foldl (fun s x => match waitOf s x.2.1 x.2.2 with
    | some q => s.putPath x.2.1 x.2.2 q
    | none => s) s

/-! ### One issue -/

/-- Sets the state of a scheduler. -/
def setSched (s : State) (core k : Nat) (x : Sched) : State :=
  let c := s.core core
  s.setCore core { c with scheds := c.scheds.setIfInBounds k x }

/-- The scheduler's state after it has selected a path (R74): the path is the last one selected, but where the wave has entered or left its handler
(R68); it has issued in this cycle, unless it has trapped or parked (R360). -/
def selected (sc : Sched) (c : Ctx) (key p count : Nat) (s : State) : Sched :=
  match tget s.waves key with
  | none => { sc with last := none, chain := 0 }
  | some w =>
    let turned := w.inHandler != c.w.inHandler
    { sc with
      last := if turned then none else some (key, p), chain := if turned then 0 else count,
      issuedAt := if (turned && w.inHandler) || (w.park.isSome && c.w.park.isNone) then sc.issuedAt else s.clock + 1 }

/-- Issues the next instruction of a path (R74): the breakpoints, the fetch, the check of the core's store (R343), the instruction. A path that turns out to wait has not been
selected. -/
def issueOne (s : State) (core k : Nat) (sc : Sched) (key p : Nat) : Host.Outcome State Fault Refusal :=
  let s := { s with cur := { wave := key, path := p } }
  match issueCtx s with
  | none => .next s
  | some c =>
    let stand (t : State) (count : Nat) : State := setSched t core k (selected sc c key p count t)
    match breakpointHit s c with
    | some (b, action) =>
      if action == 0 then
        let s := s.modWave key fun w => let w := keepChain s key w; { w with div := w.div.setPath p { w.div.path p with hold := .debug } }
        .next (setSched (writeEvent s c.conv.context (pathRecord s key p 1 b 0 false)) core k { sc with chain := 0 })
      else .next (stand (trapIssue (selectPath s sc key p) c { Trap.mk' 0x0D (BitVec.ofNat 64 b) with nextPc := false }) 0)
    | none => match fetch s c c.path.pc with
      | .absent => .next (stand (parkWave (selectPath s sc key p) key p c.path.pc 0xFFFFFFFF .fetch [c.path.pc.toNat % 2 ^ 56]) 0)
      | .cause code =>
        if code == 0x0B then .next (stand (containWave s key c.path.pc c.path.pc 0) 0)
        else .next (stand (trapIssue (selectPath s sc key p) c (Trap.mk' code c.path.pc)) 0)
      | .held pa kind => .next (stall { askLine s pa kind with epoch := s.epoch + 1 } c 9 0)
      | .word t w =>
        let i := decode w
        let check := checkUnit t 0 (coreStack core) (core % 128) 0 c.conv.context
        if check.2 then .next (stand (containWave (selectPath check.1 sc key p) key c.path.pc 0 0) 0) else
        match exec i (selectPath check.1 sc key p) with
        | .next u =>
          if (u.pathOf key p).waitsAt s.epoch || (u.pathOf key p).waitsAt u.epoch then .next (u.putPath key p { u.pathOf key p with latches := c.path.latches })
          else .next (stand (noteStep u c) (chainAfter u i sc.chain))
        | x => x

/-- The front ends issue (R384, R387, R389): the package is ready, is not paused by a change of its operating point, and has not stopped. -/
def State.issues (s : State) : Bool := s.bootState == 1 && s.power.paused.isNone && !s.power.stopped

/-- The path whose latch chain the scheduler is in, where it still can go on: its wave stands and its path is not parked or halted (R74). -/
def chainHolder (s : State) (core k : Nat) (sc : Sched) : Option (Nat × Nat) :=
  match sc.last with
  | some (key, p) => match tget s.waves key with
    | some w =>
      let free := match (w.div.path p).hold with | .none | .wait _ _ _ => true | _ => false
      if sc.chain != 0 && w.core == core && w.slot % 2 == k && waveReady s key w && (w.div.path p).mask != 0 && free then some (key, p) else none
    | none => none
  | none => none

/-- What an issue scheduler selects (R73, R74), the waiting paths noted: the path of its chain, for whose operands it waits rather than switch, or the path
that has been ready longest. -/
def choose (s : State) (core k : Nat) (sc : Sched) : Option (Nat × Nat) :=
  let ready := readyPaths s core k
  match chainHolder s core k sc with
  | some h => if ready.any fun x => x.2 == h then some h else none
  | none => longestReady ready

/-- A turn of an issue scheduler: an asynchronous trap that is due, or the path that it selects. -/
def issueTurn (s : State) (core k : Nat) : Host.Outcome State Fault Refusal :=
  if !s.issues then .next s
  else match s.waves.find? fun e => e.2.core == core && e.2.slot % 2 == k && (asyncDue e.2).isSome && isPlaced s e.1 with
  | some e => .next (takeDue s e.1)
  | none =>
    let s := noteWaits s core k
    let sc := vget (s.core core).scheds k Sched.initial
    match choose s core k sc with
    | some x => issueOne s core k (if (chainHolder s core k sc).isSome then sc else { sc with chain := 0 }) x.1 x.2
    | none => .next s

end Sys2Proof.Machine
end

