-- ==== Sys2Proof/Machine/Turns.lean ====
section
/-! DEFINITION. The turns of the machine's agents (DESIGN CHOICE, log 4): what the agenda names, and what moves where it names nothing. Also the making of a
state whose next step runs a given word (DESIGN CHOICE, log 7). -/

namespace Sys2Proof.Machine

/-! ### Events -/

/-- The constructor is an event: it has no encoding, or stands for a word that no instruction has. -/
def isEvent (i : Instr) : Bool := (encode i).isNone

/-- The messages of coherence from or to one stack that may be on their way for a line. -/
def stackEvents (line k : Nat) : List Instr := [.fwds line k, .fwdx line k, .inv line k, .binv line k, .wb line k, .ack line k]

/-- The messages of coherence that may be on their way for a line. -/
def lineEvents (e : Nat × HomeLine) : List Instr :=
  let last : List Instr := match e.2.openReq with | some r => [.data e.1 r.req none, .cmp e.1 r.req] | none => []
  (List.range 4).flatMap (stackEvents e.1) ++ last

/-- The events that may be due for a wave. -/
def waveEvents (e : Nat × Wave) : List Instr :=
  [.asyncTrapEntry e.1, .siblingHalt e.1 0, .wake e.1, .pcSample e.2.core 0, .pcSample e.2.core 1] ++
  (bitsSet e.2.tldTiles).map fun t => Instr.tldComplete e.1 t []

/-- The rows of a copy chain that go to the package's own Vat. -/
def ownRows (s : State) (c : Core) : List Instr :=
  c.chain.filterMap fun x => if x.peer == s.pkg && !x.moved then x.row.map Instr.vatArrival else none

/-- The events that may be due for a core. -/
def coreEvents (s : State) (e : Nat × Core) : List Instr :=
  [.matrixStart e.1, .matrixComplete e.1, .matrixHang e.1, .slabResetDone e.1 [], .copyCommandStart e.1 [], .copyCompletion e.1 0] ++ ownRows s e.2

/-- The chunks of this package that may be due for a session. -/
def sessionEvents (s : State) (k : Nat) (y : Session) : List Instr :=
  let base := ((tget s.collectives y.collective).map (·.completed)).getD 0
  (List.range 64).map fun i => Instr.combineChunk k (base + i) 24 []

/-- The events of the Ringway tap that may be due. -/
def ringEvents : List Instr :=
  [.recordWrite, .recordAdd, .recordCas, .recordMax, .recordBitset, .recordLaunch [], .recordPte, .recordRegion, .recordTrigger, .recordSnap,
   .ringLost, .ringJoin, .ringDone, .tokenwaitExpiry]

/-- The events of the dispatcher, the clock and the other units that may be due. -/
def unitEvents : List Instr :=
  [.timedWake, .remoteLoadBlocking, .leaseRenewal, .leaseHolderExpiry, .leaseHomeExpiry, .vatReleaseDone, .convoyRetire, .cardCompletion,
   .quadModeChangeDone, .evictionSave, .convoyRestore, .cardConditionPoll [], .convoyPlacement, .placementReservation, .preemptwaitExpiry,
   .watchdogExpiry, .checkpointGranuleWrite, .waysideImageLoad, .dvfsPauseEnd]

/-- The events of the host's commands and messages that may be due. -/
def hostEvents : List Instr :=
  [.commandAccept, .launch, .inval, .replay, .evict, .ringpost, .fwload, .attest, .restore, .resetcore, .msiXMessage 0, .msiXMessage 1,
   .msiXMessage 2, .msiXMessage 3, .msiXMessage 4, .msiXMessage 5]

/-- The events of the fabric that may be due. -/
def fabricEvents (s : State) : List Instr :=
  s.fabric.arrivals.map (fun a => Instr.packetCommit a.packet.src a.packet.tag) ++ s.fabric.sent.map fun p => Instr.resendTimeout p.packet.tag

/-- The events of the package's own engines that could be due. -/
def internalEvents (s : State) : List Instr :=
  [ringEvents, s.waves.flatMap waveEvents, [.asyncReport], s.scratchOps.map fun e => Instr.scratchAccessArrival e.1, [.remoteStoreAck],
   s.home.flatMap lineEvents, fabricEvents s, s.cores.flatMap (coreEvents s), s.sessions.flatMap fun e => sessionEvents s e.1 e.2,
   s.collectives.map fun e => Instr.collectiveCompletion e.1 [], s.vat.slots.map fun e => Instr.vatDeadline e.1, unitEvents, hostEvents].flatten

/-- What the first of the events that changes the state makes of it. -/
def firstChange (s : State) : List Instr → Option State
  | [] => none
  | i :: rest => match exec i s with
    | .next s' => if s' = s then firstChange s rest else some s'
    | _ => firstChange s rest

/-! ### Turns -/

/-- What boot finds in a package without faults, package 0. -/
def goodBoot : BootReport := { firmwareOk := true, imageVersion := 0, memoryOk := true, package := 0 }

/-- The issue schedulers that have something to issue. -/
def readyUnits (s : State) : List (Nat × Nat) :=
  dedup ((s.waves.filter fun e => (!(readyPaths s e.2.core (e.2.slot % 2)).isEmpty) || ((asyncDue e.2).isSome && isPlaced s e.1)).map fun e =>
    (e.2.core, e.2.slot % 2))

/-- The dispatcher advances RELEASE word 31 for each card that has left the store without being placed (R309). -/
def bumpLeft (s : State) : State :=
  s.disp.left.foldl (fun s g => bumpRelease s g 31) { s with disp := { s.disp with left := [] } }

/-- What follows a turn at once: RELEASE words of cards that have left (R309), joint instructions at which every member now stands start (R52), and completions that the host's ring has room for
are written (R381). -/
def settleTurn (s : State) : State := flushCompletions (startJoints (bumpLeft s))

/-- A turn, and what follows it. -/
def thenSettle : Host.Outcome State Fault Refusal → Host.Outcome State Fault Refusal
  | .next s => .next (settleTurn s)
  | x => x

/-- The turn where the agenda names none (DESIGN CHOICE, log 4): boot; else the first event of the package's engines that is due; else an issue scheduler, in
rotation, for a cycle; else a cycle passes. A turn of issue counts as one cycle (DESIGN CHOICE, log 6). -/
def idleTurn (s : State) : Host.Outcome State Fault Refusal :=
  if s.bootState == 0 then exec (.packageReset goodBoot) s
  else if s.bootState != 1 || s.power.stopped then .next { s with clock := s.clock + 1 }
  else match firstChange s (internalEvents s) with
  | some s' => .next (settleTurn s')
  | none =>
    let t := passTime s 1
    if !s.issues then .next t
    else match readyUnits s with
    | [] => .next t
    | u :: us => let x := (u :: us).getD (s.clock % (us.length + 1)) u; thenSettle (issueTurn t x.1 x.2)

/-- The host stores to its own memory, which the package reads as REGION 0x8 (R116, R157). -/
def hostStore (s : State) (a : Nat) (bs : List Byte) : State :=
  if paPkg a == s.pkg && paRegion a == 8 && decide (a + bs.length ≤ mkPa (paPkg a) 9 0) then { (noteWritePa (agentWrite s none a bs) a bs.length) with epoch := s.epoch + 1 } else s

/-- One turn. -/
def runTurn (s : State) : Turn → Host.Outcome State Fault Refusal
  | .issue core sched => thenSettle (issueTurn s core sched)
  | .event i => thenSettle (if isEvent i then exec i s else .next s)
  | .elapse n => .next (if s.bootState == 1 && !s.power.stopped then passTime s n else { s with clock := s.clock + n })
  | .evictLine stack line => .next (evictLine s stack line)
  | .hostStore a bs => .next (hostStore s a bs)

/-! ### A program of one word (DESIGN CHOICE, log 7) -/

/-- The context in which the word runs. -/
def fetchContext : Nat := 0

/-- The virtual address of the word, and its offset in far memory: the page table maps the lowest gibibyte to itself. -/
def fetchVa : Nat := 0x10000

/-- The handler of the context. -/
def fetchHandler : Nat := 0x20000

/-- The offsets in far memory of the tables of levels 5, 4 and 3. -/
def fetchTables : List Nat := [0x100000, 0x101000, 0x102000]

/-- A page-table entry: V, the address, and the low bits given (R121). -/
def fetchPte (leaf : Bool) (pa low : Nat) : Nat := 2 ^ 63 + (if leaf then 2 ^ 62 else 0) + pa + low

/-- The table's bytes and the word's. -/
def fetchBytes (pkg w : Nat) : List (Nat × List Byte) :=
  let t (i : Nat) : Nat := mkPa pkg 0 (fetchTables.getD i 0)
  [(mkPa pkg 0 fetchVa, bytesOf 4 w), (t 0, bytesOf 8 (fetchPte false (t 1) 0)), (t 1, bytesOf 8 (fetchPte false (t 2) 0)),
   (t 2, bytesOf 8 (fetchPte true (mkPa pkg 0 0) 0x63))]

/-- The card of the convoy that runs the word: one wave of 32 registers on one core in G1. -/
def fetchCard : Card :=
  { entry := BitVec.ofNat 64 fetchVa, param := 0, stampAddr := 0, count := 1, stampVal := 0, w0 := 0, w1 := 0, v0 := 0, v1 := 0, w0kind := 0,
    w1kind := 0, target := 0, prio := 0, bind := 1, gang := false, scratch := 1, tiles := 4, ext := 1, regs := 16, waves := 1, crews := 1 }

/-- A core with no wave, the lowest one. -/
def idleCore (s : State) : Nat := ((List.range 512).find? fun c => s.waves.all fun e => e.2.core != c).getD 0

/-- The state whose next step runs the word: the package ready, a context whose page table maps the word, a convoy of one wave whose path
stands at the word, and the turn of its issue scheduler. -/
def placeWord (s : State) (w : Nat) : State :=
  let core := idleCore s
  let x := s.context fetchContext
  let d : Descriptor := { x.desc with
    root := BitVec.ofNat 64 (mkPa s.pkg 0 (fetchTables.getD 0 0)), handler := BitVec.ofNat 64 fetchHandler }
  let s := s.setContext fetchContext { x with desc := d }
  let s := (fetchBytes s.pkg w).foldl (fun s b => pokeBytes s b.1 b.2) s
  let s := { s with bootState := 1, power := { s.power with paused := none, stopped := false } }
  let s := placeConvoy s fetchContext 0 0 fetchCard 0 (coreCluster core) [core] s.clock
  { s with agenda := .issue core 0 :: s.agenda }

end Sys2Proof.Machine
end

