-- ==== Sys2Proof/Machine/Step.lean ====
section
/-! DEFINITION. One step of the machine: the turn that the agenda names first, or the one that is due where it names none (DESIGN CHOICE, log 4). -/

namespace Sys2Proof.Machine

/-- One step. -/
def step (s : State) : Host.Outcome State Fault Refusal :=
  match s.agenda with
  | [] => idleTurn s
  | t :: rest => runTurn { s with agenda := rest } t

/-- A state whose next step fetches and runs the instruction whose bits are `w` (DESIGN CHOICE, log 7). -/
def State.withFetchWord (s : State) (_nbits w : Nat) : State := placeWord s w

end Sys2Proof.Machine
end

