-- ==== Sys2Proof/Safety.lean ====
section
/-! DEFINITION. The words in which the claims are stated: a safe run, the invariants of the state, when an instruction passes its checks, and
what it leaves unchanged. -/

namespace Sys2Proof.Machine

/-! ### Runs and invariants -/

/-- A run of `k` steps from a state stops nowhere. -/
def RunsFor (k : Nat) (s : State) : Prop := ∃ t, Host.Core.run core k s = .next t

/-- The memory and the waymark store are in their canonical form. -/
def MemInv (s : State) : Prop := Memory.wf s.mem = true ∧ Memory.wf s.waymark = true

/-- The tables of the state list their keys in order, each once: convoys, crews, waves, cores, quads and contexts; launches' parts and cards; outstanding
loads and accesses to peer scratch; cached lines, the directory, leases and regions; collectives and sessions; the Vat's slots; the tap's
records that wait. -/
def TablesInv (s : State) : Prop :=
  keysFrom 0 s.convoys = true ∧ keysFrom 0 s.crews = true ∧ keysFrom 0 s.waves = true ∧ keysFrom 0 s.cores = true ∧ keysFrom 0 s.quads = true ∧
  keysFrom 0 s.contexts = true ∧ keysFrom 0 s.disp.parts = true ∧ keysFrom 0 s.disp.cards = true ∧ keysFrom 0 s.loads = true ∧
  keysFrom 0 s.scratchOps = true ∧ keysFrom 0 s.copies = true ∧ keysFrom 0 s.home = true ∧ keysFrom 0 s.filters = true ∧
  keysFrom 0 s.leases = true ∧ keysFrom 0 s.regions = true ∧ keysFrom 0 s.switches = true ∧ keysFrom 0 s.bound = true ∧
  keysFrom 0 s.inject = true ∧ keysFrom 0 s.collectives = true ∧ keysFrom 0 s.sessions = true ∧ keysFrom 0 s.vat.slots = true ∧
  keysFrom 0 s.vat.queueNext = true ∧ keysFrom 0 s.ring.held = true ∧ keysFrom 0 s.fabric.ports = true

/-- The byte tables of the state list their offsets in order, each once: memory, the L1 copies, the stacks' copies, lines on their way, and the scratch,
the window controls and the tiles of every crew. -/
def BytesInv (s : State) : Prop :=
  keysFrom 0 s.mem = true ∧ keysFrom 0 s.l1 = true ∧ (∀ e ∈ s.l1, keysFrom 0 e.2 = true) ∧ (∀ e ∈ s.copies, keysFrom 0 e.2.bytes = true) ∧
  (∀ e ∈ s.crews, keysFrom 0 e.2.scratch = true ∧ keysFrom 0 e.2.windows = true ∧ keysFrom 0 e.2.tiles = true ∧
    ∀ x ∈ e.2.tiles, keysFrom 0 x.2.elems = true) ∧
  (∀ e ∈ s.home, (∀ x ∈ e.2.writeback, keysFrom 0 x.2.1 = true) ∧
    ∀ r, e.2.openReq = some r → ∀ b, r.data = some b → keysFrom 0 b = true)

/-- What a state answers as memory at an address of its package's home, one byte (R108). -/
def readByte (s : State) (a : Nat) : Byte := currentByte s a

/-- Every path of a wave stands at an instruction's address (R36, R46). -/
def Div.pcAligned (d : Div) : Prop := ∀ p < 8, (d.path p).pc.toNat % 4 = 0

/-! ### When an instruction has its effect -/

/-- The path that `c` describes issues `i`: its operands have arrived (R73), and no check that comes before the effect of an instruction stops
it (R403). `sp` says what is checked of this instruction. -/
structure Passes (s : State) (i : Instr) (sp : IssueSpec) (c : Ctx) : Prop where
  issues : issueCtx s = some c
  arrived : awaitsLoad s i sp c = false
  clear : precheck s i sp c = none

/-- No bound check applies: no EXT.BND is pending, or its entry checks nothing (R102, R103). -/
def Unbounded (s : State) (c : Ctx) : Prop := (c.ext.has 5 && boundEnabled (boundEntry s c)) = false

/-! ### What an instruction leaves unchanged -/

/-- Of the whole machine only the issuing wave differs: `w` is that wave afterwards. Memory, every other wave and every other unit stay. -/
def OnlyWave (s t : State) (c : Ctx) (w : Wave) : Prop :=
  tget t.waves c.key = some w ∧ (∀ k, k ≠ c.key → tget t.waves k = tget s.waves k) ∧
  t = { s with waves := t.waves, draws := t.draws, epoch := t.epoch }

/-- The issuing path goes on at `pc` with its mask, its strands' EXT state consumed (R70); the other paths and what the strands hold beside
stay. -/
def GoesOn (c : Ctx) (w : Wave) (pc : Dword) : Prop :=
  (w.div.path c.p).pc = pc ∧ (w.div.path c.p).mask = c.path.mask ∧ (∀ q, q ≠ c.p → w.div.path q = c.w.div.path q) ∧
  ∀ k, w.div.strand k =
    { c.w.div.strand k with ext := if c.path.mask.getLsbD k then ExtState.none else (c.w.div.strand k).ext }

/-- The latches of the issuing path stay. -/
def LatchesStay (c : Ctx) (w : Wave) : Prop := (w.div.path c.p).latches = c.path.latches

/-- A result has been pushed into the issuing path's latches (R66): it stands in the first, in the lanes of `mask` with the values of `v`, undefined in
the others, and the older results have moved on. -/
def Pushed (c : Ctx) (w : Wave) (tag : BitVec 4) (mask : Word) (v : Nat → Word) : Prop :=
  let l := (w.div.path c.p).latches
  l[0].valid = true ∧ l[0].tag = tag ∧ l[0].undef = ~~~mask ∧ (∀ L < 32, mask.getLsbD L = true → lane l[0].lanes L = v L) ∧
  l[1] = c.path.latches[0] ∧ l[2] = c.path.latches[1]

/-! ### What an ALU instruction leaves -/

/-- A scalar instruction has written `x` to register `d` and is done (R58, R531): its wave's other scalar registers and everything else stay, and
the latches receive the result (R395). -/
def ScalarResult (s t : State) (c : Ctx) (d : Nat) (x : Dword) : Prop :=
  ∃ w, OnlyWave s t c w ∧ GoesOn c w (c.path.pc + 4) ∧
    Pushed c w 0xF 0xFFFFFFFF (fun L => if L % 2 = 0 then x.setWidth 32 else (x >>> 32).setWidth 32) ∧
    (∀ n < 64, w.sreg n = if n = d ∧ n ≠ 0 then x else c.w.sreg n) ∧
    w = { c.w with div := w.div, retry := c.w.retryAfter c.p, heldSibling := w.heldSibling, sregs := w.sregs }

/-- A vector instruction has written results to the registers from `d` on in the lanes of `mask` and is done (R40, R64, R66): `outs` gives each
result's tag and lanes, and what was undefined in the lanes written is so no longer (R7). Where `ws` holds it has written none (R67). Everything else stays,
and the latches receive the first result. -/
def VectorResult (s t : State) (c : Ctx) (mask : Word) (ws : Bool) (d : Nat) (outs : List (BitVec 4 × (Nat → Word))) : Prop :=
  ∃ w, OnlyWave s t c w ∧ GoesOn c w (c.path.pc + 4) ∧
    (∀ o, outs.head? = some o → Pushed c w o.1 mask o.2) ∧
    (ws = true → w.vregs = c.w.vregs) ∧
    (ws = false → ∀ j, ∀ o, outs[j]? = some o → (w.vreg (d + j)).tag = o.1 ∧
      (w.vreg (d + j)).undef = (c.w.vreg (d + j)).undef &&& ~~~laneBytes mask ∧
      ∀ L < 32, lane (w.vreg (d + j)).lanes L = if mask.getLsbD L then o.2 L else lane (c.w.vreg (d + j)).lanes L) ∧
    (∀ n, n < d ∨ d + outs.length ≤ n → w.vreg n = c.w.vreg n) ∧
    w = { c.w with div := w.div, retry := c.w.retryAfter c.p, heldSibling := w.heldSibling, vregs := w.vregs, registerDirty := w.registerDirty }

/-- A compare has written predicate `p` by its MASK bit and is done (R459): `cond` holds the condition by lane, `tag` and `v` what the latches receive.
Everything else stays. -/
def CompareResult (s t : State) (c : Ctx) (p : Nat) (m : BitVec 1) (cond : Nat → Bool) (tag : BitVec 4) (mask : Word)
    (v : Nat → Word) : Prop :=
  ∃ w, OnlyWave s t c w ∧ GoesOn c w (c.path.pc + 4) ∧ Pushed c w tag mask v ∧
    (p ≠ 0 → ∀ L < 32, (w.preg p).getLsbD L =
      if c.acting.getLsbD L then cond L && (m == 0 || (c.w.preg p).getLsbD L) else (c.w.preg p).getLsbD L) ∧
    (∀ n, n ≠ p → w.preg n = c.w.preg n) ∧
    w = { c.w with div := w.div, retry := c.w.retryAfter c.p, heldSibling := w.heldSibling, pregs := w.pregs }

/-! ### What an instruction that is no ALU instruction leaves -/

/-- The instruction has changed its wave alone, by `f`, which leaves the divergence state, and is done: its path goes on at `pc`. -/
def WaveDone (s t : State) (c : Ctx) (pc : Dword) (f : Wave → Wave) : Prop :=
  ∃ w, OnlyWave s t c w ∧ GoesOn c w pc ∧ LatchesStay c w ∧
    w = { f c.w with div := w.div, retry := c.w.retryAfter c.p, heldSibling := w.heldSibling }

/-- The instruction has written `x` to scalar register `d` (s0 discards it, R58) and nothing else, and is done: its path goes on at `pc`. -/
def ScalarSet (s t : State) (c : Ctx) (pc : Dword) (d : Nat) (x : Dword) : Prop :=
  ∃ w, OnlyWave s t c w ∧ GoesOn c w pc ∧ LatchesStay c w ∧
    (∀ n < 64, w.sreg n = if n = d ∧ n ≠ 0 then x else c.w.sreg n) ∧
    w = { c.w with div := w.div, retry := c.w.retryAfter c.p, heldSibling := w.heldSibling, sregs := w.sregs }

/-- The instruction has left its wave's own state but for its paths and strands, and nothing beside its wave has changed. -/
def OnlyPaths (s t : State) (c : Ctx) (w : Wave) : Prop :=
  OnlyWave s t c w ∧ w = { c.w with div := w.div, retry := c.w.retryAfter c.p, heldSibling := w.heldSibling }

/-- A trap of the issuing path: cause, address, the lanes it concerns where its table names them, whether the next PC is saved (R326). -/
def trapOf (cause : Nat) (addr : Dword) (lanes : Option Word) (nextPc : Bool) : Trap :=
  { cause := cause, sub := 0, addr := addr, lanes := lanes, nextPc := nextPc }

/-- Every strand stands in one path at most, as in every state that a run reaches (R38). -/
def Div.disjoint (d : Div) : Prop := ∀ p < 8, ∀ q < 8, p ≠ q → (d.path p).mask &&& (d.path q).mask = 0

/-- The path that `c` describes issues, and no load of its wave is outstanding. -/
def Issues (s : State) (c : Ctx) : Prop := issueCtx s = some c ∧ ∀ e ∈ s.loads, e.2.wave ≠ c.key

/-! ### Accesses to memory -/

/-- The issuing path goes on after an access. Of its wave only registers, the notes of register and scratch writes, the count of stores to peer scratch
and the marks of a retained read set may differ. -/
def AccessDone (c : Ctx) (w : Wave) : Prop :=
  GoesOn c w (c.path.pc + 4) ∧ LatchesStay c w ∧
  w = { c.w with div := w.div, retry := c.w.retryAfter c.p, heldSibling := w.heldSibling, vregs := w.vregs, sregs := w.sregs,
                 registerDirty := w.registerDirty, apertureDirty := w.apertureDirty, fences := w.fences,
                 remoteStores := w.remoteStores, txn := { c.w.txn with reads := w.txn.reads } }

/-- The lanes listed have been loaded into register `d`, or the pair at `d`, which carries the tag (R493); the other lanes and registers stay. -/
def LanesLoaded (c : Ctx) (w : Wave) (d : Nat) (pair : Bool) (tag : BitVec 4) (vals : List (Nat × Nat)) : Prop :=
  (w.vreg d).tag = tag ∧ (pair = true → (w.vreg (d + 1)).tag = tag) ∧
  (∀ v ∈ vals, lane (w.vreg d).lanes v.1 = BitVec.ofNat 32 v.2 ∧
    (pair = true → lane (w.vreg (d + 1)).lanes v.1 = BitVec.ofNat 32 (v.2 / 2 ^ 32))) ∧
  (∀ L < 32, L ∉ vals.map (·.1) → lane (w.vreg d).lanes L = lane (c.w.vreg d).lanes L ∧
    (pair = true → lane (w.vreg (d + 1)).lanes L = lane (c.w.vreg (d + 1)).lanes L)) ∧
  (∀ n, n ≠ d → (pair = true → n ≠ d + 1) → w.vreg n = c.w.vreg n)

/-- A load outside a transaction reads all its lanes in its package: no other path of its wave holds its stream back, its addresses pass their checks, which
may set A bits and fill TLBs (`s'`), nothing that it must wait for is outstanding, no home holds a line that must be fetched (`s2`, with those
lines in place), and it reads no poisoned byte, also once the detectors have checked what it reads. -/
structure LoadsHere (s s' s2 : State) (c : Ctx) (n stream : Nat) (scalar : Bool) (lanes : List (Nat × Dword)) (accs : List Acc) : Prop where
  outside : c.w.txn.depth = 0
  free : streamHeld c stream = false
  resolved : resolve s c .read n scalar lanes = .ok s' accs
  ordered : loadWaits s c stream accs = false
  sound : ∀ a ∈ accs, readsPoison (checkReads s' c accs) (keyConvoy c.key) a.tgt = false
  near : ∀ a ∈ accs, a.tgt.foreign s = false
  placed : touchReads (checkReads s' c accs) c.w.core (bits (c.ext.payload 4).toNat 16 2 != 3) accs = some s2

/-- A store or atomic of a core to a target can be performed at once and at no other place: own scratch of a placed crew; or memory of this package which no
region switch holds, and which, where it is hardware-coherent, no lease holds and, if it is cached, the core's stack alone has in M. -/
def CanWrite (s : State) (c : Ctx) : Target → Prop
  | .scratch k _ => k = keyCrew c.key ∧ (tget s.crews (keyCrewKey c.key)).isSome = true
  | .mem pa cache => paPkg pa = s.pkg ∧ paRegion pa ≠ 3 ∧ isSwitching s pa = false ∧ c.w.core < 512 ∧
      (coherentHere s pa = true → leaseBlocks s (lineOf pa) 1 (.stack (coreStack c.w.core)) = false ∧
        (cache = 0 → (∃ y, copyOf s (lineOf pa) (coreStack c.w.core) = some y ∧ y.state = 3 ∧ y.lease = none) ∧
          ∀ k, k ≠ coreStack c.w.core → ∀ y, copyOf s (lineOf pa) k = some y → y.state < 2))
  | _ => False

/-- A store outside a transaction performs all its lanes at once: as for a load, with every lane writable once what a release cleans has gone home (`s2`), to
other packages too (R164). -/
structure StoresHere (s s2 : State) (c : Ctx) (n stream scope : Nat) (release scalar : Bool) (lanes : List (Nat × Dword))
    (accs : List Acc) : Prop where
  outside : c.w.txn.depth = 0
  free : streamHeld c stream = false
  ordered : writeWaits s c stream release accs = none
  resolved : ∃ s', resolve s c .write n scalar lanes = .ok s' accs ∧
    s2 = if release then cleanStack s' (coreStack c.w.core) (actScope scope accs) else s'
  home : release = true → 3 ≤ actScope scope accs → backsOut s2 (coreStack c.w.core) = false
  ready : ∀ a ∈ accs, CanWrite s2 c a.tgt
  inLine : ∀ a ∈ accs, ∀ pa cache, a.tgt = .mem pa cache → pa % 128 + n ≤ 128
  canonical : BytesInv s2

/-- The access covers a byte of memory. -/
def coversMem (n b : Nat) (a : Acc) : Bool := match a.tgt with | .mem pa _ => decide (pa ≤ b) && decide (b < pa + n) | _ => false

/-- The access covers a byte of the issuing crew's scratch. -/
def coversScratch (n b : Nat) (a : Acc) : Bool := match a.tgt with | .scratch _ o => decide (o ≤ b) && decide (b < o + n) | _ => false

end Sys2Proof.Machine
end

