-- ==== Sys2Proof/Certificates/Slice0/Obligations.lean ====
section
/-! DEFINITION. The statements about this machine that are to be proved. Each instruction's statement says under which conditions on the state and
the operands it completes, what it leaves, and what it leaves unchanged. -/

open Sys2Proof Sys2Proof.Machine

namespace Sys2Proof.Claims

/-! ### Tables of the encoding and the issue checks -/

/-- The opcodes that the map gives an instruction (R401, R220); every other is ILLEGAL_OP. -/
def definedOpcodes : List (Nat × Nat) :=
  [(0x00, 0x0D), (0x1C, 0x2B), (0x30, 0x3A), (0x40, 0x5D), (0x60, 0x66), (0x68, 0x7D), (0x90, 0x92), (0xA0, 0xC2), (0xC4, 0xC6), (0xC8, 0xCA),
   (0xCC, 0xCD), (0xD0, 0xD9), (0xE0, 0xED), (0xF0, 0xF2), (0xF4, 0xF6), (0xFE, 0xFE)]

/-- The opcode of an encoded instruction: bits 31 to 24 of its word (R390). -/
def opcode (i : Instr) : Nat := ((encode i).getD 0).toNat / 2 ^ 24

/-- The instruction is encoded and is none of EXT, TOOL and the words that no instruction has. -/
def ordinary (i : Instr) : Bool :=
  match i with
  | .ext _ _ | .tool0 _ | .tool1 _ | .tool2 _ | .illegalOp _ | .illegalField _ => false
  | i => (encode i).isSome

/-- The EXT kinds that apply to the opcodes of a range, bit k for KIND k (R400): IMM 0, IMMH 1, MOD 2, OFF 3, SCHED 4, BND 5, SHAPE 6. The formats are
those of R401; VOTE and REDL have no operand select that could be 0xFF. -/
def kindRanges : List (Nat × Nat × BitVec 7) :=
  [(0x20, 0x2A, 0x13), (0x2B, 0x2B, 0x17), (0x30, 0x3A, 0x18), (0x5B, 0x5C, 0x17), (0x64, 0x65, 0x10), (0x66, 0x66, 0x13), (0x71, 0x71, 0x17),
   (0x40, 0x92, 0x37), (0xAA, 0xAA, 0), (0xA0, 0xBF, 0x1C), (0xC0, 0xC2, 0x54), (0xC4, 0xC6, 0x55), (0xC8, 0xC8, 0x10), (0xC9, 0xC9, 0x34),
   (0xD0, 0xD1, 0x10), (0xF2, 0xF2, 0x1C)]

/-- The EXT kinds that apply to an opcode; none where no range names it. -/
def kindsFor (op : Nat) : BitVec 7 := ((kindRanges.find? fun r => r.1 ≤ op && op ≤ r.2.1).map fun r => r.2.2).getD 0

/-- The opcodes that abort an open transaction with UNSUPPORTED (R198): BRD, REJOIN, REGANG, EXIT, FENCE, atomics and RED, matrix and tile work,
CPY to JPOST with MSFENCE and MSWAIT, VDROP, GARRIVE, QPUSH and QPOP. -/
def refusedInTransactions : List (Nat × Nat) :=
  [(0x03, 0x03), (0x06, 0x07), (0x0A, 0x0A), (0xAA, 0xAA), (0xAE, 0xBF), (0xC0, 0xC2), (0xC4, 0xC6), (0xD0, 0xD9), (0xE2, 0xE2), (0xE6, 0xE7)]

/-- The group that an instruction names must have the issuing wave as a member; with no EXT.IMM pending a joint matrix form names group 0 (R229). -/
def groupMember (i : Instr) (c : Ctx) : Bool :=
  match i with
  | .coll _ _ g => c.w.groups.getLsbD g.toNat
  | .garrive g _ _ n _ _ => g == 0 || c.w.groups.getLsbD n.toNat
  | .mmaG .. | .mmasG .. | .mmagG .. => c.w.groups.getLsbD 0
  | _ => true

/-! ### The choice of an issue scheduler -/

/-- No asynchronous trap is due in a wave of the scheduler (R331). -/
def NoTrapDue (s : State) (core k : Nat) : Prop :=
  ∀ e ∈ s.waves, e.2.core = core → e.2.slot % 2 = k → isPlaced s e.1 = true → asyncDue e.2 = none

/-- The scheduler is in a chain of a path that can still issue, or waits for an operand or a resource (R74). -/
def InChain (s : State) (core k : Nat) (sc : Sched) (key p : Nat) : Prop :=
  sc.last = some (key, p) ∧ sc.chain ≠ 0 ∧
    ∃ w, tget s.waves key = some w ∧ w.core = core ∧ w.slot % 2 = k ∧ waveReady s key w = true ∧ (w.div.path p).mask ≠ 0 ∧
      ((w.div.path p).hold = .none ∨ ∃ r e m, (w.div.path p).hold = .wait r e m)

/-- A scheduler chooses a path (R73, R74): that of the chain it is in, once its operands are there, or else the one that has been ready longest, which
opens a new chain. `sc` is the scheduler's state, its chain 0 where a new one opens. -/
def Selects (s : State) (core k : Nat) (sc : Sched) (key p : Nat) : Prop :=
  let now := vget (s.core core).scheds k Sched.initial
  (sc = now ∧ InChain s core k now key p ∧ ∃ x ∈ readyPaths s core k, x.2 = (key, p)) ∨
  (sc = { now with chain := 0 } ∧ (∀ key' p', ¬InChain s core k now key' p') ∧ longestReady (readyPaths s core k) = some (key, p))

/-! ### Control -/

/-- A target `o` words from the issuing instruction (R432): pc + 4 × sext(OFF). -/
def target (c : Ctx) (o : BitVec 18) : Dword := c.path.pc + BitVec.ofInt 64 (4 * o.toInt)

/-- Whether BRC is taken (R406), `pred` being the predicate and `acting` the acting lanes. -/
def takenBy (mode : BitVec 3) (pred acting : Word) : Prop :=
  (mode = 1 ∧ ∃ L < 32, acting.getLsbD L = true ∧ pred.getLsbD L = true) ∨
  (mode = 2 ∧ ∀ L < 32, acting.getLsbD L = true → pred.getLsbD L = true) ∨
  (mode = 3 ∧ ∀ L < 32, acting.getLsbD L = true → pred.getLsbD L = false) ∨
  (mode = 4 ∧ ∃ L < 32, acting.getLsbD L = true ∧ pred.getLsbD L = false)

/-- A strand as the branch rules see it: its active lanes, and its deferral entries from the bottom up. -/
abbrev View := BitVec 4 × List Deferred

/-- What BRD does to a strand (R43, R45), `taken` holding the lanes whose condition is true: the strand, its next PC. -/
def brdRule (v : View) (taken : BitVec 4) (pc tgt : Dword) : View × Dword :=
  let t := v.1 &&& taken
  let n := v.1 &&& ~~~taken
  if t = 0 then (v, pc + 4)
  else if n = 0 then (v, tgt)
  else ((n, (if v.2.length = 4 then v.2.filter (fun e => e.mask ≠ 0) else v.2) ++ [{ mask := t, pc := tgt }]), pc + 4)

/-- A stack whose empty entries at the top have been popped (R45). -/
def popped (l : List Deferred) : List Deferred := (l.reverse.dropWhile fun e => e.mask == 0).reverse

/-- What REJOIN does to a strand (R44): a merge entry of this instruction is merged, a deferred entry of its region is exchanged for one, else the
strand passes. -/
def rejoinRule (v : View) (pc named : Dword) : View × Dword :=
  let l := popped v.2
  match l.getLast? with
  | none => ((v.1, l), pc + 4)
  | some e =>
    if e.pc = pc ||| 1 then ((v.1 ||| e.mask, popped l.dropLast), pc + 4)
    else if e.pc = named then ((e.mask, l.dropLast ++ [{ mask := v.1, pc := pc ||| 1 }]), named)
    else ((v.1, l), pc + 4)

/-- What EXIT does to a strand (R454, R47): its active lanes end and it resumes from its stack at a merge or a deferred entry, or is dead. -/
def exitRule (v : View) : View × Option Dword :=
  let l := popped (v.2.map fun e => { e with mask := e.mask &&& ~~~v.1 })
  match l.getLast? with
  | none => ((0, l), none)
  | some e => ((e.mask, popped l.dropLast), some (if e.pc.getLsbD 0 then (e.pc &&& ~~~3) + 4 else e.pc))

/-- A strand as the branch rules see it. -/
def viewOf (x : Strand) : View := (x.active, x.entries)

/-- A strand that an instruction of its path has moved by a rule: what the rule says, and it stands in a path at the next PC of the rule. -/
def Moved (c : Ctx) (w : Wave) (k : Nat) (r : View × Dword) : Prop :=
  viewOf (w.div.strand k) = r.1 ∧ (w.div.strand k).live = (c.w.div.strand k).live ∧ (w.div.strand k).ext = (c.w.div.strand k).ext ∧
  ∃ q < 8, (w.div.path q).mask.getLsbD k = true ∧ (w.div.path q).pc = r.2

/-- The paths after a path's strands have gone their ways (R42): a strand of the path has moved by `rule`, no other strand has; the other paths stay;
no strand stands in two paths. -/
def Parted (s t : State) (c : Ctx) (rule : Nat → View → View × Dword) : Prop :=
  ∃ w, OnlyPaths s t c w ∧
    (∀ k < 8, c.path.mask.getLsbD k = true → Moved c w k (rule k (viewOf (c.w.div.strand k)))) ∧
    (∀ k < 8, c.path.mask.getLsbD k = false → w.div.strand k = c.w.div.strand k) ∧
    (∀ q < 8, q ≠ c.p → (c.w.div.path q).mask ≠ 0 → w.div.path q = c.w.div.path q) ∧ w.div.disjoint

/-- The strands of the issuing path keep R45: a depth of at most four, and an empty entry where it is four. -/
def StacksKept (c : Ctx) : Prop :=
  c.w.div.disjoint ∧ ∀ k < 8, (c.w.div.strand k).depth.toNat ≤ 4 ∧
    ((c.w.div.strand k).depth.toNat = 4 → ∃ e ∈ (c.w.div.strand k).entries, e.mask = 0)

/-! ### System registers and the shadow -/

/-- The system registers with their contents (R409). -/
def systemRegisters (s : State) (c : Ctx) : List (BitVec 8 × Dword) :=
  let x := s.context c.conv.context
  [(0x00, c.w.trap.cause), (0x01, c.w.trap.pc), (0x02, c.w.trap.mask), (0x03, c.w.trap.lanes), (0x04, c.w.trap.addr), (0x05, c.w.trap.skid),
   (0x08, c.conv.desc.handler), (0x09, c.conv.desc.trampBase), (0x0A, c.conv.desc.spillBase), (0x10, BitVec.ofNat 64 s.clock),
   (0x11, s.ring.applied), (0x12, commitms s),
   (0x18, BitVec.ofNat 64 (c.w.slot % 32 + 2 ^ 5 * keyCrew c.key + 2 ^ 8 * (c.w.core % 8) + 2 ^ 11 * (c.w.core / 8 % 64) + 2 ^ 17 * (s.pkg % 128) +
      2 ^ 24 * keyIndex c.key)),
   (0x19, c.conv.index), (0x1A, c.conv.launch.setWidth 64),
   (0x20, BitVec.ofNat 64 (c.conv.desc.bndBase % 64 + 2 ^ 8 * (c.conv.desc.bndCount % 128))),
   (0x21, (c.w.faultstat &&& 0xFF0B) ||| (if c.conv.abandon then 4 else 0)),
   (0x28, BitVec.ofNat 64 ((if x.rights then 1 else 0) + (if x.modified then 2 else 0))), (0x29, BitVec.ofNat 64 (x.log2n % 32))]

/-- The width of a shadow field by its SEL (R336). -/
def fieldWidth (sel : Nat) : Nat := [8, 64, 4, 4, 3, 4, 64, 16, 20, 5].getD sel 0

/-! ### Loads, stores and atomics -/

/-- A vector load, its bytes of a lane and the tag that it writes (R492). -/
def loadRows : List ((BitVec 7 → BitVec 7 → BitVec 1 → BitVec 4 → BitVec 3 → BitVec 2 → Instr) × Nat × BitVec 4) :=
  [(.ldB32, 4, 0), (.ldF32, 4, 1), (.ldI32, 4, 4), (.ldN32, 4, 5), (.ldF16, 4, 2), (.ldBf16, 4, 3), (.ldE4m3, 4, 0xA), (.ldI64, 8, 0xF)]

/-- A scalar load, its bytes, whether it is signed (R536). -/
def scalarLoadRows : List ((BitVec 6 → BitVec 6 → BitVec 4 → BitVec 3 → BitVec 2 → Instr) × Nat × Bool) :=
  [(.sldN8, 1, false), (.sldI8, 1, true), (.sldN16, 2, false), (.sldI16, 2, true), (.sldN32, 4, false), (.sldI32, 4, true), (.sldN64, 8, false)]

/-- A scalar store and its bytes (R536). -/
def scalarStoreRows : List ((BitVec 6 → BitVec 6 → BitVec 4 → BitVec 3 → BitVec 2 → Instr) × Nat) :=
  [(.sstN8, 1), (.sstN16, 2), (.sstN32, 4), (.sstN64, 8)]

/-- What a vector load is checked for. -/
def loadSpec (d a : BitVec 7) (m : BitVec 1) (n : Nat) : IssueSpec :=
  { kinds := 0x1C, modMask := modPlain, opnds := [(opD d).group (n / 4)] ++ opAdr a m, tags := fun c => needAdr c a m,
    fields := ldDistinct d (n == 8) a m }

/-- What a vector store is checked for: the 8-byte form requires W64 or RAW in both registers (R540). -/
def storeSpec (d a : BitVec 7) (m : BitVec 1) (n : Nat) : IssueSpec :=
  { kinds := 0x1C, modMask := modPlain, opnds := [(opD d).group (n / 4)] ++ opAdr a m,
    tags := fun c => (if n = 8 then needGroup c ((opD d).group 2) [0xF, 0] else []) ++ needAdr c a m }

/-- The number in `n` bytes, signed or not, in 64 bits. -/
def extended (n : Nat) (signed : Bool) (v : Nat) : Dword :=
  if signed ∧ 2 ^ (8 * n - 1) ≤ v then BitVec.ofInt 64 ((v : Int) - 2 ^ (8 * n)) else BitVec.ofNat 64 v

/-- What a store of `n` bytes in the lanes of `accs` leaves (R164, R541): the path has gone on; a byte of memory or of the crew's scratch that no lane covers
is as before, as are all the rest; a byte that lanes cover has that of the last of them, for the core that stored it, and, but for a copy of
a line managed by software away from its home (R152), for all. -/
def Stored (s2 t : State) (c : Ctx) (n : Nat) (data : Nat → Nat) (accs : List Acc) : Prop :=
  ∃ w, tget t.waves c.key = some w ∧ AccessDone c w ∧ w.vregs = c.w.vregs ∧ w.sregs = c.w.sregs ∧
    w.apertureDirty = c.w.apertureDirty ∧ w.registerDirty = c.w.registerDirty ∧ w.remoteStores = c.w.remoteStores ∧
    (∀ b, accs.any (coversMem n b) = false → readByte t b = readByte s2 b) ∧
    (∀ k b, (k = keyCrewKey c.key → accs.any (coversScratch n b) = false) → byteAt (t.crew k).scratch b = byteAt (s2.crew k).scratch b) ∧
    (∀ b a, accs.reverse.find? (coversMem n b) = some a → ∀ pa cache, a.tgt = .mem pa cache →
      let x : Byte := BitVec.ofNat 8 (data a.lane / 2 ^ (8 * (b - pa)))
      viewByte t c.w.core b cache = x ∧
      (coherentHere s2 pa = true ∨ cache ≠ 0 ∨ isHome s2 (coreStack c.w.core) pa = true → readByte t b = x) ∧
      (coherentHere s2 pa = false → isSoftware s2 pa = true → cache = 0 → isHome s2 (coreStack c.w.core) pa = false →
        (∀ a' ∈ accs, ∀ pa' cache', a'.tgt = .mem pa' cache' → cache' = 0) → readByte t b = readByte s2 b)) ∧
    (∀ b a, accs.reverse.find? (coversScratch n b) = some a → ∀ k o, a.tgt = .scratch k o →
      byteAt (t.crew (keyCrewKey c.key)).scratch b = BitVec.ofNat 8 (data a.lane / 2 ^ (8 * (b - o))))

/-- An atomic or RED and its operation (R407). -/
def atomRows : List ((BitVec 7 → BitVec 7 → BitVec 1 → BitVec 4 → BitVec 3 → BitVec 2 → Instr) × Nat) :=
  [(.atomAdd, 0), (.atomSmin, 1), (.atomSmax, 2), (.atomUmin, 3), (.atomUmax, 4), (.atomAnd, 5), (.atomOr, 6), (.atomXor, 7), (.atomExch, 8), (.atomCas, 9)]
def redRows : List ((BitVec 7 → BitVec 7 → BitVec 1 → BitVec 4 → BitVec 3 → BitVec 2 → Instr) × Nat) :=
  [(.redAdd, 0), (.redSmin, 1), (.redSmax, 2), (.redUmin, 3), (.redUmax, 4), (.redAnd, 5), (.redOr, 6), (.redXor, 7)]

/-- The tags that DV may carry in each operation, beside W64 (R425): ADD takes I32, N32, RAW and F32, SMIN and SMAX not N32, UMIN and UMAX only N32 and RAW, the
others every tag. -/
def atomTagRows : List (List (BitVec 4)) := [[4, 5, 0, 1], [4, 0, 1], [4, 0, 1], [5, 0], [5, 0]]

/-- Bytes that an atomic acts on: 8 where DV's tag is W64 (R407). -/
def atomBytes (c : Ctx) (d : BitVec 7) : Nat := if (c.w.vreg ((opD d).reg c)).tag = 0xF then 8 else 4

/-- What an atomic is checked for (R425, R426, R403): its registers lie in one group of the 128 that its field names. -/
def atomSpec (c : Ctx) (op : Nat) (d a : BitVec 7) (m : BitVec 1) : IssueSpec :=
  let regs := (if op = 9 then 2 else 1) * (atomBytes c d / 4)
  { kinds := 0x1C, modMask := modPlain, opnds := [(opD d).group regs] ++ opAdr a m, inTx := false,
    tags := fun c => need c (opD d) (atomTagRows.getD op anyTag ++ [0xF]) ++ needAdr c a m, fields := fun _ => decide (d.toNat + regs ≤ 128) }

/-- The new value of a location of `n` bytes (R425, R407): of the old value, the data and the comparand. Under F32, ADD, SMIN and SMAX work as FADD, FMIN and FMAX
do, in RNE with subnormals kept. -/
def atomRule (op n : Nat) (float : Bool) (old d cmp : Nat) : Nat :=
  let x := BitVec.ofNat (8 * n) old
  let y := BitVec.ofNat (8 * n) d
  let f (v : Nat) : FVal := readF .f32 false v
  match op with
  | 0 => if float then writeF .f32 0 false false ((f old).add 0 (f d)) else (x + y).toNat
  | 1 => if float then writeF .f32 0 false false ((f old).min (f d)) else if y.slt x then d else old
  | 2 => if float then writeF .f32 0 false false ((f old).max (f d)) else if x.slt y then d else old
  | 3 => if d < old then d else old
  | 4 => if old < d then d else old
  | 5 => (x &&& y).toNat
  | 6 => (x ||| y).toNat
  | 7 => (x ^^^ y).toNat
  | 8 => d
  | _ => if old = cmp then d else old

/-- Register lanes as an atomic's data: a register, or a pair with the low half first (R426). -/
def atomData (s : State) (c : Ctx) (n r L : Nat) : Nat :=
  (lane (regLanes s c r) L).toNat + if n = 8 then 2 ^ 32 * (lane (regLanes s c (r + 1)) L).toNat else 0

/-- An atomic outside a transaction performs all its lanes in this package, in ascending order: no path holds its stream back, nothing that it must wait for is
outstanding, and no home holds a line of it. `s2` is the state after what a release cleans, `s3` that after the lanes, which had the values
`olds`. -/
structure AtomsHere (s s2 s3 : State) (c : Ctx) (op n stream scope : Nat) (float red release : Bool) (data cmp : Nat → Nat)
    (lanes : List (Nat × Dword)) (accs : List Acc) (olds : List (Nat × Nat)) : Prop where
  free : streamHeld c stream = false
  before : writeWaits s c stream release accs = none ∧ loadWaits s c stream accs = false
  resolved : ∃ s0, resolve s c .atomic n false lanes = .ok s0 accs ∧ let s' := if red then s0 else checkReads s0 c accs
    (∀ x ∈ accs, readsPoison s' (keyConvoy c.key) x.tgt = false) ∧
    s2 = if release then cleanStack s' (coreStack c.w.core) (actScope scope accs) else s'
  home : release = true → 3 ≤ actScope scope accs → backsOut s2 (coreStack c.w.core) = false
  near : ∀ x ∈ accs, x.tgt.foreign s = false ∧ x.tgt.peer (keyCrew c.key) = false
  performed : atomLocal s2 c { op := op, bytes := n, float := float, stream := stream, scope := actScope scope accs } red data cmp accs =
    some (s3, olds)

/-- What one lane of an atomic does to its place (R158, R164, R425): the bytes there are replaced by the operation's result, no other byte of memory or of a scratch
changes, and the old value is returned. It is said for own scratch; for memory that the core's stack can write; and for memory that the atomic
changes at its home, where no stack holds a copy. -/
def AtomEffect (s2 t : State) (c : Ctx) (op n scope : Nat) (float : Bool) (data cmp : Nat → Nat) (x : Acc) (olds : List (Nat × Nat)) : Prop :=
  (∀ k off, x.tgt = .scratch k off → CanWrite s2 c x.tgt →
    let old := readNat (s2.crew (keyCrewKey c.key)).scratch off n
    olds = [(x.lane, old)] ∧ (∀ b, readByte t b = readByte s2 b) ∧
    ∀ b, byteAt (t.crew (keyCrewKey c.key)).scratch b =
      if off ≤ b ∧ b < off + n then BitVec.ofNat 8 (atomRule op n float old (data x.lane) (cmp x.lane) / 2 ^ (8 * (b - off)))
      else byteAt (s2.crew (keyCrewKey c.key)).scratch b) ∧
  (∀ pa cache, x.tgt = .mem pa cache → pa % 128 + n ≤ 128 →
    (coherentHere s2 pa = true ∧ CanWrite s2 c x.tgt) ∨
    (isSoftware s2 pa = true ∧ (∀ k, copyOf s2 (lineOf pa) k = none) ∧ (paRegion pa = 8 ∨ cache ≠ 0 ∨ 3 ≤ scope) ∧ isSwitching s2 pa = false) →
    let old := leNat ((List.range n).map fun i => readByte s2 (pa + i))
    olds = [(x.lane, old)] ∧
    ∀ b, readByte t b = if pa ≤ b ∧ b < pa + n then
      BitVec.ofNat 8 (atomRule op n float old (data x.lane) (cmp x.lane) / 2 ^ (8 * (b - pa))) else readByte s2 b)

/-! ### Transactions -/

/-- The transaction instructions need one path (R195). -/
def oneSpec : IssueSpec := { onePath := true }

/-- The buffered lines of a transaction lie at its open levels, their bytes in order and each within its line (R196, R200). -/
def BufferOk (t : Txn) : Prop :=
  ∀ l ∈ t.buffer, 1 ≤ l.level ∧ l.level ≤ t.depth.toNat ∧ keysFrom 0 l.bytes = true ∧ ∀ e ∈ l.bytes, e.1 < 128

/-- The line of a place of memory or of own scratch as a target of a store. -/
def placeTarget (p : Place) : Target := if p.space = .scratch then .scratch (p.owner % 8) (128 * p.unit) else .mem (128 * p.unit) 0

/-- The status word of R209. -/
def statusWord (t : Txn) : Nat :=
  t.cause.toNat + 2 ^ 18 * t.depth.toNat + (if ∃ j < t.depth.toNat, ∃ a, vget t.alts j none = some a ∧ a.taken = true then 2 ^ 21 else 0) +
  (if t.retained then 2 ^ 22 else 0) + (if t.pageMode then 2 ^ 23 else 0) + 2 ^ 24 * t.reads.length + 2 ^ 32 * t.code.toNat

/-- The highest level, up to an attempt's depth, with an alternative registered and not taken (R206). -/
def NextAlternative (t : Txn) (j : Nat) (label : Dword) : Prop :=
  1 ≤ j ∧ j ≤ t.depth.toNat ∧ vget t.alts (j - 1) none = some { label := label, taken := false } ∧
  ∀ i, j < i → i ≤ t.depth.toNat → ∀ a, vget t.alts (i - 1) none = some a → a.taken = true

/-! ### Matrix instructions -/

/-- Element `k` of row `r` of an operand of `n` rows (R225, R222): at base + 96 r + byte(k), or K-major at base + (k n + r) e. -/
def operandElem (code n r : Nat) (trans : Bool) (bs : List Byte) (k : Nat) : Nat :=
  if matBits code = 4 then byteOf bs (96 * r + k / 2) / 16 ^ (k % 2) % 16
  else
    let e := matBits code / 8
    let at' := if trans then (k * n + r) * e else 96 * r + k * e
    byteOf bs at' + if e = 2 then 256 * byteOf bs (at' + 1) else 0

/-- The values of block `j` of a row (R81 to R83, R94); none for a zero block. -/
def operandBlock (code n r : Nat) (trans : Bool) (bs plane : List Byte) (j : Nat) : Option (List FVal) :=
  let x (k : Nat) : Nat := operandElem code n r trans bs (16 * j + k)
  let tag := blockTag plane n r j
  if code = 8 ∨ code = 9 then
    if tag = 3 then none else some ((List.range 16).map fun k => scaledVal (code == 8) tag (byteOf plane (16 * r + j)) (x k))
  else some ((List.range 16).map fun k => matVal code (x k))

/-- The products of block `j`; none where either operand has a zero block. -/
def blockProducts (a b : Nat → Option (List FVal)) (j : Nat) : Option (List FVal) :=
  match a j, b j with
  | some x, some y => some (List.zipWith FVal.mul x y)
  | _, _ => none

/-- One rounding step of the accumulator (R94, R95). -/
def accumulate (m : MatrixOp) (acc : Nat) (v : FVal) : Nat := writeF .f32 m.rnd m.sat m.ftz (FVal.add m.rnd (Machine.decodeF .f32 acc) v)

/-- An element of a float matrix instruction (R94): the blocks in ascending order, each rounded into the accumulator once. -/
def matrixElement (m : MatrixOp) (acc : Nat) (a b : Nat → Option (List FVal)) : Nat :=
  (List.range (48 / matBits m.fa)).foldl (fun acc j => match blockProducts a b j with
    | none => acc
    | some l => accumulate m acc (sumTerms m.rnd l)) acc

/-- An element of MMAG (R84, R94): blocks of 64 elements, a zero block of B removing its own 16, each sum times its graded scale rounded to F32. -/
def gradedElement (m : MatrixOp) (acc : Nat) (plane : List Byte) (i : Nat) (a b : Nat → Option (List FVal)) : Nat :=
  (List.range 3).foldl (fun acc g =>
    let terms := (List.range 4).flatMap fun q => (blockProducts a b (4 * g + q)).getD []
    accumulate m acc (Machine.decodeF .f32 (encodeF FFmt.f32 m.rnd false ((sumTerms m.rnd terms).mul (rowGrade plane i g))))) acc

/-- What a matrix instruction names (R496): its kind, its tile, formats and address registers; `joint` for the form with a group. -/
def matFields (kind : Nat) (joint : Bool) (t f g : BitVec 4) (a b : BitVec 6) : MatSpec :=
  { kind := kind, joint := joint, tile := t.toNat, fa := if kind = 2 then 7 else f.toNat, fb := g.toNat, sa := a.toNat, sb := b.toNat }

/-- The matrix instructions of a wave alone, and their joint forms. -/
def matRows : List ((BitVec 4 → BitVec 4 → BitVec 4 → BitVec 6 → BitVec 6 → Instr) × Nat) := [(.mma, 0), (.mmas, 1), (fun t _ g a b => .mmag t g a b, 2)]
def matJointRows : List ((BitVec 4 → BitVec 4 → BitVec 4 → BitVec 6 → BitVec 6 → Instr) × Nat) :=
  [(.mmaG, 0), (.mmasG, 1), (fun t _ g a b => .mmagG t g a b, 2)]

/-- What is checked of a matrix instruction: EXT.SHAPE and SCHED apply, EXT.MOD but to integer formats, EXT.IMM to joint forms (R227, R400); the accumulator's
tag (R93); the fields of EXT.SHAPE and the membership of the group that the joint form names (R229). -/
def matIssueSpec (s : State) (m : MatSpec) : IssueSpec :=
  { matSpec s m with fields := fun c => shapeOk m c && (!m.joint || c.inGroup c.ext.imm.toNat) }

/-- The sequencer's entry of a matrix instruction (R227, R231). -/
def queuedAs (c : Ctx) (m : MatSpec) (op : MatrixOp) : Prop :=
  let off (r : Nat) : Nat := (c.w.sreg r).toNat % 2 ^ 24
  op.wave = c.key ∧ op.pc = c.path.pc ∧ op.kind = m.kind ∧ op.tile = m.tile ∧ op.fa = m.fa ∧ op.fb = m.fb ∧
  op.rows = (if c.conv.card.bind = 1 then 32 else 64) ∧ op.cols = (if c.conv.card.bind = 3 then 64 else 32) ∧
  op.addrA = off m.sa ∧ op.addrB = off m.sb ∧ op.rnd = c.rnd ∧ op.ftz = c.modBit 12 ∧ op.sat = c.modBit 15 ∧ op.started = none

/-! ### Groups, grants and scratch queues -/

/-- The crew's extended pool has a block less or more, the wave its grant (R59), and nothing else of the machine has changed but that transactions may have seen
the change of the pool's line (R219). -/
def GrantMoved (s t : State) (c : Ctx) (free : Nat) (y : Crew) : Prop :=
  t.crews = tput s.crews (keyCrewKey c.key) { y with poolFree := free } ∧
  (∀ k x, k ≠ c.key → tget s.waves k = some x → ∃ x', tget t.waves k = some x' ∧ x' = { x with txn := { x.txn with reads := x'.txn.reads } }) ∧
  t = { s with waves := t.waves, crews := t.crews, draws := t.draws, epoch := t.epoch }

/-- A queue as R217 lays it out at an offset of a crew's scratch: HEAD, the capacity's logarithm, RING and TAIL. -/
def QueueAt (b : Table Byte) (size off head capl ring tail : Nat) : Prop :=
  readNat b off 4 = head ∧ readNat b (off + 4) 1 = capl ∧ readNat b (off + 8) 4 = ring ∧ readNat b (off + 128) 4 = tail ∧
  capl ≤ 12 ∧ ring % 4 = 0 ∧ ring + 4 * 2 ^ capl ≤ size

/-- A byte of a number of four bytes that is stored from `a` on. -/
def byte4 (a v o : Nat) : Byte := BitVec.ofNat 8 (v / 256 ^ (o - a))

/-- A queue instruction has changed its wave's predicate and scalar as given, the bytes of one crew's scratch as `f` says, and is done. -/
def QueueDone (s t : State) (c : Ctx) (k : Nat) (d v : Nat) (p : Word) (x : Option Dword) (f : Nat → Byte) : Prop :=
  ∃ w, tget t.waves c.key = some w ∧ GoesOn c w (c.path.pc + 4) ∧ LatchesStay c w ∧
    (∀ n < 8, w.preg n = if n = d ∧ n ≠ 0 then p else c.w.preg n) ∧
    (∀ n < 64, w.sreg n = if n = v ∧ n ≠ 0 then x.getD (c.w.sreg n) else c.w.sreg n) ∧ w.vregs = c.w.vregs ∧
    (∀ o, byteAt (t.crew k).scratch o = f o) ∧ (∀ k', k' ≠ k → (t.crew k').scratch = (s.crew k').scratch) ∧
    t.mem = s.mem ∧ t.copies = s.copies

/-! ### Barriers, grid counters and cards -/

/-- What an arrival or a subtraction makes of a barrier object (R213, R215), of which `old` and `new` are the 16 bytes, and `arrived` and `pending` the counts
that it comes to: where ARRIVED meets EXPECTED with PENDING zero the phase is complete, both counts are zero and PHASE is turned; ABANDONED is set
where the convoy gives it up, and LOST stays. -/
def BarrierCounts (old new arrived pending : Nat) (abandoned : Bool) : Prop :=
  let complete := arrived = bits old 0 32 ∧ pending = 0
  new < 2 ^ 128 ∧ bits new 0 32 = bits old 0 32 ∧ bits new 32 32 = (if complete then 0 else arrived) ∧ bits new 64 32 = pending ∧
  bits new 96 1 = (if complete then 1 - bits old 96 1 else bits old 96 1) ∧
  bits new 97 1 = (if abandoned then 1 else bits old 97 1) ∧ bits new 98 1 = bits old 98 1

/-- One more arrival. -/
def BarrierArrived (old new : Nat) (abandoned : Bool) : Prop :=
  BarrierCounts old new ((bits old 32 32 + 1) % 2 ^ 32) (bits old 64 32) abandoned

/-- A barrier at a target of this package has received an arrival, and no other byte of scratch or memory has changed. -/
def Arrives (s t : State) (c : Ctx) (tgt : Target) (word : Word) : Prop :=
  match tgt with
  | .scratch k off =>
    let crew := crewKey (keyConvoy c.key) k
    let old := readNat (s.crew crew).scratch off 16
    word = BitVec.ofNat 32 (bits old 96 32) ∧ BarrierArrived old (readNat (t.crew crew).scratch off 16) c.conv.abandon ∧
    (∀ o, (o < off ∨ off + 16 ≤ o) → byteAt (t.crew crew).scratch o = byteAt (s.crew crew).scratch o) ∧
    (∀ k', k' ≠ crew → (t.crew k').scratch = (s.crew k').scratch) ∧ ∀ b, readByte t b = readByte s b
  | .mem pa _ =>
    let old := peekNat s pa 16
    word = BitVec.ofNat 32 (bits old 96 32) ∧ BarrierArrived old (peekNat t pa 16) c.conv.abandon ∧
    (∀ b, (b < pa ∨ pa + 16 ≤ b) → readByte t b = readByte s b) ∧ t.crews = s.crews
  | _ => False

/-- The target is the wave's own crew's scratch, or hardware-coherent memory of this package that its core can write and that nothing holds. -/
def ArrivesHere (s : State) (c : Ctx) : Target → Prop
  | .scratch k _ => k = keyCrew c.key ∧ (tget s.crews (keyCrewKey c.key)).isSome = true
  | .mem pa cache => coherentHere s pa = true ∧ pa % 16 = 0 ∧ CanWrite s c (.mem pa cache) ∧ lineHeld s pa 1 = false
  | _ => False

/-- A member of a group, alone in it, is stalled at a joint instruction that it has issued (R52). -/
def AloneAt (z : State) (x : Ctx) (g : Nat) (i : Instr) : Prop :=
  tget z.waves x.key = some x.w ∧ groupMembers z (keyConvoy x.key) g = [(x.key, x.w)] ∧ memberIssued g x.w = true ∧
  memberCtx z x.key x.w = some (x, i) ∧ x.path.stepping = false ∧ TablesInv z ∧ BytesInv z

/-- The path stalls at a joint instruction of a group; nothing else of the machine has changed. -/
def JoinHeld (s u : State) (c : Ctx) (g : Nat) (i : Instr) : Prop :=
  ∃ w w0, tget u.waves c.key = some w ∧ tget s.waves c.key = some w0 ∧ w0.div = c.w.div ∧ w = { w0 with joined := none, div := w.div } ∧
    w.div.path c.p = { c.path with hold := .joint g i } ∧
    (∀ q, q ≠ c.p → w.div.path q = c.w.div.path q) ∧ w.div.strands = c.w.div.strands ∧
    (∀ k, k ≠ c.key → tget u.waves k = tget s.waves k) ∧ u = { s with waves := u.waves, epoch := u.epoch }

/-- What JPOST answers (R307, R491): a status, a launch id, and the predicate all ones where the status is 0. -/
def Posted (t : State) (c : Ctx) (p d status id : Nat) : Prop :=
  ∃ w, tget t.waves c.key = some w ∧ GoesOn c w (c.path.pc + 4) ∧ LatchesStay c w ∧ w.vregs = c.w.vregs ∧
    (∀ n < 8, w.preg n = if n = p ∧ n ≠ 0 then (if status = 0 then 0xFFFFFFFF else 0) else c.w.preg n) ∧
    (∀ n < 64, w.sreg n = if n = d ∧ n ≠ 0 then BitVec.ofNat 64 (2 ^ 32 * status + id) else c.w.sreg n)

/-! ### The copy chain -/

/-- `n` bytes from an offset of a scratch, as an engine of a convoy's crew finds them: inside it, and no window refuses them. -/
def ScratchOpen (s : State) (v : Convoy) (convoy crew : Nat) (ea : Dword) (n k off : Nat) (store : Bool) : Prop :=
  decodeEa crew ea = .scratch k off ∧ k < v.card.crews ∧ off + n ≤ (s.crew (crewKey convoy k)).scratchSize ∧ off + n ≤ 2 ^ 24 ∧
  ∀ l, 128 * l < (s.crew (crewKey convoy k)).scratchSize → windowCause s convoy k crew l store = none

/-- The bytes of one crew's scratch are as `f` says, and those of the other crews as before. -/
def ScratchIs (s t : State) (crew : Nat) (f : Nat → Byte) : Prop :=
  (∀ o, byteAt (t.crew crew).scratch o = f o) ∧ ∀ k, k ≠ crew → (t.crew k).scratch = (s.crew k).scratch

/-! ### Coherence -/

/-- The bit of a requester among the stacks of its package; another package has none. -/
def meBit : Requester → BitVec 4
  | .stack k => 1#4 <<< k
  | .package _ _ => 0

/-- A line's home is idle, and nothing keeps it from serving a request at once (R142, R144, R145, R150, R153, R185). -/
def HomeIdle (s : State) (line : Nat) (req : Requester) : Prop :=
  requestOk s line req = true ∧ (s.homeLine line).openReq = none ∧ (s.homeLine line).waiting = [] ∧ requestHeld s line req = false ∧
  (∀ kind, leaseBlocks s line kind req = false) ∧ ∀ k, req = .stack k → k = lineHome line ∨ filterVictim s line = none

/-- No request waits at any home of the package. -/
def NothingWaits (s : State) : Prop := ∀ e ∈ s.home, e.2.waiting = []

/-- A stack's L2 or RDC holds the line, or has room for it (R15, R35). -/
def RoomFor (s : State) (line stack : Nat) : Prop :=
  let home := isHome s stack (128 * line)
  let held := (heldLines s stack home).length
  let room := if home then Config.l2Lines else Config.rdcLines
  held < room ∨ ((copyOf s line stack).isSome = true ∧ held ≤ room)

/-- An M copy of a line (R140). -/
def modifiedCopy (b : Table Byte) : Copy := { state := 3, bytes := b, dirty := BitVec.allOnes 128, lease := none }

/-- The line's bytes as its home has them. -/
def FromHome (s : State) (line : Nat) (d : Option (Table Byte)) : Prop :=
  ∃ b, d = some b ∧ ∀ i < 128, byteAt b i = homeByte s (128 * line + i)

/-- A request has been opened at an idle home; the home's state for other lines stays. -/
def Opened (s t : State) (line : Nat) (req : Requester) (r : OpenReq) : Prop :=
  (t.homeLine line).openReq = some r ∧ (t.homeLine line).waiting = [] ∧ r.req = req ∧ (∀ l, l ≠ line → t.homeLine l = s.homeLine l) ∧
  (∀ l, l ≠ line → tget t.filters l = tget s.filters l) ∧
  (copyOf s line (lineHome line) = none → t.copies = s.copies ∧ t.mem = s.mem)

/-- A message of a line's open request has made it `r`, and one stack's copy `x`; every other copy, memory and the homes of other lines stay. -/
def Messaged (s t : State) (line stack : Nat) (r : Option OpenReq) (x : Option Copy) : Prop :=
  (t.homeLine line).openReq = r ∧ copyOf t line stack = x ∧ (∀ k, k ≠ copyKey line stack → tget t.copies k = tget s.copies k) ∧
  t.mem = s.mem ∧ ∀ l, l ≠ line → t.homeLine l = s.homeLine l

/-! ### The fabric and the token -/

/-- The first sent packet of its tag has changed from `p` to `q`, or gone where there is none; nothing else of the package's packets has changed. -/
def SentBecomes (s t : State) (l r : List SentPacket) (q : Option SentPacket) : Prop :=
  t.fabric = { s.fabric with sent := l ++ q.toList ++ r, ports := t.fabric.ports, heard := t.fabric.heard } ∧
  t = { s with fabric := t.fabric, epoch := t.epoch }

/-- A packet is the first of its tag among those sent. -/
def FirstSent (s : State) (l : List SentPacket) (p : SentPacket) (r : List SentPacket) : Prop :=
  s.fabric.sent = l ++ p :: r ∧ ∀ q ∈ l, q.packet.tag ≠ p.packet.tag

/-! ### Records -/

/-- A record has been applied (R262 to R264): the applied milestone is its own, it waits no more, and it is counted, among the errors where it is malformed. -/
def RecordCounted (s t : State) (r : Record) (bad : Bool) : Prop :=
  t.ring.applied = r.milestone ∧ tget t.ring.held r.milestone.toNat = none ∧ t.ring.appliedCount = s.ring.appliedCount + 1 ∧
  t.ring.errors = s.ring.errors + if bad then 1 else 0

/-- Its RESULT, where its RWAY asked for one, has been written (R528): OLD, the milestone, and STATUS with DONE, the fail bit and the malformed bit. -/
def RecordAnswered (s t : State) (r : Record) (old : Nat) (fail bad : Bool) : Prop :=
  RecordCounted s t r bad ∧ ∀ v crew off, s.ring.results.find? (fun e => e.1 == r.milestone.toNat) = some (r.milestone.toNat, v, crew, off) →
    (tget s.convoys v).isSome = true → (tget s.crews (crewKey v crew)).isSome = true →
    let b := (t.crew (crewKey v crew)).scratch
    (bad = false → readNat b off 8 = old) ∧ readNat b (off + 8) 8 = r.milestone.toNat ∧
    readNat b (off + 16) 4 = 1 + (if fail then 2 else 0) + (if bad then 4 else 0)

/-- The payload of a record, as a number. -/
def payOf (r : Record) : Nat := leNat r.payload

/-- What an RMW record makes of a value of `n` bits (R272): ADD, which fails where its LIMIT flag is set and the sum exceeds the limit; CAS; MAX,
signed by its flag; BITSET. -/
def rmwRule (kind n flags old a b : Nat) : Nat × Bool :=
  if kind = 1 then (if flags / 2 % 2 = 1 ∧ b < old + a then (old, true) else ((old + a) % 2 ^ n, false))
  else if kind = 2 then (if old = a then (b, false) else (old, true))
  else if kind = 3 then
    (if flags % 2 = 1 then (if (BitVec.ofNat n old).toInt < (BitVec.ofNat n a).toInt then a else old) else max old a, false)
  else (old ||| a, false)

/-- The events that apply read-modify-write records, with their kinds. -/
def rmwRows : List (Instr × Nat) := [(.recordAdd, 1), (.recordCas, 2), (.recordMax, 3), (.recordBitset, 4)]

/-! ### The Vat and collectives -/

/-- A slot's descriptor is well formed (R287, R288): one to eight experts in rising order, a length of 1 to 16,384, aligned virtual addresses, reserved bits zero. -/
def VatDescOk (n : Nat) : Prop :=
  1 ≤ bits n 384 8 ∧ bits n 384 8 ≤ 8 ∧ 1 ≤ bits n 352 16 ∧ bits n 352 16 ≤ 16384 ∧ bits n 400 48 = 0 ∧ bits n 576 448 = 0 ∧
  (∀ i, i + 1 < bits n 384 8 → bits n (8 * i) 8 < bits n (8 * (i + 1)) 8) ∧
  bits n 448 64 < 2 ^ 56 ∧ bits n 448 64 % (if bits n 392 1 = 1 then 4 else 2) = 0 ∧ bits n 512 64 < 2 ^ 56 ∧ bits n 512 64 % 8 = 0

/-- What the Vat decides on a row (R290), with the slot that its handle names: 3 late, 4 rejected, 5 duplicate, 2 refused, 1 accepted. -/
def vatCode (s : State) (r : VatRow) : Nat :=
  let v := s.vatSlot (r.handle.toNat % 4096)
  let p := v.experts.findIdx (· == r.expert)
  if v.generation.toNat ≠ r.handle.toNat / 4096 ∨ v.state ≠ 1 ∨ v.byDeadline = true then 3
  else if v.experts.length ≤ p ∨ v.context ≠ r.context ∨ r.len ≠ v.len ∨ r.infmt ≠ v.infmt then 4
  else if v.arrivedMask.getLsbD p = true then 5
  else if v.lowest ≠ p ∧ s.vat.freePages < ((if v.infmt then 4 else 2) * v.len + 4095) / 4096 then 2
  else 1

/-- A slot has been freed (R285, R296): its generation has risen, and the pages given go back to the pool. -/
def SlotFreed (s t : State) (i pages : Nat) : Prop :=
  (t.vatSlot i).state = 0 ∧ (t.vatSlot i).generation = (s.vatSlot i).generation + 1 ∧ t.vat.freePages = s.vat.freePages + pages ∧
  ∀ j, j ≠ i → t.vatSlot j = s.vatSlot j

/-- The pages that an open slot has of the pool (R286): its accumulator's, unless VDROP has returned them, and those of the rows it holds. -/
def slotPages (v : VatSlot) : Nat := (if v.dropped then 0 else (4 * v.len + 4095) / 4096) + (v.held.map (·.pages)).sum

/-- An instruction has written `x` to scalar register `d` of its wave, and is done; no other register of the wave has changed. -/
def ScalarWritten (t : State) (c : Ctx) (d : Nat) (x : Dword) : Prop :=
  ∃ w, tget t.waves c.key = some w ∧ GoesOn c w (c.path.pc + 4) ∧ LatchesStay c w ∧ w.vregs = c.w.vregs ∧ w.pregs = c.w.pregs ∧
    ∀ n < 64, w.sreg n = if n = d ∧ n ≠ 0 then x else c.w.sreg n

/-- One step of SUM, MAX or MIN over two elements of a format (R276): BF16 1, I32 2, else F32. -/
def combine2 (op fmt : Nat) (x y : Word) : Word :=
  let f : FFmt := if fmt = 1 then .bf16 else .f32
  let v (z : Word) : FVal := if fmt = 1 then Machine.decodeF .bf16 (z.toNat % 2 ^ 16) else f32Val z
  if fmt = 2 then (if op = 0 then x + y else if op = 1 then (if x.toInt < y.toInt then y else x) else if x.toInt < y.toInt then x else y)
  else BitVec.ofNat 32 (writeF f 0 false false (if op = 0 then (v x).add 0 (v y) else if op = 1 then (v x).max (v y) else (v x).min (v y)))

/-- The package has dropped a member of a collective and posts how many chunks it has completed (R282). -/
def MemberDropped (s t : State) (id p completed : Nat) (x : Collective) : Prop :=
  tget t.collectives id = some { x with dropped := x.dropped ++ [p] } ∧ (∀ k, k ≠ id → tget t.collectives k = tget s.collectives k) ∧ t.mem = s.mem ∧
  ∃ r, vget t.ring.queues 0 [] = vget s.ring.queues 0 [] ++ [(r, none)] ∧ r.kind = 10 ∧ r.context = x.context ∧
    bits (payOf r) 0 8 = 2 ∧ bits (payOf r) 8 8 = s.pkg ∧ bits (payOf r) 32 32 = x.collid ∧ bits (payOf r) 64 32 = completed ∧
    ∀ q < 128, bits (payOf r) (256 + q) 1 = 1 ↔ (x.members.getLsbD q = true ∧ q ∉ x.dropped ∧ q ≠ p ∧ q ∉ x.lost.map (·.1))

/-! ### The dispatcher -/

/-- A wave as the dispatcher starts it (R48, R57, R310): one path with its eight strands at the card's entry, and its launch values in s1 to s4. -/
def StartsAt (w : Wave) (core : Nat) (card : Card) (index : Nat) (launch : Word) : Prop :=
  w.core = core ∧ w.ended = false ∧ w.inHandler = false ∧ w.txn.depth = 0 ∧ (w.div.path 0).pc = card.entry ∧ (w.div.path 0).mask = 0xFF ∧
  (∀ p < 8, p ≠ 0 → (w.div.path p).mask = 0) ∧ (w.sreg 1) = card.param ∧ w.sreg 2 = BitVec.ofNat 64 index ∧ w.sreg 3 = BitVec.ofNat 64 card.count ∧
  w.sreg 4 = launch.setWidth 64

/-- A part has left the dispatcher, and nothing of it is left: its convoys and its cards. -/
def PartGone (t : State) (k : Nat) : Prop :=
  tget t.disp.parts k = none ∧ (∀ e ∈ t.disp.cards, e.2.part ≠ k) ∧ ∀ e ∈ t.convoys, e.2.part ≠ k

/-! ### Errors, observation, power -/

/-- A record has been appended to the error log, the oldest leaving where it is full (R342): its kind, unit, stack and location, and whether it was injected. -/
def ErrorLogged (s t : State) (kind unit stack : Nat) (loc : Dword) (injected : Bool) : Prop :=
  ∃ r, t.logs.errors = (if s.logs.errors.length < Config.errorLogEntries then s.logs.errors else s.logs.errors.tail) ++ [r] ∧
    (r.bits.extractLsb' 56 8).toNat = kind ∧ (r.bits.extractLsb' 48 8).toNat = unit ∧ (r.bits.extractLsb' 46 2).toNat = stack ∧
    r.bits.extractLsb' 64 64 = loc ∧ r.bits.getLsbD 32 = injected

/-- The point that a change of operating point leads to, with issue paused for 30 µs where it is another (R387). -/
def atPoint (s : State) (p : Power) (point : Nat) : Power :=
  if p.point = point then p else { p with point := point, paused := some (s.clock + 30 * Config.cyclesPerUs) }

/-- A halted path that a debugger lets go on (R354). -/
def Released (p q : Path) (step : Bool) : Prop :=
  q.hold = .none ∧ q.skipBreak = true ∧ q.stepping = step ∧ q.pc = p.pc ∧ q.mask = p.mask ∧ q.latches = p.latches

/-! ### The host's registers and commands -/

/-- The next command of the host to start is `c`, of an OP (R378, R380). -/
def CommandReady (s : State) (op : Nat) (c : Command) : Prop :=
  s.hostq.commands.find? (fun x => !x.started) = some c ∧ c.op = op ∧ c.seq ≠ 0

/-- A command has completed with a status (R381): it is no longer outstanding, and its completion entry is held until it is written. -/
def HostDone (s t : State) (c : Command) (status : Nat) : Prop :=
  t.hostq.commands = (s.hostq.commands.filter fun x => x.seq != c.seq) ∧
  ∃ x, t.hostq.heldCpl = s.hostq.heldCpl ++ [x] ∧ x.seq = c.seq ∧ x.status = status ∧ x.launch = 0

/-- A command has started, and waits for some accesses. -/
def HostStarted (s t : State) (c : Command) (gate : List (Nat × Nat)) : Prop :=
  t.hostq = { s.hostq with
    commands := replaceFirst (fun x => x.seq == c.seq) (fun x => { x with started := true, gate := gate }) s.hostq.commands }

/-- The address of a host address (R116): region 8 of the own package. -/
def hostAddress (s : State) (a : Nat) : Nat := s.pkg * 2 ^ 52 + 8 * 2 ^ 48 + a % 2 ^ 48

/-- Bytes stand at an address of memory, and no other byte of memory has changed. -/
def BytesPut (s t : State) (a : Nat) (bs : List Byte) : Prop :=
  (∀ i < bs.length, byteAt t.mem (a + i) = bs.getD i 0) ∧ ∀ x, (x < a ∨ a + bs.length ≤ x) → byteAt t.mem x = byteAt s.mem x

/-- The 32 bytes of a completion entry (R381): RESULT, STATUS, the LAUNCHID, the SEQ and the CSEQ. -/
def cplBytes (x : Completion) (cseq : Dword) : List Byte :=
  bytesOf 32 (x.result.toNat + x.status * 2 ^ 64 + x.launch.toNat * 2 ^ 96 + x.seq.toNat * 2 ^ 128 + cseq.toNat * 2 ^ 192)

/-- The slot of a completion entry in its ring (R379, R381). -/
def cplSlot (s : State) (cseq : Dword) : Nat := hostAddress s (s.hostq.dqBase.toNat + 32 * (cseq.toNat % 2 ^ s.hostq.dqLog))

/-- No fault record of a context is held (R130). -/
def NoneHeld (s : State) (context : Nat) : Prop := ∀ k < 4, ∀ r ∈ (s.stack k).held, r.context ≠ context

/-! ### Tables of the ALU instructions: what the spec's entry says of each, written out from it -/

/-- A two-operand scalar instruction and its result (R530). -/
def scalarRows : List ((BitVec 6 → BitVec 8 → BitVec 8 → Instr) × (Dword → Dword → Dword)) :=
  [(.sadd, fun x y => BitVec.ofNat 64 (x.toNat + y.toNat)),
   (.ssub, fun x y => BitVec.ofInt 64 (x.toNat - y.toNat)),
   (.smul, fun x y => BitVec.ofNat 64 (x.toNat * y.toNat)),
   (.sand, fun x y => x &&& y),
   (.sor, fun x y => x ||| y),
   (.sxor, fun x y => x ^^^ y),
   (.sshl, fun x y => BitVec.ofNat 64 (x.toNat * 2 ^ min y.toNat 64)),
   (.sshr, fun x y => BitVec.ofNat 64 (x.toNat / 2 ^ min y.toNat 64)),
   (.ssar, fun x y => BitVec.ofInt 64 (x.toInt / 2 ^ min y.toNat 64))]

/-- An integer kept within 32 bits of two's complement. -/
def clampSigned (i : Int) : Word := BitVec.ofInt 32 (if i < -2 ^ 31 then -2 ^ 31 else if 2 ^ 31 - 1 < i then 2 ^ 31 - 1 else i)

/-- An integer kept within 32 unsigned bits. -/
def clampUnsigned (i : Int) : Word := BitVec.ofInt 32 (if i < 0 then 0 else if 2 ^ 32 - 1 < i then 2 ^ 32 - 1 else i)

/-- The bit field of BFE (R429): its offset is in bits 4 to 0 of B, its length in bits 13 to 8, at most what lies above the offset. -/
def fieldBits (a b : Word) : Nat := a.toNat / 2 ^ (b.toNat % 32) % 2 ^ min (b.toNat / 256 % 64) (32 - b.toNat % 32)

/-- A two-source instruction on the 32 bits of each lane: the tags that A and B may carry, the result's tag, the result of a lane (R423, R424,
R429, R430, R486, R489, R490, R535). -/
structure BitRow where
  instr : BitVec 1 → BitVec 7 → BitVec 8 → BitVec 8 → Instr
  okA : List (BitVec 4)
  okB : List (BitVec 4)
  tag : BitVec 4
  result : Word → Word → Word

/-- The two-source vector logic, shift, bit-field and integer instructions of fixed type. -/
def bitRows : List BitRow :=
  [⟨.and, anyTag, anyTag, 0, fun x y => x &&& y⟩,
   ⟨.or, anyTag, anyTag, 0, fun x y => x ||| y⟩,
   ⟨.xor, anyTag, anyTag, 0, fun x y => x ^^^ y⟩,
   ⟨.shl, anyTag, anyTag, 0, fun x y => BitVec.ofNat 32 (x.toNat * 2 ^ min y.toNat 32)⟩,
   ⟨.shr, anyTag, anyTag, 0, fun x y => BitVec.ofNat 32 (x.toNat / 2 ^ min y.toNat 32)⟩,
   ⟨.sar, anyTag, anyTag, 0, fun x y => BitVec.ofInt 32 (x.toInt / 2 ^ min y.toNat 32)⟩,
   ⟨.bfeN32, anyTag, [4, 5, 0], 5, fun x y => BitVec.ofNat 32 (fieldBits x y)⟩,
   ⟨.bfeI32, anyTag, [4, 5, 0], 4, fun x y =>
     let n := min (y.toNat / 256 % 64) (32 - y.toNat % 32)
     BitVec.ofInt 32 (if n ≠ 0 ∧ 2 ^ (n - 1) ≤ fieldBits x y then (fieldBits x y : Int) - 2 ^ n else fieldBits x y)⟩,
   ⟨.iaddsI32, [4], [4], 4, fun x y => clampSigned (x.toInt + y.toInt)⟩,
   ⟨.iaddsN32, [5], [5], 5, fun x y => clampUnsigned (x.toNat + y.toNat)⟩,
   ⟨.isubsI32, [4], [4], 4, fun x y => clampSigned (x.toInt - y.toInt)⟩,
   ⟨.isubsN32, [5], [5], 5, fun x y => clampUnsigned ((x.toNat : Int) - y.toNat)⟩,
   ⟨.imulhI32, [4], [4], 4, fun x y => BitVec.ofInt 32 (x.toInt * y.toInt / 2 ^ 32)⟩,
   ⟨.imulhN32, [5], [5], 5, fun x y => BitVec.ofNat 32 (x.toNat * y.toNat / 2 ^ 32)⟩,
   ⟨.iminI32, [4], [4], 4, fun x y => BitVec.ofInt 32 (min x.toInt y.toInt)⟩,
   ⟨.iminN32, [5], [5], 5, fun x y => BitVec.ofNat 32 (min x.toNat y.toNat)⟩,
   ⟨.imaxI32, [4], [4], 4, fun x y => BitVec.ofInt 32 (max x.toInt y.toInt)⟩,
   ⟨.imaxN32, [5], [5], 5, fun x y => BitVec.ofNat 32 (max x.toNat y.toNat)⟩]

/-- An instruction whose type is the tag of its operands (R484): whether D is a source too, and the result of a lane. -/
def typedRows : List ((BitVec 1 → BitVec 7 → BitVec 8 → BitVec 8 → Instr) × Bool × (Word → Word → Word → Word)) :=
  [(.iadd, false, fun x y _ => BitVec.ofNat 32 (x.toNat + y.toNat)),
   (.isub, false, fun x y _ => BitVec.ofInt 32 ((x.toNat : Int) - y.toNat)),
   (.imul, false, fun x y _ => BitVec.ofNat 32 (x.toNat * y.toNat)),
   (.imad, true, fun x y z => BitVec.ofNat 32 (x.toNat * y.toNat + z.toNat))]

/-- A one-source instruction on the 32 bits of each lane: the EXT.MOD bits that it honours beside the banks and the predicate, the tags that A may
carry, the result's tag, the result of a lane with .sat or without (R423, R441, R483). -/
def bitRows1 : List ((BitVec 1 → BitVec 7 → BitVec 8 → Instr) × BitVec 20 × List (BitVec 4) × BitVec 4 × (Bool → Word → Word)) :=
  [(.not, 0, anyTag, 0, fun _ x => ~~~x),
   (.clz, 0, anyTag, 5, fun _ x => BitVec.ofNat 32 (if x.toNat = 0 then 32 else 31 - Nat.log2 x.toNat)),
   (.popc, 0, anyTag, 5, fun _ x => BitVec.ofNat 32 ((List.range 32).filter fun i => x.getLsbD i).length),
   (.iabs, 0x08000, [4], 4, fun sat x =>
     if x.toInt = -2 ^ 31 then (if sat then 0x7FFFFFFF else 0x80000000) else BitVec.ofInt 32 (if x.toInt < 0 then -x.toInt else x.toInt))]

/-- A condition code on two integers (R405): codes 0 to 5 compare as the type says, 6 to 9 unsigned. -/
def condition (cc : Nat) (x y : Int) (u v : Nat) : Bool :=
  match cc with
  | 0 => x == y
  | 1 => x != y
  | 2 => decide (x < y)
  | 3 => decide (x ≤ y)
  | 4 => decide (x > y)
  | 5 => decide (x ≥ y)
  | 6 => decide (u < v)
  | 7 => decide (u ≤ v)
  | 8 => decide (u > v)
  | _ => decide (u ≥ v)

/-! ### Tables of the float instructions -/

/-- An F32 instruction of two sources: the EXT.MOD bits that it honours beside the banks and the predicate, and its exact result of operands as
read, NEG and ABS applied (R462, R472, R473). -/
def floatRows2 : List ((BitVec 1 → BitVec 7 → BitVec 8 → BitVec 8 → Instr) × BitVec 20 × (Nat → FVal → FVal → FVal)) :=
  [(.fadd, 0xFF000, fun rnd x y => x.add rnd y),
   (.fsub, 0xFF000, fun rnd x y => x.add rnd y.neg),
   (.fmul, 0xFF000, fun _ x y => x.mul y),
   (.fmin, 0xF9000, fun _ x y => x.min y),
   (.fmax, 0xF9000, fun _ x y => x.max y)]

/-- An F32 instruction of three sources, the third the old value of D, to which NEG and ABS do not apply (R463, R471). -/
def floatRows3 : List ((BitVec 1 → BitVec 7 → BitVec 8 → BitVec 8 → Instr) × BitVec 20 × (Nat → FVal → FVal → FVal → FVal)) :=
  [(.ffma, 0xFF000, fun rnd x y z => (x.mul y).add rnd z),
   (.fclamp, 0xF9000, fun _ x y z => (z.max x).min y)]

/-- An F32 instruction of one source that rounds its exact result once (R461, R470, R474). -/
def floatRows1 : List ((BitVec 1 → BitVec 7 → BitVec 8 → Instr) × BitVec 20 × (FVal → FVal)) :=
  [(.fabs, 0xC9000, FVal.abs),
   (.fneg, 0xC9000, FVal.neg),
   (.frcp, 0xCF000, recipVal),
   (.fsqrt, 0xCF000, sqrtVal)]

/-- A transcendental (R470): its result before FTZ, of the input's bits and value. -/
def transRows : List ((BitVec 1 → BitVec 7 → BitVec 8 → Instr) × (Ctx → Word → FVal → Nat)) :=
  [(.fexp2, fun c x v => exp2Code x c.transMods (c.modBit 15) v),
   (.flog2, fun c x v => log2Code x c.transMods (c.modBit 15) v),
   (.frsq, fun c x v => rsqrtCode x c.transMods (c.modBit 15) v),
   (.ftanh, fun c x v => tanhCode x c.transMods v)]

/-- A packed 16-bit instruction: its format's code, whether D is a third source, its exact result of an element (R482). -/
def packedRows : List ((BitVec 1 → BitVec 7 → BitVec 8 → BitVec 8 → Instr) × Nat × Bool × (Nat → FVal → FVal → FVal → FVal)) :=
  [(.hadd2F16, 2, false, fun rnd x y _ => x.add rnd y),
   (.hadd2Bf16, 3, false, fun rnd x y _ => x.add rnd y),
   (.hmul2F16, 2, false, fun _ x y _ => x.mul y),
   (.hmul2Bf16, 3, false, fun _ x y _ => x.mul y),
   (.hfma2F16, 2, true, fun rnd x y z => (x.mul y).add rnd z),
   (.hfma2Bf16, 3, true, fun rnd x y z => (x.mul y).add rnd z)]

end Sys2Proof.Claims

open Sys2Proof.Claims

/-! ### Scalar instructions -/

/-- R530, R531: SADD, SSUB, SMUL, SAND, SOR, SXOR, SSHL, SSHR and SSAR. Wherever such an instruction is issued with its operands arrived and
passes its checks, it completes: it writes the table's result of its two 64-bit operands to sD (s0 discards it), pushes it into the
path's latches, and changes nothing else. -/
def Obligations.ScalarArithmeticWritesItsResult : Prop :=
  ∀ r ∈ scalarRows, ∀ (d : BitVec 6) (a b : BitVec 8) (s : State) (c : Ctx),
    Passes s (r.1 d a b) { kinds := kindsS, opnds := [opS 1 a, opS 2 b] } c →
    ∃ t, exec (r.1 d a b) s = .next t ∧
      ScalarResult s t c d.toNat (r.2 (source s c (opS 1 a)).wide (source s c (opS 2 b)).wide)

/-- R530, R532, R557, R521, R538: SMOV writes its operand, SMOVI its sign-extended immediate, VOTE what its mode says of the acting lanes that have
the predicate set, REDL the tree of R98 over the acting lanes with the operator's identity elsewhere (where WS is 1 it writes no
register), SRDL one lane by its tag (of a register tagged W64 the pair's); SCMP writes a uniform condition to its predicate in the acting lanes. Each completes wherever it
is issued and passes its checks, and changes nothing else. -/
def Obligations.ScalarMovesAndLaneReductions : Prop :=
  (∀ (d : BitVec 6) (a : BitVec 8) (s : State) (c : Ctx), Passes s (.smov d a) { kinds := kindsS, opnds := [opS 1 a] } c →
    ∃ t, exec (.smov d a) s = .next t ∧ ScalarResult s t c d.toNat (source s c (opS 1 a)).wide) ∧
  (∀ (d : BitVec 6) (i : BitVec 16) (s : State) (c : Ctx), Passes s (.smovi d i) { kinds := kindsS } c →
    ∃ t, exec (.smovi d i) s = .next t ∧ ScalarResult s t c d.toNat (BitVec.ofInt 64 i.toInt)) ∧
  (∀ (d : BitVec 6) (p : BitVec 3) (b : BitVec 8) (s : State) (c : Ctx), Passes s (.vote d p b) { kinds := 0x10 } c →
    let m := c.acting &&& c.w.preg p.toNat
    let r : Nat :=
      if b = 0 then m.toNat
      else if b = 1 then (if m = 0 then 0 else 1)
      else if b = 2 then (if m = c.acting then 1 else 0)
      else if b = 3 then ((List.range 32).filter fun L => m.getLsbD L).length
      else ((List.range 32).find? fun L => m.getLsbD L).getD 32
    ∃ t, exec (.vote d p b) s = .next t ∧ ScalarResult s t c d.toNat (BitVec.ofNat 64 r)) ∧
  (∀ (ws : BitVec 1) (d : BitVec 6) (a b : BitVec 8) (s : State) (c : Ctx),
    Passes s (.redl ws d a b) { kinds := 0x10, opnds := [opS 1 a], tags := fun c => need c (opS 1 a) (redlTags b.toNat) } c →
    let r := reduceTree (redlOp b.toNat)
      ((List.range 32).map fun L => if c.acting.getLsbD L then (source s c (opS 1 a)).bits L else redlIdentity b.toNat)
    ∃ t, exec (.redl ws d a b) s = .next t ∧ ScalarResult s t c (if ws = 1 then 0 else d.toNat)
      (if b = 4 ∨ b = 5 ∨ (b = 3 ∧ tagOf c (opS 1 a) = some 4) then r.signExtend 64 else r.setWidth 64)) ∧
  (∀ (d : BitVec 6) (a b : BitVec 8) (s : State) (c : Ctx),
    let oa := srdlA a s
    Passes s (.srdl d a b) { kinds := kindsS, opnds := [oa, opS 2 b], fields := fun _ => !(oa.regs == 2 && a == 127) } c →
    let L := (source s c (opS 2 b)).wide.toNat % 32
    ∃ t, exec (.srdl d a b) s = .next t ∧
      (∀ v, source s c (opS 1 a) = .tagged 4 v → ScalarResult s t c d.toNat ((lane v L).signExtend 64)) ∧
      (∀ v, source s c (opS 1 a) = .tagged 0xF v → ScalarResult s t c d.toNat
        (if selIsVec a then (lane (regLanes s c (a.toNat + 1)) L) ++ (lane v L) else (lane v 1) ++ (lane v 0))) ∧
      (∀ tag v, tag ≠ 4 → tag ≠ 0xF → source s c (opS 1 a) = .tagged tag v →
        ScalarResult s t c d.toNat ((lane v L).setWidth 64))) ∧
  (∀ (cc : BitVec 4) (p : BitVec 3) (m : BitVec 1) (a b : BitVec 8) (s : State) (c : Ctx),
    Passes s (.scmp cc p m a b) { kinds := kindsP, modMask := 0x001E0, opnds := [opS 1 a, opS 2 b] } c →
    let x := (source s c (opS 1 a)).wide
    let y := (source s c (opS 2 b)).wide
    let r := condition cc.toNat x.toInt y.toInt x.toNat y.toNat
    ∃ t, exec (.scmp cc p m a b) s = .next t ∧
      CompareResult s t c p.toNat m (fun _ => r) 0xF 0xFFFFFFFF (fun _ => if r then 0xFFFFFFFF else 0))

/-! ### Vector integer and logic instructions -/

/-- R423, R424, R429, R430, R486, R489, R490, R535: each two-source logic, shift, bit-field or integer instruction of fixed type completes wherever it
is issued, passes its checks (its operands' tags among them) and no bound check applies: the acting lanes of D receive the table's
result of the lanes of A and B and the other lanes keep theirs, D is tagged as the table says (with WS only the latches receive it), and
nothing else changes. -/
def Obligations.VectorBitInstructionsWriteTheirResults : Prop :=
  ∀ r ∈ bitRows, ∀ (w : BitVec 1) (d : BitVec 7) (a b : BitVec 8) (s : State) (c : Ctx),
    Passes s (r.instr w d a b)
      (specA [opD d, opA a, opB b] 0 (fun c => need c (opA a) r.okA ++ need c (opB b) r.okB) fun _ => r.tag) c →
    Unbounded s c →
    ∃ t, exec (r.instr w d a b) s = .next t ∧
      VectorResult s t c c.acting (w == 1) ((opD d).reg c)
        [(r.tag, fun L => r.result ((source s c (opA a)).bits L) ((source s c (opB b)).bits L))]

/-- R484, R485, R488, R490: IADD, ISUB, IMUL and IMAD take their type from the first of A and B that names a register or latch, and otherwise from
none (I32); they complete with the 32-bit result in the acting lanes, tagged with that type. -/
def Sys2Proof.Claims.TypedIntegerInstructionsWriteTheirResultsPart : Prop :=
  ∀ r ∈ typedRows, ∀ (w : BitVec 1) (d : BitVec 7) (a b : BitVec 8) (s : State) (c : Ctx),
    Passes s (r.1 w d a b)
      (specA [opD d, opA a, opB b] 0
        (fun c => (if r.2.1 then need c (opD d) [intType c a b] else []) ++ need c (opA a) [intType c a b] ++ need c (opB b) [intType c a b])
        fun c => intType c a b) c →
    Unbounded s c →
    ∃ t, exec (r.1 w d a b) s = .next t ∧
      VectorResult s t c c.acting (w == 1) ((opD d).reg c)
        [(intType c a b, fun L => r.2.2 ((source s c (opA a)).bits L) ((source s c (opB b)).bits L)
          (lane (regLanes s c ((opD d).reg c)) L))]

/-- R423, R441, R483, R429: NOT, CLZ, POPC and IABS of each acting lane (.sat keeps the most negative number from wrapping), and BFI, which replaces the
field of D that B names by the low bits of A. -/
def Sys2Proof.Claims.OneSourceIntegerAndBitfieldInsertPart : Prop :=
  (∀ r ∈ bitRows1, ∀ (w : BitVec 1) (d : BitVec 7) (a : BitVec 8) (s : State) (c : Ctx),
    Passes s (r.1 w d a) (specA [opD d, opA a] r.2.1 (fun c => need c (opA a) r.2.2.1) fun _ => r.2.2.2.1) c →
    Unbounded s c →
    ∃ t, exec (r.1 w d a) s = .next t ∧
      VectorResult s t c c.acting (w == 1) ((opD d).reg c)
        [(r.2.2.2.1, fun L => r.2.2.2.2 (c.modBit 15) ((source s c (opA a)).bits L))]) ∧
  (∀ (w : BitVec 1) (d : BitVec 7) (a b : BitVec 8) (s : State) (c : Ctx),
    Passes s (.bfi w d a b)
      (specA [opD d, opA a, opB b] 0
        (fun c => need c (opD d) anyTag ++ need c (opA a) anyTag ++ need c (opB b) [4, 5, 0]) fun _ => 0) c →
    Unbounded s c →
    ∃ t, exec (.bfi w d a b) s = .next t ∧
      VectorResult s t c c.acting (w == 1) ((opD d).reg c)
        [(0, fun L =>
          let y := ((source s c (opB b)).bits L).toNat
          let o := y % 32
          let m : Word := BitVec.ofNat 32 ((2 ^ min (y / 256 % 64) (32 - o) - 1) * 2 ^ o)
          (lane (regLanes s c ((opD d).reg c)) L &&& ~~~m) ||| (((source s c (opA a)).bits L <<< o) &&& m))])

/-- The vector integer instructions write their results: those with a type, those of one source, and the insertion of a bit field. -/
def Obligations.VectorIntegerInstructionsWriteTheirResults : Prop :=
  Sys2Proof.Claims.TypedIntegerInstructionsWriteTheirResultsPart ∧ Sys2Proof.Claims.OneSourceIntegerAndBitfieldInsertPart

/-- R487, R459, R464: ICMP and FCMP write their predicate in the acting lanes (combined with its old value where M is 1), push lanes of ones and zeros
into the latches, and change nothing else. -/
def Obligations.VectorComparesWriteTheirPredicate : Prop :=
  (∀ r ∈ [((Instr.icmpI32), (4 : BitVec 4), true), ((Instr.icmpN32), (5 : BitVec 4), false)],
    ∀ (cc : BitVec 4) (p : BitVec 3) (m : BitVec 1) (a b : BitVec 8) (s : State) (c : Ctx),
    Passes s (r.1 cc p m a b)
      { kinds := kindsP, modMask := modPlain, opnds := [opA a, opB b], tags := fun c => need c (opA a) [r.2.1] ++ need c (opB b) [r.2.1] } c →
    let cond (L : Nat) : Bool :=
      let x := (source s c (opA a)).bits L
      let y := (source s c (opB b)).bits L
      condition cc.toNat (if r.2.2 then x.toInt else x.toNat) (if r.2.2 then y.toInt else y.toNat) x.toNat y.toNat
    ∃ t, exec (r.1 cc p m a b) s = .next t ∧
      CompareResult s t c p.toNat m cond 0 c.acting (fun L => if cond L then 0xFFFFFFFF else 0)) ∧
  (∀ (cc : BitVec 4) (p : BitVec 3) (m : BitVec 1) (a b : BitVec 8) (s : State) (c : Ctx),
    Passes s (.fcmp cc p m a b)
      { kinds := kindsP, modMask := modPlain ||| modNegAB ||| modFtz, opnds := [opA a, opB b],
        tags := fun c => need c (opA a) [1] ++ need c (opB b) [1] } c →
    let cond (L : Nat) : Bool := condFloat cc.toNat (c.va ((source s c (opA a)).float L)) (c.vb ((source s c (opB b)).float L))
    ∃ t, exec (.fcmp cc p m a b) s = .next t ∧
      CompareResult s t c p.toNat m cond 0 c.acting (fun L => if cond L then 0xFFFFFFFF else 0))

/-! ### Moves -/

/-- R499, R500, R533, R534, R495: MOV writes the 32 bits of A (tagged as it names, or as A, or RAW), MOVI its sign-extended immediate tagged I32, SHFL
the lane that B names, LEA a base plus an index into a pair tagged W64; SEL, whose predicate masks no lane, chooses between A and B in every
lane active in its strand. Each completes wherever it is issued, passes its checks and no bound check applies. -/
def Obligations.MovesAndShufflesWriteTheirResults : Prop :=
  (∀ (w : BitVec 1) (d : BitVec 7) (a : BitVec 8) (r : BitVec 1) (k : BitVec 4) (s : State) (c : Ctx),
    let tag (c : Ctx) : BitVec 4 := if r == 1 then k else (tagOf c (opA a)).getD 0
    Passes s (.mov w d a r k) (specA [opD d, opA a] 0 (fun _ => []) tag) c → Unbounded s c →
    ∃ t, exec (.mov w d a r k) s = .next t ∧
      VectorResult s t c c.acting (w == 1) ((opD d).reg c) [(tag c, (source s c (opA a)).bits)]) ∧
  (∀ (w : BitVec 1) (d : BitVec 7) (i : BitVec 16) (s : State) (c : Ctx),
    Passes s (.movi w d i) (specA [opD d] 0 (fun _ => []) fun _ => 4) c → Unbounded s c →
    ∃ t, exec (.movi w d i) s = .next t ∧
      VectorResult s t c c.acting (w == 1) ((opD d).reg c) [(4, fun _ => BitVec.ofInt 32 i.toInt)]) ∧
  (∀ (w : BitVec 1) (d : BitVec 7) (a b : BitVec 8) (s : State) (c : Ctx),
    Passes s (.sel w d a b) (specA [opD d, opA a, opB b] 0 (fun _ => []) fun c => selTag c a b) c → Unbounded s c →
    let chooses (L : Nat) : Bool := (c.w.preg (bits c.mod.toNat 6 3)).getLsbD L != c.modBit 5
    ∃ t, exec (.sel w d a b) s = .next t ∧
      VectorResult s t c c.active (w == 1) ((opD d).reg c)
        [(selTag c a b, fun L => if chooses L then (source s c (opA a)).bits L else (source s c (opB b)).bits L)]) ∧
  (∀ (w : BitVec 1) (d : BitVec 7) (a b : BitVec 8) (s : State) (c : Ctx),
    Passes s (.shfl w d a b)
      (specA [opD d, opA a, opB b] 0 (fun c => need c (opB b) [4, 5, 0]) fun c => (tagOf c (opA a)).getD 0) c → Unbounded s c →
    ∃ t, exec (.shfl w d a b) s = .next t ∧
      VectorResult s t c c.acting (w == 1) ((opD d).reg c)
        [((tagOf c (opA a)).getD 0, fun L => (source s c (opA a)).bits (((source s c (opB b)).bits L).toNat % 32))]) ∧
  (∀ (d : BitVec 7) (a b : BitVec 8) (s : State) (c : Ctx),
    let oa := if selIsVec a then (opA a).group 2 else opA a
    Passes s (.lea 0 d a b)
      { kinds := kindsA, modMask := modPlain, opnds := [(opD d).group 2, oa, opB b], resultTag := fun _ => 0xF,
        tags := fun c => needGroup c oa [0xF, 0] ++ need c (opB b) [4, 5, 0, 0xF] } c →
    let base (L : Nat) : Dword :=
      if selIsVec a then lane (regLanes s c (oa.reg c + 1)) L ++ lane (regLanes s c (oa.reg c)) L else (source s c oa).wideLane L
    let r (L : Nat) : Dword := base L + leaIndex (source s c (opB b)) L
    ∃ t, exec (.lea 0 d a b) s = .next t ∧
      VectorResult s t c c.acting false ((opD d).reg c)
        [(0xF, fun L => (r L).setWidth 32), (0xF, fun L => (r L >>> 32).setWidth 32)])

/-! ### Float instructions -/

/-- R462, R463, R471, R472, R473, R461, R470: FADD, FSUB, FMUL, FMIN, FMAX, FFMA, FCLAMP, FABS, FNEG, FRCP and FSQRT complete with the exact value of
their operands as read (FTZ, then ABS, then NEG), rounded once in the mode of EXT.MOD, with .sat and FTZ on the result, tagged F32. -/
def Obligations.FloatInstructionsRoundOnce : Prop :=
  (∀ r ∈ floatRows2, ∀ (w : BitVec 1) (d : BitVec 7) (a b : BitVec 8) (s : State) (c : Ctx),
    Passes s (r.1 w d a b) (specA [opD d, opA a, opB b] r.2.1 (fun c => need c (opA a) [1] ++ need c (opB b) [1]) fun _ => 1) c →
    Unbounded s c →
    ∃ t, exec (r.1 w d a b) s = .next t ∧
      VectorResult s t c c.acting (w == 1) ((opD d).reg c)
        [(1, fun L => BitVec.ofNat 32 (writeF .f32 c.rnd (c.modBit 15) (c.modBit 12)
          (r.2.2 c.rnd (c.fmod .f32 false ((source s c (opA a)).float L).toNat) (c.fmod .f32 true ((source s c (opB b)).float L).toNat))))]) ∧
  (∀ r ∈ floatRows3, ∀ (w : BitVec 1) (d : BitVec 7) (a b : BitVec 8) (s : State) (c : Ctx),
    Passes s (r.1 w d a b)
      (specA [opD d, opA a, opB b] r.2.1 (fun c => need c (opD d) [1] ++ need c (opA a) [1] ++ need c (opB b) [1]) fun _ => 1) c →
    Unbounded s c →
    ∃ t, exec (r.1 w d a b) s = .next t ∧
      VectorResult s t c c.acting (w == 1) ((opD d).reg c)
        [(1, fun L => BitVec.ofNat 32 (writeF .f32 c.rnd (c.modBit 15) (c.modBit 12)
          (r.2.2 c.rnd (c.fmod .f32 false ((source s c (opA a)).float L).toNat) (c.fmod .f32 true ((source s c (opB b)).float L).toNat)
            (readF .f32 (c.modBit 12) (lane (regLanes s c ((opD d).reg c)) L).toNat))))]) ∧
  (∀ r ∈ floatRows1, ∀ (w : BitVec 1) (d : BitVec 7) (a : BitVec 8) (s : State) (c : Ctx),
    Passes s (r.1 w d a) (specA [opD d, opA a] r.2.1 (fun c => need c (opA a) [1]) fun _ => 1) c →
    Unbounded s c →
    ∃ t, exec (r.1 w d a) s = .next t ∧
      VectorResult s t c c.acting (w == 1) ((opD d).reg c)
        [(1, fun L => BitVec.ofNat 32 (writeF .f32 c.rnd (c.modBit 15) (c.modBit 12)
          (r.2.2 (c.fmod .f32 false ((source s c (opA a)).float L).toNat))))])

/-- R470: FEXP2, FLOG2, FRSQ and FTANH complete with one of the values that the table permits (a fixed function of the input's bits and of the EXT.MOD
bits honoured; the model's choice among them is a free value, log 14), flushed under FTZ, tagged F32. -/
def Sys2Proof.Claims.TranscendentalsCompletePart : Prop :=
  ∀ r ∈ transRows, ∀ (w : BitVec 1) (d : BitVec 7) (a : BitVec 8) (s : State) (c : Ctx),
    Passes s (r.1 w d a) (specA [opD d, opA a] 0xC9000 (fun c => need c (opA a) [1]) fun _ => 1) c →
    Unbounded s c →
    ∃ t, exec (r.1 w d a) s = .next t ∧
      VectorResult s t c c.acting (w == 1) ((opD d).reg c)
        [(1, fun L =>
          let x := (source s c (opA a)).float L
          BitVec.ofNat 32 (flushF .f32 (c.modBit 12) (r.2 c x (c.fmod .f32 false x.toNat))))]

/-- R470, the table: whatever free choice the model makes (log 14), the result of FEXP2, FLOG2 and FRSQ lies within one place of the rounded reference
and that of FTANH within two; 2^n is exact for an integer n from -149 to 127, log2 of 2^n is n, 1/sqrt of 2^2n is 2^-n, and the
special values of the table hold. -/
def Sys2Proof.Claims.TranscendentalValuesMeetTheTablePart : Prop :=
  (∀ (x : Word) (m : Nat) (sat neg : Bool) (k : Nat) (e : Int), (FVal.fin neg k e).lt (.fin false 128 0) = true → k ≠ 0 →
    (FVal.fin neg k e).lt (.fin true 256 0) = false → (∀ i : Int, (ofInt i).eq (.fin neg k e) = false) →
    ∃ j : Int, -1 ≤ j ∧ j ≤ 1 ∧ exp2Code x m sat (.fin neg k e) = stepF32 (encodeF .f32 0 false (exp2Mag neg k e)) j) ∧
  (∀ (x : Word) (m : Nat) (sat : Bool) (k : Nat) (e : Int), k ≠ 2 ^ Nat.log2 k → k ≠ 0 →
    (∃ j : Int, -1 ≤ j ∧ j ≤ 1 ∧ log2Code x m sat (.fin false k e) = stepF32 (encodeF .f32 0 false (log2Mag k e)) j) ∧
    ∃ j : Int, -1 ≤ j ∧ j ≤ 1 ∧ rsqrtCode x m sat (.fin false k e) = stepF32 (encodeF .f32 0 false (rsqrtMag k e)) j) ∧
  (∀ (x : Word) (m : Nat) (k : Nat) (e : Int), k ≠ 0 → (FVal.fin false k e).lt (.fin false 9 0) = true →
    ∃ j : Int, -2 ≤ j ∧ j ≤ 2 ∧ tanhCode x m (.fin false k e) = stepF32 (encodeF .f32 0 false (tanhMag k e)) j) ∧
  (∀ (x : Word) (m : Nat) (sat : Bool) (n : Int), -149 ≤ n → n ≤ 127 → (ofInt n).eq (f32Val x) = true →
    exp2Code x m sat (f32Val x) = encodeF .f32 0 false (.fin false 1 n)) ∧
  (∀ (x : Word) (m : Nat) (sat : Bool), exp2Code x m sat (.inf true) = 0 ∧ exp2Code x m false (.inf false) = 0x7F800000 ∧
    exp2Code x m true (.inf false) = 0x7F7FFFFF ∧ exp2Code x m sat .nan = 0x7FC00000 ∧
    ∀ k e, exp2Code x m sat (.fin k 0 e) = 0x3F800000) ∧
  (∀ (x : Word) (m : Nat) (sat : Bool) (k : Nat) (e : Int), log2Code x m sat (.fin false (2 ^ k) e) = encodeF .f32 0 false (ofInt (k + e))) ∧
  (∀ (x : Word) (m : Nat) (sat neg : Bool) (k : Nat) (e : Int), log2Code x m false (.fin neg 0 e) = 0xFF800000 ∧
    log2Code x m sat (.fin true (k + 1) e) = 0x7FC00000 ∧ log2Code x m sat (.inf true) = 0x7FC00000 ∧
    log2Code x m false (.inf false) = 0x7F800000 ∧ log2Code x m sat .nan = 0x7FC00000) ∧
  (∀ (x : Word) (m : Nat) (sat : Bool) (k : Nat) (e n : Int), k + e = 2 * n →
    rsqrtCode x m sat (.fin false (2 ^ k) e) = encodeF .f32 0 false (.fin false 1 (-n))) ∧
  (∀ (x : Word) (m : Nat) (sat : Bool) (k : Nat) (e : Int), rsqrtCode x m false (.fin false 0 e) = 0x7F800000 ∧
    rsqrtCode x m false (.fin true 0 e) = 0xFF800000 ∧ rsqrtCode x m sat (.fin true (k + 1) e) = 0x7FC00000 ∧
    rsqrtCode x m sat (.inf true) = 0x7FC00000 ∧ rsqrtCode x m sat (.inf false) = 0 ∧ rsqrtCode x m sat .nan = 0x7FC00000) ∧
  (∀ (x : Word) (m : Nat) (e : Int), tanhCode x m (.fin false 0 e) = 0 ∧ tanhCode x m (.fin true 0 e) = 0x80000000 ∧
    tanhCode x m (.inf false) = 0x3F800000 ∧ tanhCode x m (.inf true) = 0xBF800000 ∧ tanhCode x m .nan = 0x7FC00000) ∧
  (∀ (x : Word) (m : Nat) (neg : Bool) (k : Nat) (e : Int), k ≠ 0 → (FVal.fin false k e).lt (.fin false 9 0) = false →
    tanhCode x m (.fin neg k e) = if neg then 0xBF800000 else 0x3F800000)

/-- The transcendental instructions complete, and their results lie as near the exact values as the table says. -/
def Obligations.TranscendentalsCompleteAndMeetTheTable : Prop :=
  Sys2Proof.Claims.TranscendentalsCompletePart ∧ Sys2Proof.Claims.TranscendentalValuesMeetTheTablePart

/-- R482: the packed 16-bit instructions act on each of the two elements of a lane, rounded once in the instruction's mode, with .sat and FTZ; FTZ alone
acts on the third source. -/
def Obligations.PackedHalfInstructionsRoundEachElement : Prop :=
  ∀ r ∈ packedRows, ∀ (w : BitVec 1) (d : BitVec 7) (a b : BitVec 8) (s : State) (c : Ctx),
    let tag := BitVec.ofNat 4 r.2.1
    let fmt : FFmt := if r.2.1 == 2 then .f16 else .bf16
    Passes s (r.1 w d a b)
      (specA [opD d, opA a, opB b] 0xFF000
        (fun c => (if r.2.2.1 then need c (opD d) [tag] ++ need c (opA a) [tag] else need c (opA a) [tag]) ++ need c (opB b) [tag])
        fun _ => tag) c →
    Unbounded s c →
    ∃ t, exec (r.1 w d a b) s = .next t ∧
      VectorResult s t c c.acting (w == 1) ((opD d).reg c)
        [(tag, fun L =>
          let elem (j : Nat) : BitVec 16 :=
            let x := c.fmod fmt false (((source s c (opA a)).packed r.2.1 L).toNat / 2 ^ (16 * j) % 2 ^ 16)
            let y := c.fmod fmt true (((source s c (opB b)).packed r.2.1 L).toNat / 2 ^ (16 * j) % 2 ^ 16)
            let z := readF fmt (c.modBit 12) ((lane (regLanes s c ((opD d).reg c)) L).toNat / 2 ^ (16 * j) % 2 ^ 16)
            BitVec.ofNat 16 (writeF fmt c.rnd (c.modBit 15) (c.modBit 12) (r.2.2.2 c.rnd x y z))
          elem 1 ++ elem 0)]

/-! ### Conversions -/

/-- R450, R451, R452, R513, R514, R515: CVT converts element g of the source group to element g of the result group in each acting lane (the 64-bit code
uses a pair). QCVT quantises the blocks of a row of wide elements into one compact register and its plane register, and QUNP undoes it,
in every lane. Each completes wherever it is issued, passes its checks and no bound check applies. -/
def Sys2Proof.Claims.ConversionsWriteTheirGroupsPart : Prop :=
  (∀ (w : BitVec 1) (d : BitVec 7) (a : BitVec 8) (r k : BitVec 4) (s : State) (c : Ctx),
    let oa := (opA a).group (if selIsVec a then cvtSrcRegs r.toNat k.toNat else 1)
    let od := (opD d).group (cvtDstRegs r.toNat k.toNat)
    Passes s (.cvt w d a r k)
      { kinds := kindsA, modMask := modPlain ||| 0x0F000, opnds := [od, oa], resultTag := fun _ => r, tags := fun c => needGroup c oa [k] } c →
    Unbounded s c →
    let put (L g : Nat) : Nat := writeElem r.toNat c.rnd (c.modBit 15) (c.modBit 12) (cvtSource s c oa k.toNat L g)
    ∃ t, exec (.cvt w d a r k) s = .next t ∧
      VectorResult s t c c.acting (w == 1) (od.reg c)
        (if r = 0xF then [(r, fun L => BitVec.ofNat 32 (put L 0)), (r, fun L => BitVec.ofNat 32 (put L 0 / 2 ^ 32))]
         else (List.range (cvtDstRegs r.toNat k.toNat)).map fun q =>
           (r, fun L => laneOfElems r.toNat fun i => put L (q * elemsOf r.toNat + i)))) ∧
  (∀ (d : BitVec 7) (a : BitVec 8) (r k : BitVec 4) (s : State) (c : Ctx),
    let m := elemsOf r.toNat / elemsOf k.toNat
    let oa := (opA a).group m
    Passes s (.qcvt 0 d a r k)
      { kinds := kindsA, modMask := 0x0FE00, opnds := [(opD d).group 2, oa], fullMask := true, resultTag := fun _ => r,
        tags := fun c => needGroup c oa [k] } c →
    Unbounded s c →
    let wide (x : Nat) : FVal :=
      let e := elemsOf k.toNat
      let word := lane (regLanes s c (oa.reg c + x / (32 * e))) (x % (32 * e) / e)
      match readElem k.toNat (c.modBit 12) (elemOf k.toNat word (x % e)) with | .real v => v | .int i => ofInt i
    let block (b : Nat) : QBlock := quantise r.toNat ((List.range 16).map fun i => wide (16 * b + i))
    let n := 2 * elemsOf r.toNat
    ∃ t, exec (.qcvt 0 d a r k) s = .next t ∧
      VectorResult s t c 0xFFFFFFFF false ((opD d).reg c)
        [(r, fun L => laneOfElems r.toNat fun j =>
            let x := L * elemsOf r.toNat + j
            (block (x / 16)).elems.getD (x % 16) 0),
         (0, lane (planeLanes ((List.range n).map block)))]) ∧
  (∀ (d : BitVec 7) (a : BitVec 8) (r k : BitVec 4) (s : State) (c : Ctx),
    let oa := (opA a).group 2
    let od := (opD d).group (elemsOf k.toNat / elemsOf r.toNat)
    Passes s (.qunp 0 d a r k)
      { kinds := kindsA, modMask := 0x0FE00, opnds := [od, oa], fullMask := true, resultTag := fun _ => r,
        tags := fun c => need c (opA a) [k] } c →
    Unbounded s c →
    let data := regLanes s c (oa.reg c)
    let plane := regLanes s c (oa.reg c + 1)
    let elem (x : Nat) : Nat :=
      let word := lane data (x / elemsOf k.toNat)
      let scale := (lane plane (x / 16 / 4)).toNat / 2 ^ (8 * (x / 16 % 4)) % 256
      let tag := (lane plane 4).toNat / 2 ^ (2 * (x / 16)) % 4
      writeElem r.toNat c.rnd (c.modBit 15) (c.modBit 12)
        (.real (scaledVal (k == 0xA || k == 0xB || k == 8) tag scale (elemOf k.toNat word (x % elemsOf k.toNat))))
    ∃ t, exec (.qunp 0 d a r k) s = .next t ∧
      VectorResult s t c 0xFFFFFFFF false (od.reg c)
        ((List.range od.regs).map fun q =>
          (r, fun L => laneOfElems r.toNat fun i => elem ((q * 32 + L) * elemsOf r.toNat + i))))

/-- R92: quantising a block of 16 values. A block of zeros takes tag 3, scale 0 and zero elements; one with a NaN or an infinity takes scale 0xFF, zero
elements and the tag of its format; any other takes that tag, the smallest scale byte from 0 to 254 at which its largest magnitude fits the
format (254 where none does), and each element divided by the scale, rounded and saturated. -/
def Sys2Proof.Claims.QuantisationTakesTheSmallestScaleThatFitsPart : Prop :=
  ∀ (code : Nat) (x : List FVal), compactCode code = true → x.length = 16 →
    let q := quantise code x
    let a := x.foldl (fun m v => m.max v.abs) (.fin false 0 0)
    (x.all FVal.isZero = true → q = { tag := 3, scale := 0, elems := List.replicate 16 0 }) ∧
    (x.any FVal.notFinite = true → q = { tag := compactTag code, scale := 0xFF, elems := List.replicate 16 0 }) ∧
    (x.all FVal.isZero = false → x.any FVal.notFinite = false →
      q.tag = compactTag code ∧ q.scale ≤ 254 ∧
      (∀ e < q.scale, ((compactMax code).scale ((e : Int) - 127)).lt a = true) ∧
      (((compactMax code).scale ((q.scale : Int) - 127)).lt a = true → q.scale = 254) ∧
      q.elems = x.map fun v => compactElem code (v.scale (127 - (q.scale : Int))))

/-- Conversions write each element of their groups, and quantisation takes the smallest scale that fits. -/
def Obligations.ConversionsAndQuantisationWriteTheirResults : Prop :=
  Sys2Proof.Claims.ConversionsWriteTheirGroupsPart ∧ Sys2Proof.Claims.QuantisationTakesTheSmallestScaleThatFitsPart

/-! ### Rounding -/

/-- R76, R86: decoding and encoding a finite value of a format gives its code back, in every rounding mode: a value that the format holds is not changed
by rounding. Rounding to nearest: where a finite value rounds to a finite code in RNE, no code of the format lies nearer to it, and where another lies
as near, the code chosen has an even fraction. Distances are compared in units of the least exponent that occurs. -/
def Obligations.RoundingKeepsValuesAndFindsTheNearest : Prop :=
  (∀ (f : FFmt) (mode : Nat) (sat : Bool) (x : Nat), x < 2 ^ f.width →
    ∀ neg m e, decodeF f x = .fin neg m e → encodeF f mode sat (decodeF f x) = x) ∧
  ∀ (f : FFmt) (neg : Bool) (m : Nat) (e : Int), m ≠ 0 →
    ∀ n' m' e', decodeF f (encodeF f 0 false (.fin neg m e)) = .fin n' m' e' →
    ∀ y < 2 ^ f.width, ∀ n'' m'' e'', decodeF f y = .fin n'' m'' e'' →
      let q := min e (min e' e'')
      let near := (units neg m e q - units n' m' e' q).natAbs
      let far := (units neg m e q - units n'' m'' e'' q).natAbs
      near ≤ far ∧ (near = far → units n' m' e' q ≠ units n'' m'' e'' q → encodeF f 0 false (.fin neg m e) % 2 = 0)

/-! ### The encoding -/

/-- R391, R392, R401: decoding the word of an encoded instruction gives that instruction, with every operand at every value. The two constructors that
stand for words no instruction has are left out. -/
def Obligations.DecodingAnEncodedInstructionGivesItBack : Prop :=
  ∀ (i : Instr) (w : Word), (∀ v, i ≠ .illegalOp v) → (∀ v, i ≠ .illegalField v) → encode i = some w → decode w = i

/-- R392, R401, R402: a word that decodes to an instruction is the word of that instruction, so that no two words have one meaning and no bit is dropped;
and a word raises ILLEGAL_OP exactly where the map gives its opcode no instruction. So does 0xFFFF_FFFF, and the word 0 is NOP. -/
def Obligations.EveryWordHasOneMeaning : Prop :=
  (∀ w : Word, encode (decode w) = some w) ∧
  (∀ w : Word, decode w = .illegalOp w ↔ ∀ r ∈ definedOpcodes, ¬(r.1 ≤ w.toNat / 2 ^ 24 ∧ w.toNat / 2 ^ 24 ≤ r.2)) ∧
  decode 0xFFFFFFFF = .illegalOp 0xFFFFFFFF ∧ decode 0 = .nop

/-- R401, R432, R435, R43, R530, R552: words written out bit by bit from the spec's encodings decode to the instructions they stand for, one or more of
each format. -/
def Obligations.WrittenOutWordsDecode : Prop :=
  decode 0x00000000 = .nop ∧ decode 0x0B001234 = .trap 0x1234 ∧ decode 0x04090000 = .brx 9 ∧ decode 0x03200002 = .brd 1 2 ∧
  decode 0x06000000 = .rejoin 0 ∧ decode 0x0C000000 = .bkpt ∧ decode 0x1D000042 = .tool0 0x42 ∧ decode 0xF4010038 = .pathrd 1 0 56 ∧
  decode 0xF6000000 = .eret ∧ decode 0xCC000000 = .opfence ∧
  decode 0x20038182 = .sadd 3 0x81 0x82 ∧ decode 0x4C0404C1 = .iadd 0 4 4 0xC1 ∧ decode 0x68850607 = .fadd 1 5 6 7

/-! ### One step -/

/-- R73, R74, R390: where the agenda names an issue scheduler that chooses a path, the paths that wait being known, no breakpoint stops the path, its fetch
gives a word, and the core's own store reports no error, the step is the meaning of the instruction that this word decodes to, for the path that the
scheduler has so selected, and what follows an issue: the scheduler notes its selection, its chain and the cycle, and joint instructions and
completions that are due follow. Where the path turns out to wait it has not been selected: it keeps its latches, and the scheduler notes nothing. The
word is the four bytes that memory holds at the translated address of the path's PC, the least significant first. -/
def Obligations.AStepRunsTheDecodedInstruction : Prop :=
  (∀ (s : State) (rest : List Turn) (core k key p : Nat) (sc : Sched) (c : Ctx) (s' t : State) (word : Word),
    s.agenda = .issue core k :: rest → s.issues = true → NoTrapDue s core k →
    let n := noteWaits { s with agenda := rest } core k
    Selects n core k sc key p →
    let s1 : State := { n with cur := { wave := key, path := p } }
    issueCtx s1 = some c → breakpointHit s1 c = none → fetch s1 c c.path.pc = .word s' word →
    let u := checkUnit s' 0 (coreStack core) (core % 128) 0 c.conv.context
    u.2 = false → exec (decode word) (selectPath u.1 sc key p) = .next t →
    let waits := (t.pathOf key p).waitsAt s1.epoch || (t.pathOf key p).waitsAt t.epoch
    (waits = false → step s = .next (settleTurn (setSched (noteStep t c) core k
      (selected sc c key p (chainAfter (noteStep t c) (decode word) sc.chain) (noteStep t c))))) ∧
    (waits = true → step s = .next (settleTurn (t.putPath key p { t.pathOf key p with latches := c.path.latches })))) ∧
  ∀ (s s' : State) (c : Ctx) (pc : Dword) (word : Word), fetch s c pc = .word s' word →
    ∃ va pa mode, decodeEa (keyCrew c.key) pc = .virt va ∧
      translate s c.w.core c.conv.context c.conv.desc.root .fetch va = .ok s' pa mode ∧
      word.toNat = (readByte s' pa).toNat + 2 ^ 8 * (readByte s' (pa + 1)).toNat + 2 ^ 16 * (readByte s' (pa + 2)).toNat +
        2 ^ 24 * (readByte s' (pa + 3)).toNat

/-- Every meaning answers a next state, but for that of an encoded instruction that no live path issues: none is refused, and no event faults. -/
def Sys2Proof.Claims.MeaningsStopOnlyWhereNoPathIssuesPart : Prop :=
  ∀ (i : Instr) (s : State), (∃ t, exec i s = .next t) ∨
    (exec i s = .fault .noIssuingPath ∧ issueCtx s = none ∧ (encode i).isSome = true)

/-- The machine never stops: from every state a step answers a next state. -/
def Sys2Proof.Claims.EveryStepAnswersANextStatePart : Prop := ∀ s : State, ∃ t, step s = .next t

/-- The machine never stops: a step answers a next state from every state, and a meaning stops only where no live path issues. -/
def Obligations.EveryStepAnswersANextState : Prop :=
  Sys2Proof.Claims.MeaningsStopOnlyWhereNoPathIssuesPart ∧ Sys2Proof.Claims.EveryStepAnswersANextStatePart

/-! ### Invariants and reset -/

/-- The memory and the waymark store keep their canonical form in every step, from every state that has it. -/
def Obligations.MemoryStaysCanonicalInEveryStep : Prop :=
  ∀ s t : State, MemInv s → step s = .next t → MemInv t

/-- The tables of the state and its byte tables keep their keys in order, each once, in every step, from every state in which they do. Other statements
have this as a premise. -/
def Obligations.TablesStayInOrderInEveryStep : Prop :=
  ∀ s t : State, TablesInv s → BytesInv s → step s = .next t → TablesInv t ∧ BytesInv t

/-- R377, R260, R285, R308: at reset the package settings hold the values of their table, the applied milestone is 0, no card is posted, and every slot and
page of the Vat is free. Memory and the waymark store list nothing, in their canonical form; that an unlisted byte reads 0 is the model's choice (log 2). -/
def Obligations.ResetLeavesTheValuesOfTheSpec : Prop :=
  let p := State.reset.settings
  p.leaseterm = 50 ∧ p.selftest = 1000 ∧ p.hanglimit = 1048576 ∧ p.preemptwait = 50 ∧ p.tokenwait = 20 ∧ p.lostlimit = 100 ∧
  p.tapEn = false ∧ p.master = false ∧ p.ckptBase = 0 ∧ p.buddyBase = 0 ∧ (∀ i < 128, p.ringOrder[i]? = some 0xFF) ∧
  State.reset.ckpt.granules = [] ∧ State.reset.ckpt.busy = false ∧ State.reset.ckpt.done = false ∧ State.reset.ckpt.step = 0 ∧
  State.reset.ring.applied = 0 ∧ State.reset.disp.posted = 0 ∧ State.reset.disp.cards = [] ∧
  State.reset.vat.freePages = 40960 ∧ State.reset.vat.slots = [] ∧
  MemInv State.reset ∧ TablesInv State.reset ∧ BytesInv State.reset ∧ ∀ a, readByte State.reset a = 0

/-! ### The checks before an instruction's effect -/

/-- R71, R400: at an instruction to which some pending EXT kind does not apply, EXT_MISUSE is raised, with the pending kinds as TRAPADDR, before any
effect. -/
def Sys2Proof.Claims.AnExtThatDoesNotApplyIsMisusedPart : Prop :=
  ∀ (i : Instr) (s : State) (c : Ctx), ordinary i = true → Issues s c →
    c.ext.kinds &&& ~~~((kindsFor (opcode i)).setWidth 16) ≠ 0 →
    exec i s = .next (trapIssue s c (trapOf 0x10 (c.ext.kinds.setWidth 64) none false))

/-- R402, R403: with no EXT pending and no operand that selects the EXT immediate, an instruction with a field value that its format, the map or its entry
does not permit raises ILLEGAL_FIELD with its word as TRAPADDR, whatever the state. -/
def Sys2Proof.Claims.IllegalFieldsTrapBeforeAnyEffectPart : Prop :=
  ∀ (i : Instr) (s : State) (c : Ctx) (w : Word), ordinary i = true → encode i = some w → Issues s c → c.ext.kinds = 0 →
    (0xFF ∉ operandSelects i) → ¬WellFormed i →
    exec i s = .next (trapIssue s c (trapOf 0x02 (w.setWidth 64) none false))

/-- R198: in an open transaction, the instructions that R198 refuses abort the attempt with cause UNSUPPORTED before they take effect. A wave that is no
member of the group that the instruction names has raised ILLEGAL_FIELD before (R403). -/
def Sys2Proof.Claims.TransactionsRefuseWhatTheyDoNotPermitPart : Prop :=
  ∀ (i : Instr) (s : State) (c : Ctx), ordinary i = true → (∃ r ∈ refusedInTransactions, r.1 ≤ opcode i ∧ opcode i ≤ r.2) → Issues s c →
    c.w.txn.depth ≠ 0 → c.ext.kinds = 0 → (0xFF ∉ operandSelects i) → WellFormed i → groupMember i c = true →
    ∃ t, exec i s = .next t ∧ ∃ w, OnlyWave s t c w ∧
      w.txn = { c.w.txn with depth := 0, buffer := [], retained := true, cause := 6, alts := Vector.replicate 4 none } ∧
      (w.div.path c.p).pc = vget c.w.txn.fails 0 0 ∧ w.vregs = c.w.vregs ∧ w.sregs = c.w.sregs ∧ w.pregs = c.w.pregs

/-- What an instruction's checks do before its effect: a pending EXT that does not apply (R71), an illegal field (R403), an open transaction that refuses it (R198). -/
def Obligations.IssueChecksStopAnInstructionBeforeItsEffect : Prop :=
  Sys2Proof.Claims.AnExtThatDoesNotApplyIsMisusedPart ∧ Sys2Proof.Claims.IllegalFieldsTrapBeforeAnyEffectPart ∧ Sys2Proof.Claims.TransactionsRefuseWhatTheyDoNotPermitPart

/-- R394 to R396: what an operand select names: a scalar register, an integer constant, an F32 constant, an identity value by lane, a latch with its tag, or a
vector register with its tag, 128 further where the bank bit of its field is set. The EXT immediate is IMM, sign-extended, alone; IMMH's low
12 bits shifted left by 20 alone; and their union where both are pending. -/
def Obligations.OperandSelectsNameTheTablesValues : Prop :=
  (∀ (s : State) (c : Ctx) (a : BitVec 8),
    (a.toNat < 0x80 → let n := a.toNat + (if c.modBit 10 then 128 else 0)
      c.w.apertureDirty.getLsbD n = false → (c.w.vreg n).undef = 0 → source s c (opA a) = .tagged (c.w.vreg n).tag (c.w.vreg n).lanes) ∧
    (0x80 ≤ a.toNat → a.toNat < 0xC0 → ∀ L, (source s c (opA a)).bits L = (c.w.sreg (a.toNat - 0x80)).setWidth 32) ∧
    (0xC0 ≤ a.toNat → a.toNat < 0xD0 → ∀ L, (source s c (opA a)).bits L = BitVec.ofNat 32 (a.toNat - 0xC0)) ∧
    (0xD0 ≤ a.toNat → a.toNat < 0xD8 → ∀ L, (source s c (opA a)).bits L = BitVec.ofInt 32 (0xCF - a.toNat)) ∧
    (∀ L, ([0xD8, 0xD9, 0xDA, 0xDB, 0xDC, 0xDD, 0xDE, 0xDF].map fun k => (source s c (opA k)).bits L) =
      [0x3F000000, 0x3F800000, 0x40000000, 0xBF800000, 0x3FB8AA3B, 0x3F317218, 0x7FC00000, 0x7F800000]) ∧
    (∀ L < 32, ([0xE0, 0xE1, 0xE2, 0xE3, 0xE4, 0xE5, 0xE6, 0xE7, 0xE8, 0xE9, 0xEA, 0xEB].map fun k => (source s c (opA k)).bits L) =
      [L, L % 4, L / 4, c.w.slot, keyCrew c.key, c.conv.index.toNat,
       ((c.conv.index.toNat * c.conv.card.crews + keyCrew c.key) * c.conv.card.waves + keyIndex c.key) * 32 + L, c.w.core / 8, c.w.core / 128,
       s.pkg, s.clock, s.ring.applied.toNat].map (BitVec.ofNat 32)) ∧
    (∀ j < 3, a.toNat = 0xFC + j → ∃ v, source s c (opA a) = .tagged (vget c.path.latches j Latch.empty).tag v ∧
      ∀ L < 32, (vget c.path.latches j Latch.empty).undef.getLsbD L = false → lane v L = lane (vget c.path.latches j Latch.empty).lanes L) ∧
    (a = 0xFF → ∀ L, (source s c (opA a)).bits L = c.ext.imm)) ∧
  ∀ (e : ExtState) (lo hi : BitVec 20), (e.has 0 = true → vget e.payloads 0 0 = lo) → (e.has 1 = true → vget e.payloads 1 0 = hi) →
    (e.has 0 = true → e.has 1 = false → e.imm = BitVec.ofInt 32 lo.toInt) ∧
    (e.has 0 = false → e.has 1 = true → e.imm = BitVec.ofNat 32 (hi.toNat % 2 ^ 12 * 2 ^ 20)) ∧
    (e.has 0 = true → e.has 1 = true → e.imm = BitVec.ofNat 32 (hi.toNat % 2 ^ 12 * 2 ^ 20 + lo.toNat))

/-! ### Control -/

/-- R432, R433, R435, R436, R524, R506, R560: BR goes to its target, BRC there or on as its mode says of its predicate over the acting lanes, BRX, CALL and RET to
the address they name, which must be a multiple of 4; CALL leaves pc + 4 in s63, its target having been read before; NOP and YIELD only go
on. The whole path goes, and nothing else changes. An address that is no multiple of 4 raises MISALIGNED with that address, in the path's active
lanes, and no register is written. -/
def Sys2Proof.Claims.UniformBranchesGoWhereTheySayPart : Prop :=
  (∀ (o : BitVec 18) (s : State) (c : Ctx), Passes s (.br o) {} c →
    ∃ t, exec (.br o) s = .next t ∧ WaveDone s t c (target c o) id) ∧
  (∀ (p m : BitVec 3) (o : BitVec 18) (s : State) (c : Ctx), Passes s (.brc p m o) {} c →
    ∃ t, exec (.brc p m o) s = .next t ∧
      (takenBy m (c.w.preg p.toNat) c.acting → WaveDone s t c (target c o) id) ∧
      (¬takenBy m (c.w.preg p.toNat) c.acting → WaveDone s t c (c.path.pc + 4) id)) ∧
  (∀ (a : BitVec 6) (s : State) (c : Ctx), Passes s (.brx a) {} c → (c.w.sreg a.toNat).toNat % 4 = 0 →
    ∃ t, exec (.brx a) s = .next t ∧ WaveDone s t c (c.w.sreg a.toNat) id) ∧
  (∀ (o : BitVec 18) (s : State) (c : Ctx), Passes s (.call o) {} c → (target c o).toNat % 4 = 0 →
    ∃ t, exec (.call o) s = .next t ∧ ScalarSet s t c (target c o) 63 (c.path.pc + 4)) ∧
  (∀ (a : BitVec 6) (s : State) (c : Ctx), Passes s (.callIndirect a) {} c → (c.w.sreg a.toNat).toNat % 4 = 0 →
    ∃ t, exec (.callIndirect a) s = .next t ∧ ScalarSet s t c (c.w.sreg a.toNat) 63 (c.path.pc + 4)) ∧
  (∀ (s : State) (c : Ctx), Passes s .ret {} c → (c.w.sreg 63).toNat % 4 = 0 →
    ∃ t, exec .ret s = .next t ∧ WaveDone s t c (c.w.sreg 63) id) ∧
  (∀ (s : State) (c : Ctx), Passes s .nop {} c → ∃ t, exec .nop s = .next t ∧ WaveDone s t c (c.path.pc + 4) id) ∧
  (∀ (s : State) (c : Ctx), Passes s .yield {} c → ∃ t, exec .yield s = .next t ∧ WaveDone s t c (c.path.pc + 4) id) ∧
  ∀ (s : State) (c : Ctx) (a : BitVec 6) (o : BitVec 18),
    (Passes s (.brx a) {} c → (c.w.sreg a.toNat).toNat % 4 ≠ 0 →
      exec (.brx a) s = .next (trapIssue s c (trapOf 0x06 (c.w.sreg a.toNat) (some c.active) false))) ∧
    (Passes s (.callIndirect a) {} c → (c.w.sreg a.toNat).toNat % 4 ≠ 0 →
      exec (.callIndirect a) s = .next (trapIssue s c (trapOf 0x06 (c.w.sreg a.toNat) (some c.active) false))) ∧
    (Passes s (.call o) {} c → (target c o).toNat % 4 ≠ 0 →
      exec (.call o) s = .next (trapIssue s c (trapOf 0x06 (target c o) (some c.active) false))) ∧
    (Passes s .ret {} c → (c.w.sreg 63).toNat % 4 ≠ 0 →
      exec .ret s = .next (trapIssue s c (trapOf 0x06 (c.w.sreg 63) (some c.active) false)))

/-- R41 to R45: BRD and REJOIN move every strand of their path by the rules of R43 and R44, and the path splits by next PC: each strand stands in one
path, at its next PC. The stacks of the path are those that R45 permits; no other strand and no other path changes. -/
def Sys2Proof.Claims.DivergentBranchesMoveEachStrandByItsRulePart : Prop :=
  ∀ (s : State) (c : Ctx), StacksKept c →
    (∀ (p : BitVec 3) (o : BitVec 18), Passes s (.brd p o) { inTx := false } c →
      ∃ t, exec (.brd p o) s = .next t ∧
        Parted s t c fun k v => brdRule v (strandLanes (c.w.preg p.toNat) k) c.path.pc (target c o)) ∧
    (∀ (p : BitVec 3) (o : BitVec 18), Passes s (.brdNot p o) { inTx := false } c →
      ∃ t, exec (.brdNot p o) s = .next t ∧
        Parted s t c fun k v => brdRule v (strandLanes (~~~c.w.preg p.toNat) k) c.path.pc (target c o)) ∧
    (∀ (o : BitVec 18), Passes s (.rejoin o) { inTx := false } c →
      ∃ t, exec (.rejoin o) s = .next t ∧ Parted s t c fun _ v => rejoinRule v c.path.pc (target c o))

/-- Branches: the uniform ones go where they say, and the divergent ones move each strand by its rule. -/
def Obligations.BranchesGoWhereTheySay : Prop :=
  Sys2Proof.Claims.UniformBranchesGoWhereTheySayPart ∧ Sys2Proof.Claims.DivergentBranchesMoveEachStrandByItsRulePart

/-- R46, R523: REGANG parks its path. Once every live path is parked at a REGANG, those at the lowest such address join: the lowest-indexed of their
entries goes on at that address + 4 with all their strands, held no more (but halted where a debugger steps one of them, R354), its latches invalid
where another path has joined it (R68); the others are free; the paths parked elsewhere stay. No strand and no register changes, nor an entry
that was free. -/
def Obligations.RegangParksAndMerges : Prop :=
  ∀ (s : State) (c : Ctx), Passes s .regang { inTx := false } c →
    ∃ t w, exec .regang s = .next t ∧ OnlyWave s t c w ∧ w = { c.w with div := w.div, heldSibling := w.heldSibling } ∧
      w.div.strands = c.w.div.strands ∧ (∀ q < 8, (c.w.div.path q).mask = 0 → w.div.path q = c.w.div.path q) ∧
      let parked (p : Nat) : Prop := p = c.p ∨ (c.w.div.path p).hold = .regang
      let live : List Nat := (List.range 8).filter fun p => (c.w.div.path p).mask ≠ 0
      ((∃ p ∈ live, ¬parked p) →
        w.div.path c.p = { c.w.div.path c.p with hold := .regang } ∧ ∀ q, q ≠ c.p → w.div.path q = c.w.div.path q) ∧
      ((∀ p ∈ live, parked p) →
        ∀ low, low ∈ live → (∀ p ∈ live, (c.w.div.path low).pc.toNat ≤ (c.w.div.path p).pc.toNat) →
          (∀ p ∈ live, (c.w.div.path p).pc = (c.w.div.path low).pc → low ≤ p) →
          let joins (p : Nat) : Prop := p ∈ live ∧ p ≠ low ∧ (c.w.div.path p).pc = (c.w.div.path low).pc
          (w.div.path low).pc = (c.w.div.path low).pc + 4 ∧
          ((c.w.div.path low).stepping = false → (∀ p, joins p → (c.w.div.path p).stepping = false) → (w.div.path low).hold = .none) ∧
          ((c.w.div.path low).stepping = true ∨ (∃ p, joins p ∧ (c.w.div.path p).stepping = true) → (w.div.path low).hold = .debug) ∧
          ((∀ p, ¬joins p) → (w.div.path low).latches = (c.w.div.path low).latches) ∧
          ((∃ p, joins p) → ∀ j < 3, (vget (w.div.path low).latches j Latch.empty).valid = false) ∧
          (∀ k < 8, (w.div.path low).mask.getLsbD k = true ↔
            ∃ p ∈ live, (c.w.div.path p).pc = (c.w.div.path low).pc ∧ (c.w.div.path p).mask.getLsbD k = true) ∧
          (∀ p ∈ live, p ≠ low → (c.w.div.path p).pc = (c.w.div.path low).pc → (w.div.path p).mask = 0) ∧
          ∀ p ∈ live, (c.w.div.path p).pc ≠ (c.w.div.path low).pc → w.div.path p = { c.w.div.path p with hold := .regang })

/-- R454, R455, R47: EXIT ends the active lanes of its path: no strand of the path keeps one live. Where no strand has a deferral entry with a lane left
and the wave has no other path, the wave ends: it leaves every group, returns its grant, and no path remains. Where a strand resumes, it has
the mask of its top entry and stands in a path at the PC that R47 gives. -/
def Obligations.ExitEndsLanesStrandsAndWaves : Prop :=
  ∀ (s : State) (c : Ctx), Passes s .exit { inTx := false } c → (∀ k < 8, (c.w.div.strand k).depth.toNat ≤ 4) →
    ∃ t w, exec .exit s = .next t ∧ tget t.waves c.key = some w ∧
      (∀ k < 8, c.path.mask.getLsbD k = true →
        (w.div.strand k).live = (c.w.div.strand k).live &&& ~~~(c.w.div.strand k).active ∧
        viewOf (w.div.strand k) = (exitRule (viewOf (c.w.div.strand k))).1) ∧
      (∀ k < 8, c.path.mask.getLsbD k = false → w.div.strand k = c.w.div.strand k) ∧
      ((∀ k < 8, c.path.mask.getLsbD k = true → (exitRule (viewOf (c.w.div.strand k))).2 = none) →
        (∀ q < 8, q ≠ c.p → (c.w.div.path q).mask = 0) →
        w.ended = true ∧ w.groups = 0 ∧ w.grant = false ∧ (∀ q < 8, (w.div.path q).mask = 0) ∧
        (c.w.grant = true → ∀ x, tget s.crews (keyCrewKey c.key) = some x →
          ∃ y, tget t.crews (keyCrewKey c.key) = some y ∧ y.poolFree = x.poolFree + 1)) ∧
      (c.w.div.disjoint →
        ∀ k < 8, c.path.mask.getLsbD k = true → ∀ pc, (exitRule (viewOf (c.w.div.strand k))).2 = some pc →
          w.ended = c.w.ended ∧ ∃ q < 8, (w.div.path q).mask.getLsbD k = true ∧ (w.div.path q).pc = pc)

/-! ### Traps -/

/-- R552, R431, R346, R402, R326: TRAP raises SOFTWARE with its immediate, BKPT raises BREAKPOINT with 0xFF, TOOL raises TOOL with its word and SUB k, each
saving the next PC; TOOL does so whatever EXT is pending. An illegal word raises ILLEGAL_OP or ILLEGAL_FIELD with the word, and its own
PC is saved. -/
def Obligations.TrapInstructionsRaiseTheirCauses : Prop :=
  (∀ (n : BitVec 24) (s : State) (c : Ctx), Passes s (.trap n) {} c →
    exec (.trap n) s = .next (trapIssue s c (trapOf 0x0E (n.setWidth 64) none true))) ∧
  (∀ (s : State) (c : Ctx), Passes s .bkpt {} c → exec .bkpt s = .next (trapIssue s c (trapOf 0x0D 0xFF none true))) ∧
  (∀ (n : BitVec 24) (s : State) (c : Ctx), issueCtx s = some c →
    exec (.tool0 n) s = .next (trapIssue s c { trapOf 0x14 (BitVec.ofNat 64 (0x1D000000 + n.toNat)) none true with sub := 0 }) ∧
    exec (.tool1 n) s = .next (trapIssue s c { trapOf 0x14 (BitVec.ofNat 64 (0x1E000000 + n.toNat)) none true with sub := 1 }) ∧
    exec (.tool2 n) s = .next (trapIssue s c { trapOf 0x14 (BitVec.ofNat 64 (0x1F000000 + n.toNat)) none true with sub := 2 })) ∧
  (∀ (w : Word) (s : State) (c : Ctx), issueCtx s = some c →
    exec (.illegalOp w) s = .next (trapIssue s c (trapOf 0x01 (w.setWidth 64) none false)) ∧
    (c.ext.kinds = 0 → wordSelectsImm w = false → exec (.illegalField w) s = .next (trapIssue s c (trapOf 0x02 (w.setWidth 64) none false))))

/-- R344, R326: TRAMP reads the 8 bytes at TRAMPBASE + 8 n by a translated read, in this package at once; from another package the path waits for them, a load
asking for them once, and finds them when they have come. Where they hold a multiple of 4, the path goes there and nothing but
what a read leaves behind changes; where not, it raises MISALIGNED with what it read. -/
def Sys2Proof.Claims.TrampGoesWhereItsTableEntrySaysPart : Prop :=
  ∀ (n : BitVec 20) (s : State) (c : Ctx), Passes s (.tramp n) {} c →
    let used (u : State) : State := u.modWave c.key fun w => { w with div := w.div.setPath c.p { w.div.path c.p with entry := none } }
    let goes (u : State) (e : Dword) : Prop :=
      (e.toNat % 4 = 0 → exec (.tramp n) s = .next (advance (used u) c e)) ∧
      (e.toNat % 4 ≠ 0 → exec (.tramp n) s = .next (trapIssue (used u) c (trapOf 0x06 e (some c.active) false)))
    let asks : Prop := ∀ x, c.path.entry = some x → x.1 ≠ c.path.pc
    (∀ e, c.path.entry = some (c.path.pc, e) → goes s e) ∧
    ∀ (s' : State) (a : Acc), asks → resolve s c .read 8 true [(0, c.conv.desc.trampBase + BitVec.ofNat 64 (8 * n.toNat))] = .ok s' [a] →
      (a.tgt.foreign s = false → readsPoison s (keyConvoy c.key) a.tgt = false → goes s' (BitVec.ofNat 64 (readAcc s' c 8 a.tgt))) ∧
      (∀ pa cache, a.tgt = .mem pa cache → a.tgt.foreign s = true → isHeld s c.w.core a.tgt = false → isLost s' (paPkg pa) = false →
        (∀ e ∈ s'.loads, e.2.wave = c.key → e.2.dest ≠ .entry c.p c.path.pc) →
        ∃ t l, exec (.tramp n) s = .next t ∧ tget t.loads s'.nextId = some l ∧ l.wave = c.key ∧ l.package = paPkg pa ∧
          l.dest = .entry c.p c.path.pc ∧ t.mem = s'.mem)

/-- R70, R71, R456, R397: an EXT adds its payload to every strand of its path and the path goes on with the pending state kept; a KIND that is pending already,
or a fourth EXT, raises EXT_MISUSE, and a KIND above 6 raises ILLEGAL_FIELD. -/
def Sys2Proof.Claims.ExtAddsItsPayloadToEveryStrandPart : Prop :=
  ∀ (k : BitVec 4) (x : BitVec 20) (s : State) (c : Ctx), issueCtx s = some c →
    (c.ext.has k.toNat = false → (bitsSet c.ext.kinds).length < 3 → k.toNat < 7 →
      ∃ t w, exec (.ext k x) s = .next t ∧ OnlyPaths s t c w ∧
        (w.div.path c.p).pc = c.path.pc + 4 ∧ (w.div.path c.p).mask = c.path.mask ∧ (w.div.path c.p).latches = c.path.latches ∧
        (∀ q, q ≠ c.p → w.div.path q = c.w.div.path q) ∧
        ∀ j < 8, if c.path.mask.getLsbD j then
            (w.div.strand j).ext.has k.toNat = true ∧ (w.div.strand j).ext.payload k.toNat = x ∧
            (∀ i, i ≠ k.toNat → (w.div.strand j).ext.has i = (c.w.div.strand j).ext.has i ∧
              (w.div.strand j).ext.payload i = (c.w.div.strand j).ext.payload i) ∧
            (w.div.strand j).active = (c.w.div.strand j).active ∧ (w.div.strand j).stack = (c.w.div.strand j).stack
          else w.div.strand j = c.w.div.strand j) ∧
    (c.ext.has k.toNat = true ∨ 3 ≤ (bitsSet c.ext.kinds).length →
      exec (.ext k x) s = .next (trapIssue s c (trapOf 0x10 (c.ext.kinds.setWidth 64) none false))) ∧
    (c.ext.has k.toNat = false → (bitsSet c.ext.kinds).length < 3 → 7 ≤ k.toNat →
      exec (.ext k x) s = .next (trapIssue s c (trapOf 0x02 (BitVec.ofNat 64 (0xFE000000 + k.toNat * 2 ^ 20 + x.toNat)) none false)))

/-- TRAMP goes where the entry of its table says (R344), and EXT adds its payload to every strand (R70). -/
def Obligations.TrampAndExtDoAsTheirRulesSay : Prop :=
  Sys2Proof.Claims.TrampGoesWhereItsTableEntrySaysPart ∧ Sys2Proof.Claims.ExtAddsItsPayloadToEveryStrandPart

/-- R321, R322, R325: outside a transaction a precise trap enters the handler: the divergence state moves into the shadow, where each path keeps its next
PC (the trapping path the one that its cause saves); the trap registers say what happened; the wave restarts at HANDLER as one path with
every lane enabled, no EXT, no valid latch. The registers, groups, grant, horizon, remote-store count, outstanding work and memory stay. -/
def Obligations.APreciseTrapEntersTheHandler : Prop :=
  ∀ (s : State) (c : Ctx) (x : Trap), issueCtx s = some c → c.conv.desc.handler ≠ 0 → c.w.inHandler = false → c.w.txn.depth = 0 →
    x.cause < 256 →
    let t := trapIssue s c x
    t.mem = s.mem ∧ t.copies = s.copies ∧ t.l1 = s.l1 ∧ t.crews = s.crews ∧ (∀ k, k ≠ c.key → tget t.waves k = tget s.waves k) ∧
    ∃ w, tget t.waves c.key = some w ∧ w.inHandler = true ∧
      -- the handler's path
      (w.div.path 0).mask = 0xFF ∧ (w.div.path 0).pc = c.conv.desc.handler ∧ (∀ j < 3, (vget (w.div.path 0).latches j Latch.empty).valid = false) ∧
      (∀ p, 1 ≤ p → p < 8 → (w.div.path p).mask = 0) ∧
      (∀ k < 8, (w.div.strand k).live = 15 ∧ (w.div.strand k).active = 15 ∧ (w.div.strand k).depth = 0 ∧ (w.div.strand k).ext.kinds = 0) ∧
      -- the shadow
      w.shadow.strands = c.w.div.strands ∧
      (∀ p < 8, (w.shadow.path p).mask = (c.w.div.path p).mask ∧ (w.shadow.path p).latches = (c.w.div.path p).latches ∧
        (w.shadow.path p).pc = if p = c.p then (if x.nextPc then c.path.pc + 4 else c.path.pc) else (c.w.div.path p).pc) ∧
      -- the trap registers
      w.trap.cause.toNat = x.cause + 2 ^ 12 * c.p + 2 ^ 24 * (x.sub % 256) ∧ w.trap.pc = c.path.pc ∧
      w.trap.mask = c.w.div.liveLanes ++ c.w.div.allActive ∧ w.trap.lanes = (x.lanes.getD c.active).setWidth 64 ∧
      w.trap.addr = x.addr ∧ w.trap.skid = 0 ∧
      -- the rest of the wave
      w.vregs = c.w.vregs ∧ w.sregs = c.w.sregs ∧ w.pregs = c.w.pregs ∧ w.groups = c.w.groups ∧ w.grant = c.w.grant ∧
      w.horizon = c.w.horizon ∧ w.remoteStores = c.w.remoteStores ∧ w.outstanding = c.w.outstanding ∧ w.faultstat = c.w.faultstat

/-- R324, R334: a precise trap with HANDLER 0, or in the handler, ends the convoy: its waves go, its launch's part ends, and one fault-log record
(where the log has room) says so, with ENDED 1, and NESTED 1 in the second case. Memory stays. -/
def Sys2Proof.Claims.ATrapWithoutAHandlerEndsTheConvoyPart : Prop :=
  ∀ (s : State) (c : Ctx) (x : Trap), issueCtx s = some c → c.conv.desc.handler = 0 ∨ c.w.inHandler = true → c.w.txn.depth = 0 →
    x.cause < 256 → TablesInv s → (tget s.disp.parts c.conv.part).isSome = true →
    let t := trapIssue s c x
    t.mem = s.mem ∧ (∀ k, keyConvoy k = keyConvoy c.key → ∀ w, (k, w) ∉ t.waves) ∧
    tget t.convoys (keyConvoy c.key) = none ∧
    tget t.disp.parts c.conv.part = none ∧
    (s.logs.faults.length < Config.faultLogEntries →
      ∃ r : FaultRecord, t.logs.faults = s.logs.faults ++ [r] ∧ r.bits.getLsbD 144 = true ∧
        r.bits.getLsbD 145 = (c.conv.desc.handler != 0) ∧ r.bits.extractLsb' 320 64 = c.path.pc ∧ r.bits.extractLsb' 256 64 = x.addr ∧
        r.bits.extractLsb' 172 8 = BitVec.ofNat 8 x.cause ∧ r.bits.extractLsb' 448 64 = s.logs.faultSeq)

/-- R327, R328: outside a transaction and with no halt in progress, a trap of a halting cause that enters its handler is broadcast to every other wave of its
convoy that has not ended; a trap of another cause is not. R210, R201: a trap raised in an open transaction aborts it with cause TRAP and the handler
returns to FAIL[1]; where a line of the read set has been changed, the trap is suppressed and the attempt aborts with CONFLICT. -/
def Sys2Proof.Claims.HaltingCausesSpreadAndTrapsAbortPart : Prop :=
  (∀ (s : State) (c : Ctx) (x : Trap), issueCtx s = some c → c.conv.desc.handler ≠ 0 → c.w.inHandler = false → c.w.txn.depth = 0 →
    c.conv.halt = none →
    let halts := x.cause ∈ [0x01, 0x02, 0x03, 0x04, 0x05, 0x06, 0x07, 0x08, 0x0A, 0x0F, 0x10, 0x11, 0x13]
    ∃ v, tget (trapIssue s c x).convoys (keyConvoy c.key) = some v ∧
      (¬halts → v = c.conv) ∧
      (halts → (∀ e ∈ s.waves, keyConvoy e.1 = keyConvoy c.key → e.1 ≠ c.key → e.2.ended = true) → v = c.conv) ∧
      (halts → (∃ e ∈ s.waves, keyConvoy e.1 = keyConvoy c.key ∧ e.1 ≠ c.key ∧ e.2.ended = false) →
        ∃ h, v = { c.conv with halt := some h } ∧ h.cause = BitVec.ofNat 8 x.cause ∧ h.pc = c.path.pc ∧ h.crew = keyCrew c.key ∧
          h.slot = c.w.slot ∧ ∀ k, k ∈ h.waiting ↔ ∃ w, (k, w) ∈ s.waves ∧ keyConvoy k = keyConvoy c.key ∧ k ≠ c.key ∧ w.ended = false)) ∧
  ∀ (s : State) (c : Ctx) (x : Trap), issueCtx s = some c → c.conv.desc.handler ≠ 0 → c.w.inHandler = false → c.w.txn.depth ≠ 0 →
    ∃ w, tget (trapIssue s c x).waves c.key = some w ∧ w.txn.depth = 0 ∧ w.txn.buffer = [] ∧ w.txn.retained = true ∧
      (c.w.txn.reads.any (·.changed) = true → w.inHandler = false ∧ w.txn.cause = 2 ∧ (w.div.path c.p).pc = vget c.w.txn.fails 0 0) ∧
      (c.w.txn.reads.any (·.changed) = false → w.inHandler = true ∧ w.txn.cause = 8 ∧ w.trap.pc = c.path.pc ∧
        (w.shadow.path c.p).pc = vget c.w.txn.fails 0 0)

/-- A trap without a handler ends its convoy; a halting cause spreads to the convoy; a trap aborts a transaction. -/
def Obligations.TrapsEndHaltAndAbort : Prop :=
  Sys2Proof.Claims.ATrapWithoutAHandlerEndsTheConvoyPart ∧ Sys2Proof.Claims.HaltingCausesSpreadAndTrapsAbortPart

/-! ### System registers and the trap shadow -/

/-- R409, R325, R333, R349, R359, R539: SREAD completes with the value of each register of the table of R409, and FAULTSTAT's ABANDON is the convoy's. COMMITMS
is the least of the applied milestone + 1 and the stamps of the arrivals that have not committed. SWRITE to FAULTSTAT clears those of its bits 0, 1 and 3 that
are ones in sA; to any other system register it raises PERMISSION with the register's number. -/
def Sys2Proof.Claims.SystemRegistersReadAndWritePart : Prop :=
  (∀ (s : State) (c : Ctx) (d : BitVec 6), ∀ r ∈ systemRegisters s c, Passes s (.sread r.1 d) {} c →
    ∃ t, exec (.sread r.1 d) s = .next t ∧ ScalarSet s t c (c.path.pc + 4) d.toNat r.2) ∧
  (∀ s : State, (commitms s).toNat ≤ (s.ring.applied + 1).toNat ∧ (∀ a ∈ s.fabric.arrivals, (commitms s).toNat ≤ a.stamp.toNat) ∧
    (commitms s = s.ring.applied + 1 ∨ ∃ a ∈ s.fabric.arrivals, commitms s = a.stamp)) ∧
  ∀ (s : State) (c : Ctx) (a : BitVec 6),
    (Passes s (.swrite 0x21 a) {} c → ∃ t, exec (.swrite 0x21 a) s = .next t ∧
      WaveDone s t c (c.path.pc + 4) fun w => { w with faultstat := w.faultstat &&& ~~~(c.w.sreg a.toNat &&& 0xB) }) ∧
    (∀ r, r ≠ 0x21 → Passes s (.swrite r a) {} c →
      exec (.swrite r a) s = .next (trapIssue s c (trapOf 0x08 (r.setWidth 64) none false)))

/-- R335, R336, R338, R508: in a handler and outside a transaction, PATHRD writes each field of the shadow that SEL and I name, zero-extended, to sD; PATHWR
writes the value of sA to such a field, where the field permits it, so that PATHRD reads it back, and changes no other field of the shadow; a value
that the field does not permit raises ILLEGAL_FIELD. -/
def Sys2Proof.Claims.ShadowFieldsReadAndWritePart : Prop :=
  (∀ (s : State) (c : Ctx) (d : BitVec 6), c.w.inHandler = true → c.w.txn.depth = 0 →
    let reads (sel i : Nat) (x : Nat) : Prop := ∀ sel' i' : BitVec 8, sel'.toNat = sel → i'.toNat = i → Passes s (.pathrd sel' i' d) {} c →
      ∃ t, exec (.pathrd sel' i' d) s = .next t ∧ ScalarSet s t c (c.path.pc + 4) d.toNat (BitVec.ofNat 64 x)
    let z := c.w.shadow
    (∀ p < 8, reads 0 p (z.path p).mask.toNat ∧ reads 1 p (z.path p).pc.toNat ∧
      ∀ j < 3, reads 9 (3 * p + j)
        ((vget (z.path p).latches j Latch.empty).tag.toNat + if (vget (z.path p).latches j Latch.empty).valid then 16 else 0)) ∧
    (∀ k < 8, reads 2 k (z.strand k).live.toNat ∧ reads 3 k (z.strand k).active.toNat ∧ reads 4 k (z.strand k).depth.toNat ∧
      (∀ j < 4, reads 5 (4 * k + j) (vget (z.strand k).stack j Deferred.empty).mask.toNat ∧
        reads 6 (4 * k + j) (vget (z.strand k).stack j Deferred.empty).pc.toNat) ∧
      reads 7 k (z.strand k).ext.kinds.toNat ∧ ∀ j < 16, reads 8 (16 * k + j) (vget (z.strand k).ext.payloads j 0).toNat)) ∧
  ∀ (s : State) (c : Ctx) (sel i : BitVec 8) (a : BitVec 6), WellFormed (.pathwr sel i a) → c.w.inHandler = true → c.w.txn.depth = 0 →
    Issues s c → c.ext.kinds = 0 →
    let v := (c.w.sreg a.toNat).toNat
    let old := shadowField c.w.shadow sel.toNat i.toNat
    let permitted : Prop := v < 2 ^ fieldWidth sel.toNat ∧ (sel = 1 → v % 4 = 0) ∧ (sel = 2 → ∀ b < 4, v.testBit b = true → old.testBit b = true) ∧
      (sel = 4 → v ≤ 4) ∧ (sel = 6 → v / 2 % 2 = 0) ∧ (sel = 9 → v = old ∨ v = old % 16)
    (permitted → ∃ t w, exec (.pathwr sel i a) s = .next t ∧ OnlyWave s t c w ∧ GoesOn c w (c.path.pc + 4) ∧ LatchesStay c w ∧
      w = { c.w with div := w.div, retry := c.w.retryAfter c.p, heldSibling := w.heldSibling, shadow := w.shadow } ∧
      shadowField w.shadow sel.toNat i.toNat = v ∧
      ∀ sel' i', shadowFieldOk sel' i' = true → (sel', i') ≠ (sel.toNat, i.toNat) →
        shadowField w.shadow sel' i' = shadowField c.w.shadow sel' i') ∧
    (¬permitted → exec (.pathwr sel i a) s =
      .next (trapIssue s c (trapOf 0x02 (BitVec.ofNat 64 (0xF5000000 + sel.toNat * 2 ^ 16 + i.toNat * 2 ^ 8 + a.toNat)) none false)))

/-- The system registers, and the fields of the trap shadow, read and write as their tables say. -/
def Obligations.SystemRegistersAndShadowFields : Prop :=
  Sys2Proof.Claims.SystemRegistersReadAndWritePart ∧ Sys2Proof.Claims.ShadowFieldsReadAndWritePart

/-- R337, R338, R453: in a handler and outside a transaction, ERET with a shadow that passes its checks leaves the handler, and each path goes on at its saved
PC with its strands and latches, the lanes whose live bit the handler cleared being gone (stated for a shadow whose live strands each keep an
active lane); with a shadow that fails them it sets ERETBAD, changes nothing else, and the handler goes on. -/
def Obligations.EretRestoresTheShadow : Prop :=
  ∀ (s : State) (c : Ctx), Passes s .eret {} c → c.w.inHandler = true → c.w.txn.depth = 0 →
    let z := c.w.shadow
    (shadowOk c.w = true → (∀ k < 8, (z.strand k).live ≠ 0 → (z.strand k).active &&& (z.strand k).live ≠ 0) → (∃ k < 8, (z.strand k).live ≠ 0) →
      ∃ t w, exec .eret s = .next t ∧ OnlyWave s t c w ∧
        w = { c.w with div := w.div, inHandler := false, heldSibling := w.heldSibling } ∧
        (∀ p < 8, (w.div.path p).mask = (z.path p).mask ∧
          ((z.path p).mask ≠ 0 → (w.div.path p).pc = (z.path p).pc ∧ (w.div.path p).latches = (z.path p).latches)) ∧
        ∀ k < 8, (z.strand k).live ≠ 0 → (w.div.strand k).live = (z.strand k).live ∧ (w.div.strand k).ext = (z.strand k).ext ∧
          viewOf (w.div.strand k) =
            ((z.strand k).active &&& (z.strand k).live, popped ((z.strand k).entries.map fun e => { e with mask := e.mask &&& (z.strand k).live }))) ∧
    (shadowOk c.w = false → ∃ t, exec .eret s = .next t ∧
      WaveDone s t c (c.path.pc + 4) fun w => { w with faultstat := w.faultstat ||| 8 })

/-! ### Asynchronous traps and reports -/

/-- R331, R332, R325, R327: ASYNC_TRAP_ENTRY of a wave outside its handler, none of whose paths is halted by debug, enters the handler with the held trap
that comes first: MATRIX_RESET, then a SIBLING_HALT whose skid is spent, then a report; the trap registers say which, with ASYNC 1. Each path
keeps its next PC in the shadow. With nothing due, or in the handler, nothing changes. -/
def Sys2Proof.Claims.AsynchronousTrapsEnterInTheirOrderPart : Prop :=
  ∀ (s : State) (k : Nat) (w : Wave) (v : Convoy), tget s.waves k = some w → tget s.convoys (keyConvoy k) = some v → v.residence = .placed →
    (w.inHandler = true ∨ w.ended = true → exec (.asyncTrapEntry k) s = .next s) ∧
    (w.heldReset = none → w.heldReport = none → (∀ h, w.heldSibling = some h → h.left ≠ 0) → exec (.asyncTrapEntry k) s = .next s) ∧
    (v.desc.handler ≠ 0 → w.ended = false → w.inHandler = false → w.halted = false → w.txn.depth = 0 →
      let enters (cause sub : Nat) (pc addr skid lanes : Dword) : Prop :=
        ∃ t w', exec (.asyncTrapEntry k) s = .next t ∧ tget t.waves k = some w' ∧ w'.inHandler = true ∧ (w'.div.path 0).mask = 0xFF ∧
          (w'.div.path 0).pc = v.desc.handler ∧ w'.trap.cause.toNat = cause + 2 ^ 15 + 2 ^ 24 * sub ∧ w'.trap.pc = pc ∧ w'.trap.addr = addr ∧
          w'.trap.skid = skid ∧ w'.trap.lanes = lanes ∧ w'.shadow.strands = w.div.strands ∧
          ∀ p < 8, (w'.shadow.path p).pc = (w.div.path p).pc ∧ (w'.shadow.path p).mask = (w.div.path p).mask
      (∀ a, w.heldReset = some a → enters 0x0C 0 (w.div.path (w.div.valid.headD 0)).pc a 0 0) ∧
      (∀ h, w.heldReset = none → w.heldSibling = some h → h.left = 0 →
        enters 0x12 h.cause.toNat (w.div.path (w.div.valid.headD 0)).pc h.pc (BitVec.ofNat 64 (2 ^ 16 * h.crew + 2 ^ 8 * h.slot + h.used)) 0) ∧
      (∀ r, w.heldReset = none → (∀ h, w.heldSibling = some h → h.left ≠ 0) → w.heldReport = some r →
        enters 0x15 r.cause.toNat r.pc r.addr
          (BitVec.ofNat 64 ((if r.wave = some k then 0 else 2 ^ 24) + 2 ^ 16 * r.crew + 2 ^ 8 * r.slot)) (r.lanes.setWidth 64)))

/-- R327, R328, R330, R332, R334: SIBLING_HALT reaches a wave that the halt in progress has not yet reached. A wave that can issue may issue the event's skid
more instructions, at most 8; one in its handler holds the trap; one that is stalled takes it at once, with SKID 0. Memory does not change.
ASYNC_REPORT writes one fault-log record of the oldest report where the log has room, and delivers the report to its issuing wave where it has not
ended: the wave holds it, or, where it holds one already, has REPORTLOST set and the record says that none was delivered. -/
def Sys2Proof.Claims.HaltsAndReportsReachTheirWavesPart : Prop :=
  (∀ (s : State) (k skid : Nat) (w : Wave) (v : Convoy) (h : Halt), tget s.waves k = some w → tget s.convoys (keyConvoy k) = some v →
    v.residence = .placed → v.halt = some h → k ∈ h.waiting → w.heldSibling = none → w.ended = false → w.heldReset = none →
    ∃ t, exec (.siblingHalt k skid) s = .next t ∧ t.mem = s.mem ∧
      (w.inHandler = false → w.stalled = false → ∃ x, tget t.waves k = some { w with heldSibling := some x } ∧ x.left = min skid 8 ∧ x.used = 0 ∧
        x.cause = h.cause ∧ x.pc = h.pc ∧ x.crew = h.crew ∧ x.slot = h.slot) ∧
      (w.inHandler = true → ∃ x, tget t.waves k = some { w with heldSibling := some x } ∧ x.left = 0 ∧
        ∃ v', tget t.convoys (keyConvoy k) = some v' ∧ ∀ h', v'.halt = some h' → k ∉ h'.waiting) ∧
      (w.inHandler = false → w.stalled = true → w.txn.depth = 0 → v.desc.handler ≠ 0 →
        ∃ w', tget t.waves k = some w' ∧ w'.inHandler = true ∧ w'.trap.cause.toNat = 0x12 + 2 ^ 15 + 2 ^ 24 * h.cause.toNat ∧ w'.trap.addr = h.pc ∧
          w'.trap.skid = BitVec.ofNat 64 (2 ^ 16 * h.crew + 2 ^ 8 * h.slot))) ∧
  ∀ (s : State) (r : Report) (rest : List Report) (k : Nat) (w : Wave), s.logs.reports = r :: rest → r.wave = some k → tget s.waves k = some w →
    w.ended = false → s.logs.faults.length < Config.faultLogEntries →
    ∃ t f, exec .asyncReport s = .next t ∧ t.logs.reports = rest ∧ t.logs.faults = s.logs.faults ++ [f] ∧ t.mem = s.mem ∧
      f.bits.extractLsb' 172 8 = r.cause ∧ f.bits.extractLsb' 256 64 = r.addr ∧ f.bits.extractLsb' 320 64 = r.pc ∧
      f.bits.getLsbD 147 = false ∧ f.bits.getLsbD 146 = w.heldReport.isNone ∧
      tget t.waves k = some (if w.heldReport.isNone then { w with heldReport := some r } else { w with faultstat := w.faultstat ||| 2 })

/-- Asynchronous traps enter in their order, and halts and reports reach their waves. -/
def Obligations.AsynchronousTrapsHaltsAndReports : Prop :=
  Sys2Proof.Claims.AsynchronousTrapsEnterInTheirOrderPart ∧ Sys2Proof.Claims.HaltsAndReportsReachTheirWavesPart

/-! ### Loads and stores -/

/-- R493, R494, R408, R536, R537: outside a transaction, a vector load that can read all its lanes at once writes, in the lanes that are to be loaded, the bytes at each
lane's address, the least significant first, with its tag; other lanes and registers stay, and memory is as it was once the lines to be read
were in place. A scalar load writes the number at sA plus the EXT
offset, sign-extended in its signed forms, to sD (s0 discards it), whatever the active mask. With acquire the core's L1 then holds no line that is not coherent (R173). -/
def Sys2Proof.Claims.LoadsWriteWhatTheyReadPart : Prop :=
  (∀ r ∈ loadRows, ∀ (d a : BitVec 7) (m : BitVec 1) (st : BitVec 4) (sc : BitVec 3) (o : BitVec 2) (s s' s2 : State) (c : Ctx) (accs : List Acc),
    Passes s (r.1 d a m st sc o) (loadSpec d a m r.2.1) c →
    LoadsHere s s' s2 c r.2.1 st.toNat false (laneAddrs s c a m r.2.1 (c.acting &&& retryLanes c.w c.p c.path.pc)) accs →
    ∃ t w, exec (r.1 d a m st sc o) s = .next t ∧ tget t.waves c.key = some w ∧ AccessDone c w ∧ w.sregs = c.w.sregs ∧
      LanesLoaded c w ((opD d).reg c) (r.2.1 == 8) r.2.2 (accs.map fun x => (x.lane, readAcc s2 c r.2.1 x.tgt)) ∧
      (o ≠ 1 → OnlyWave s2 t c w) ∧
      (o = 1 → 1 ≤ actScope sc.toNat accs → ∀ line, coherentHere s2 (128 * line) = false → tget t.l1 (l1Key line c.w.core) = none)) ∧
  ∀ r ∈ scalarLoadRows, ∀ (d a : BitVec 6) (st : BitVec 4) (sc : BitVec 3) (o : BitVec 2) (s s' s2 : State) (c : Ctx) (x : Acc),
    Passes s (r.1 d a st sc o) { kinds := 0x18 } c →
    LoadsHere s s' s2 c r.2.1 st.toNat true [(0, c.w.sreg a.toNat + c.off)] [x] →
    ∃ t w, exec (r.1 d a st sc o) s = .next t ∧ tget t.waves c.key = some w ∧ AccessDone c w ∧ w.vregs = c.w.vregs ∧
      w.registerDirty = c.w.registerDirty ∧
      (∀ n < 64, w.sreg n = if n = d.toNat ∧ n ≠ 0 then extended r.2.1 r.2.2 (readAcc s2 c r.2.1 x.tgt) else c.w.sreg n) ∧
      (o ≠ 1 → OnlyWave s2 t c w)

/-- R493, R494, R170: outside a transaction, a vector load all of whose lanes lie in one other package, in no line that the stack holds, goes on with its lanes
outstanding; and LOAD_RETURN writes them from its data, in the lanes that are outstanding, and leaves everything else. -/
def Sys2Proof.Claims.LoadsFromOtherPackagesReturnLaterPart : Prop :=
  (∀ r ∈ loadRows, ∀ (d a : BitVec 7) (m : BitVec 1) (st : BitVec 4) (sc : BitVec 3) (o : BitVec 2) (s s' : State) (c : Ctx) (accs : List Acc)
      (pk : Nat),
    Passes s (r.1 d a m st sc o) (loadSpec d a m r.2.1) c → c.w.txn.depth = 0 → streamHeld c st.toNat = false →
    resolve s c .read r.2.1 false (laneAddrs s c a m r.2.1 (c.acting &&& retryLanes c.w c.p c.path.pc)) = .ok s' accs →
    loadWaits s c st.toNat accs = false → accs ≠ [] → pk ≠ s.pkg → isLost s pk = false →
    leasedDirty s (awayAccs s c.w.core accs) = false →
    (∀ x ∈ accs, readsPoison (checkReads s' c accs) (keyConvoy c.key) x.tgt = false ∧ isHeld s c.w.core x.tgt = false ∧
      isHeld s' c.w.core x.tgt = false ∧ ∃ pa cache, x.tgt = .mem pa cache ∧ paPkg pa = pk) →
    ∃ t w l, exec (r.1 d a m st sc o) s = .next t ∧ tget t.waves c.key = some w ∧ AccessDone c w ∧ w.sregs = c.w.sregs ∧
      (∀ n, ∀ L < 32, lane (w.vreg n).lanes L = lane (c.w.vreg n).lanes L) ∧ (∀ b, readByte t b = readByte s' b) ∧
      tget t.loads s'.nextId = some l ∧ l.wave = c.key ∧ l.pc = c.path.pc ∧ l.stream = st.toNat ∧ l.package = pk ∧
      l.lanes = laneMask (accs.map (·.lane)) ∧ l.dest = .vector ((opD d).reg c) (r.2.1 == 8) r.2.2 ∧ (l.acquire.isSome = true ↔ o = 1)) ∧
  (∀ (s : State) (n : Nat) (l : PendingLoad) (w : Wave) (v : Convoy) (reg : Nat) (pair : Bool) (tag : BitVec 4) (data : Vector Dword 32),
    tget s.loads n = some l → TablesInv s → tget s.waves l.wave = some w → tget s.convoys (keyConvoy l.wave) = some v → v.residence = .placed →
    w.ended = false → l.acquire = none → l.dest = .vector reg pair tag → reg < 256 → (pair = true → reg < 255) →
    ∃ t w', exec (.loadReturn n data false) s = .next t ∧ tget t.loads n = none ∧ tget t.waves l.wave = some w' ∧
      (∀ L < 32, lane (w'.vreg reg).lanes L = if l.lanes.getLsbD L then (vget data L 0).setWidth 32 else lane (w.vreg reg).lanes L) ∧
      (pair = true → ∀ L < 32, lane (w'.vreg (reg + 1)).lanes L =
        if l.lanes.getLsbD L then (vget data L 0 >>> 32).setWidth 32 else lane (w.vreg (reg + 1)).lanes L) ∧
      (w'.vreg reg).tag = tag ∧ (∀ k, k ≠ reg → (pair = true → k ≠ reg + 1) → w'.vreg k = w.vreg k) ∧
      w' = { w with div := w.div.setPath l.path { w.div.path l.path with waitedLong := false }, vregs := w'.vregs,
                    registerDirty := w'.registerDirty } ∧
      t = { s with loads := t.loads, waves := t.waves, epoch := t.epoch, draws := t.draws })

/-- Loads write the bytes they read, at once from this package, and when the answer returns from another. -/
def Obligations.LoadsWriteWhatTheyRead : Prop :=
  Sys2Proof.Claims.LoadsWriteWhatTheyReadPart ∧ Sys2Proof.Claims.LoadsFromOtherPackagesReturnLaterPart

/-- R540, R541, R536, R537, R164: outside a transaction, ST and SST whose lanes go to own scratch and to memory that their core can write store the bytes of their
register, the least significant first, at each lane's address, in ascending lane order; no other byte of memory or scratch and no register
changes. -/
def Sys2Proof.Claims.StoresWriteTheirBytesAndNoOthersPart : Prop :=
  (∀ (d a : BitVec 7) (m : BitVec 1) (st : BitVec 4) (sc : BitVec 3) (o : BitVec 2) (s s2 : State) (c : Ctx) (accs : List Acc),
    Passes s (.stB32 d a m st sc o) (storeSpec d a m 4) c →
    StoresHere s s2 c 4 st.toNat sc.toNat (o == 2) false (laneAddrs s c a m 4 (c.acting &&& retryLanes c.w c.p c.path.pc)) accs →
    ∃ t, exec (.stB32 d a m st sc o) s = .next t ∧
      Stored s2 t c 4 (fun L => (lane (regLanes s c ((opD d).reg c)) L).toNat) accs) ∧
  (∀ (d a : BitVec 7) (m : BitVec 1) (st : BitVec 4) (sc : BitVec 3) (o : BitVec 2) (s s2 : State) (c : Ctx) (accs : List Acc),
    Passes s (.stI64 d a m st sc o) (storeSpec d a m 8) c →
    StoresHere s s2 c 8 st.toNat sc.toNat (o == 2) false (laneAddrs s c a m 8 (c.acting &&& retryLanes c.w c.p c.path.pc)) accs →
    ∃ t, exec (.stI64 d a m st sc o) s = .next t ∧
      Stored s2 t c 8 (fun L => (lane (regLanes s c ((opD d).reg c)) L).toNat +
        2 ^ 32 * (lane (regLanes s c ((opD d).reg c + 1)) L).toNat) accs) ∧
  (∀ r ∈ scalarStoreRows, ∀ (d a : BitVec 6) (st : BitVec 4) (sc : BitVec 3) (o : BitVec 2) (s s2 : State) (c : Ctx) (accs : List Acc),
    Passes s (r.1 d a st sc o) { kinds := 0x18 } c →
    StoresHere s s2 c r.2 st.toNat sc.toNat (o == 2) true [(0, c.w.sreg a.toNat + c.off)] accs →
    ∃ t, exec (r.1 d a st sc o) s = .next t ∧ Stored s2 t c r.2 (fun _ => (c.w.sreg d.toNat).toNat) accs)

/-- R60, R61, R110, R112, R114, R181: a scalar store to a register through the aperture makes it RAW with the bytes stored and unordered against register
instructions; one to a control byte stores its defined bits; one to a peer crew's scratch counts as outstanding until the owning core
acknowledges it; one to another package, no line of which is leased, leaves as a packet of its stream. Memory of this package does not change. -/
def Sys2Proof.Claims.StoresToOtherSpacesPart : Prop :=
  ∀ r ∈ scalarStoreRows, ∀ (d a : BitVec 6) (st : BitVec 4) (sc : BitVec 3) (s s' : State) (c : Ctx) (x : Acc),
    Passes s (r.1 d a st sc 0) { kinds := 0x18 } c → c.w.txn.depth = 0 → streamHeld c st.toNat = false → writeWaits s c st.toNat false [x] = none →
    resolve s c .write r.2 true [(0, c.w.sreg a.toNat + c.off)] = .ok s' [x] →
    let byte (i : Nat) : Byte := BitVec.ofNat 8 ((c.w.sreg d.toNat).toNat / 2 ^ (8 * i))
    (∀ k reg off, x.tgt = .aperture k reg off → reg < 256 → off + r.2 ≤ 128 → ∀ y, tget s'.waves k = some y →
      ∃ t w, exec (r.1 d a st sc 0) s = .next t ∧ tget t.waves k = some w ∧ (w.vreg reg).tag = 0 ∧ w.apertureDirty.getLsbD reg = true ∧
        (∀ i < 128, (lane (w.vreg reg).lanes (i / 4)).extractLsb' (8 * (i % 4)) 8 =
          if off ≤ i ∧ i < off + r.2 then byte (i - off) else (lane (y.vreg reg).lanes (i / 4)).extractLsb' (8 * (i % 4)) 8) ∧
        (∀ n, n ≠ reg → w.vreg n = y.vreg n) ∧ ∀ b, readByte t b = readByte s' b) ∧
    (∀ i, x.tgt = .control i → ∀ y, tget s'.crews (keyCrewKey c.key) = some y → keysFrom 0 y.windows = true →
      ∃ t, exec (r.1 d a st sc 0) s = .next t ∧
        (∀ j, byteAt (t.crew (keyCrewKey c.key)).windows j = if i ≤ j ∧ j < i + r.2 then byte (j - i) &&& 0x1F else byteAt y.windows j) ∧
        (∀ b, readByte t b = readByte s' b)) ∧
    (∀ k off, x.tgt = .scratch k off → k ≠ keyCrew c.key → ∀ y, tget s'.waves c.key = some y →
      ∃ t w z, exec (r.1 d a st sc 0) s = .next t ∧ tget t.waves c.key = some w ∧ w.remoteStores = y.remoteStores + 1 ∧
        tget t.scratchOps s'.nextId = some z ∧ z.arrived = false ∧ z.target = crewKey (keyConvoy c.key) k ∧ z.stream = st.toNat ∧ z.op = 0 ∧
        z.writes = [(x.lane, off, BitVec.ofNat 64 ((c.w.sreg d.toNat).toNat % 2 ^ (8 * r.2)))] ∧ t.crews = s'.crews ∧
        (∀ b, readByte t b = readByte s' b)) ∧
    (∀ pa cache, x.tgt = .mem pa cache → paPkg pa ≠ s.pkg → isLost s (paPkg pa) = false → (∀ k, copyOf s' (lineOf pa) k = none) →
      ∃ t p, exec (r.1 d a st sc 0) s = .next t ∧ t.fabric.sent = s'.fabric.sent ++ [p] ∧ p.packet.dst = paPkg pa ∧
        p.packet.stream = st.toNat ∧ p.packet.src = s.pkg ∧ p.wave = some c.key ∧ p.packet.horizon = 0 ∧
        p.packet.ordered = !c.conv.desc.unordered.getLsbD st.toNat ∧
        p.packet.payload = .store ((List.range r.2).map fun i => (pa + i, byte i)) ∧ ∀ b, readByte t b = readByte s' b)

/-- Stores write their bytes and no others: in memory, in scratch, in the waymark window, to peers and to other packages. -/
def Obligations.StoresWriteTheirBytesAndNoOthers : Prop :=
  Sys2Proof.Claims.StoresWriteTheirBytesAndNoOthersPart ∧ Sys2Proof.Claims.StoresToOtherSpacesPart

/-- R558, R559, R270: outside a transaction WLD, no error being armed at the replica's detector, reads the package's waymark replica in its context's window. R509, R510: PREF translates as a load and changes no
register and no byte of memory of a line whose copies are in place. R438 to R440: CFLUSH drops its lines from the core's L1; at package scope or
wider it writes a software-managed line's dirty bytes home, where every reader then sees them, and drops the copy of a stack that is not the home. -/
def Obligations.WaymarkLoadsPrefetchesAndFlushes : Prop :=
  (∀ r ∈ ([(.wldN32, 4, 5), (.wldN64, 8, 0xF)] : List ((BitVec 7 → BitVec 7 → BitVec 1 → BitVec 4 → BitVec 2 → Instr) × Nat × BitVec 4)),
    ∀ (d a : BitVec 7) (m : BitVec 1) (st : BitVec 4) (o : BitVec 2) (s : State) (c : Ctx),
    Passes s (r.1 d a m st o) { kinds := 0x1C, modMask := modPlain, opnds := [(opD d).group (r.2.1 / 4)] ++ opAdr a m, tags := fun c => needAdr c a m } c →
    c.w.txn.depth = 0 → streamHeld c st.toNat = false → acquireOut s c.key st.toNat = false → armed s 10 0 0 = 0 →
    (∀ l ∈ laneAddrs s c a m r.2.1 c.acting, l.2.toNat % r.2.1 = 0 ∧ l.2.toNat + r.2.1 ≤ c.conv.desc.wmSize ∧
      s.poisoned.contains (waymarkPoison ((c.conv.desc.wmBase + l.2.toNat) / 128)) = false) →
    ∃ t w, exec (r.1 d a m st o) s = .next t ∧ tget t.waves c.key = some w ∧ AccessDone c w ∧ w.sregs = c.w.sregs ∧
      LanesLoaded c w ((opD d).reg c) (r.2.1 == 8) r.2.2
        ((laneAddrs s c a m r.2.1 c.acting).map fun l => (l.1, readNat s.waymark (c.conv.desc.wmBase + l.2.toNat) r.2.1)) ∧
      (o ≠ 1 → OnlyWave s t c w)) ∧
  (∀ (a : BitVec 7) (m : BitVec 1) (st : BitVec 4) (sc : BitVec 3) (s s' : State) (c : Ctx) (accs : List Acc),
    Passes s (.pref a m st sc) { kinds := 0x1C, modMask := modPlain, opnds := opAdr a m, tags := fun c => needAdr c a m } c →
    streamHeld c st.toNat = false →
    resolve s c .read 1 (m == 1) (lineAddrs s c a m (c.acting &&& retryLanes c.w c.p c.path.pc)) = .ok s' accs →
    ∃ t w, exec (.pref a m st sc) s = .next t ∧ tget t.waves c.key = some w ∧ AccessDone c w ∧ w.vregs = c.w.vregs ∧ w.sregs = c.w.sregs ∧
      ((∀ x ∈ accs, ∀ pa cache, x.tgt = .mem pa cache →
        paPkg pa = s.pkg ∧ (coherentHere s' pa = true → (copyOf s' (lineOf pa) (coreStack c.w.core)).isSome = true)) →
        ∀ b, readByte t b = readByte s' b)) ∧
  (∀ (a : BitVec 7) (m : BitVec 1) (st : BitVec 4) (sc : BitVec 3) (s s' : State) (c : Ctx) (accs : List Acc),
    Passes s (.cflush a m st sc) { kinds := 0x1C, modMask := modPlain, opnds := opAdr a m, inTx := false, tags := fun c => needAdr c a m } c →
    streamHeld c st.toNat = false → (∀ e ∈ s.loads, e.2.wave ≠ c.key) → c.w.core < 512 →
    resolve s c .read 1 (m == 1) (lineAddrs s c a m c.acting) = .ok s' accs → TablesInv s' → BytesInv s' →
    ∃ t w, exec (.cflush a m st sc) s = .next t ∧ tget t.waves c.key = some w ∧ AccessDone c w ∧ w.vregs = c.w.vregs ∧ w.sregs = c.w.sregs ∧
      (∀ x ∈ accs, ∀ pa cache, x.tgt = .mem pa cache → tget t.l1 (l1Key (lineOf pa) c.w.core) = none) ∧
      (∀ x pa cache, accs = [x] → x.tgt = .mem pa cache → isSoftware s' pa = true → cache = 0 → 3 ≤ sc.toNat → (paRegion pa = 8 → sc = 5) →
        (isHome s' (coreStack c.w.core) pa = false → copyOf t (lineOf pa) (coreStack c.w.core) = none) ∧
        (∀ y, copyOf s' (lineOf pa) (coreStack c.w.core) = some y → ∀ i < 128,
          readByte t (128 * lineOf pa + i) = if y.dirty.getLsbD i then byteAt y.bytes i else readByte s' (128 * lineOf pa + i)) ∧
        ∀ b, lineOf b ≠ lineOf pa → readByte t b = readByte s' b))

/-! ### Atomics -/

/-- R425 to R428, R407, R518, R519, R158: an atomic that performs all its lanes in this package does so in ascending lane order, and returns in each lane of DV the value
that the location had; RED returns none. The tags, the other lanes and the other registers stay. One lane replaces the bytes of its location
by the operation's result and changes no other. -/
def Obligations.AtomicsReplaceAndReturnTheOldValue : Prop :=
  (∀ r ∈ atomRows, ∀ (d a : BitVec 7) (m : BitVec 1) (st : BitVec 4) (sc : BitVec 3) (o : BitVec 2) (s s2 s3 : State) (c : Ctx) (accs : List Acc)
      (olds : List (Nat × Nat)),
    Passes s (r.1 d a m st sc o) (atomSpec c r.2 d a m) c →
    let n := atomBytes c d
    let reg := (opD d).reg c
    let float : Bool := (c.w.vreg reg).tag == 1 && decide (r.2 ≤ 2)
    AtomsHere s s2 s3 c r.2 n st.toNat sc.toNat float false (o.getLsbD 1) (atomData s c n reg) (atomData s c n (reg + n / 4))
      (laneAddrs s c a m n c.acting) accs olds →
    ∃ t w, exec (r.1 d a m st sc o) s = .next t ∧ tget t.waves c.key = some w ∧ AccessDone c w ∧ w.sregs = c.w.sregs ∧
      olds.map (·.1) = accs.map (·.lane) ∧
      (∀ v ∈ olds, lane (w.vreg reg).lanes v.1 = BitVec.ofNat 32 v.2 ∧
        (n = 8 → lane (w.vreg (reg + 1)).lanes v.1 = BitVec.ofNat 32 (v.2 / 2 ^ 32))) ∧
      (∀ k, (w.vreg k).tag = (c.w.vreg k).tag ∧ ∀ L < 32, ((k = reg ∨ (n = 8 ∧ k = reg + 1)) → L ∉ olds.map (·.1)) →
        lane (w.vreg k).lanes L = lane (c.w.vreg k).lanes L) ∧
      (o.getLsbD 0 = false → (∀ b, readByte t b = readByte s3 b) ∧ t.crews = s3.crews) ∧
      (o.getLsbD 0 = false → BytesInv s2 → ∀ x, accs = [x] → AtomEffect s2 t c r.2 n (actScope sc.toNat accs) float (atomData s c n reg)
        (atomData s c n (reg + n / 4)) x olds)) ∧
  (∀ r ∈ redRows, ∀ (d a : BitVec 7) (m : BitVec 1) (st : BitVec 4) (sc : BitVec 3) (o : BitVec 2) (s s2 s3 : State) (c : Ctx) (accs : List Acc)
      (olds : List (Nat × Nat)),
    Passes s (r.1 d a m st sc o) (atomSpec c r.2 d a m) c →
    let n := atomBytes c d
    let reg := (opD d).reg c
    let float : Bool := (c.w.vreg reg).tag == 1 && decide (r.2 ≤ 2)
    AtomsHere s s2 s3 c r.2 n st.toNat sc.toNat float true (o.getLsbD 1) (atomData s c n reg) (atomData s c n (reg + n / 4))
      (laneAddrs s c a m n c.acting) accs olds →
    ∃ t w, exec (r.1 d a m st sc o) s = .next t ∧ tget t.waves c.key = some w ∧ AccessDone c w ∧ w.sregs = c.w.sregs ∧ w.vregs = c.w.vregs ∧
      (∀ b, readByte t b = readByte s3 b) ∧ t.crews = s3.crews ∧
      (BytesInv s2 → ∀ x, accs = [x] → AtomEffect s2 t c r.2 n (actScope sc.toNat accs) float (atomData s c n reg)
        (atomData s c n (reg + n / 4)) x olds))

/-! ### Fences and waits -/

/-- R465 to R468, R173, R61: FENCE completes once no access of its streams is outstanding, and from cluster scope no store to peer scratch; until then it waits at
its own PC. Its scope cleans and invalidates: from package scope the stack keeps no copy of a software-managed line that it does not home, and
below it no byte of memory changes; at core scope it orders register instructions against aperture accesses. R184, R502: MSFENCE
waits until every packet of its streams has arrived. R185, R503, R504: MSWAIT waits until the milestone has been applied and every arrival stamped below it
has committed, and raises the horizon, which its streams carry from then on. R232, R507, R505: OPFENCE orders the wave's stores to scratch, but those
to a peer that are not acknowledged, and what its acquires include; MWAIT waits until at most n of its matrix
instructions are outstanding. None changes a register. -/
def Obligations.FencesAndWaitsComplete : Prop :=
  (∀ (u : BitVec 1) (sc : BitVec 3) (k : BitVec 16) (s : State) (c : Ctx), Passes s (.fence u sc k) { inTx := false } c →
    let waits : Prop := heldStreams c &&& k ≠ 0 ∨ (∃ j < 16, k.getLsbD j = true ∧ releaseWaits s c.key j = true) ∨ (1 ≤ sc.toNat ∧ c.w.remoteStores ≠ 0)
    let clean := cleanStack s (coreStack c.w.core) sc.toNat
    let backs : Prop := 3 ≤ sc.toNat ∧ backsOut clean (coreStack c.w.core) = true
    (waits → exec (.fence u sc k) s = .next (stall s c 13 k)) ∧
    (¬waits → backs → exec (.fence u sc k) s = .next (stall
      (if clean.fabric.sent.length = s.fabric.sent.length then s else { clean with epoch := clean.epoch + 1 }) c 13 k)) ∧
    (¬waits → ¬backs → TablesInv s →
      ∃ t w, exec (.fence u sc k) s = .next t ∧ tget t.waves c.key = some w ∧ AccessDone c w ∧ w.vregs = c.w.vregs ∧ w.sregs = c.w.sregs ∧
        w.fences = { c.w.fences with crew := w.fences.crew, wide := w.fences.wide } ∧ w.remoteStores = c.w.remoteStores ∧
        (sc = 0 → w.apertureDirty = 0 ∧ w.registerDirty = 0) ∧
        (sc ≠ 0 → w.apertureDirty = c.w.apertureDirty ∧ w.registerDirty = c.w.registerDirty) ∧
        (sc.toNat < 3 → ∀ b, readByte t b = readByte s b) ∧
        (1 ≤ sc.toNat → ∀ line, c.w.core < 512 → coherentHere s (128 * line) = false → tget t.l1 (l1Key line c.w.core) = none) ∧
        (3 ≤ sc.toNat → c.w.core < 512 → ∀ line, scopeCleans s sc.toNat line = true → isHome s (coreStack c.w.core) (128 * line) = false →
          copyOf t line (coreStack c.w.core) = none))) ∧
  (∀ (k : BitVec 16) (s : State) (c : Ctx), Passes s (.msfence k) { inTx := false } c →
    let waits : Prop := heldStreams c &&& k ≠ 0 ∨
      ∃ p ∈ s.fabric.sent, p.wave = some c.key ∧ p.stage = 0 ∧ k.getLsbD p.packet.stream = true
    (waits → exec (.msfence k) s = .next (stall s c 14 k)) ∧
    (¬waits → ∃ t, exec (.msfence k) s = .next t ∧ WaveDone s t c (c.path.pc + 4) id)) ∧
  (∀ (m : BitVec 6) (k : BitVec 16) (s : State) (c : Ctx), Passes s (.mswait m k) { inTx := false } c →
    let ms := c.w.sreg m.toNat
    let waits : Prop := heldStreams c &&& k ≠ 0 ∨ s.ring.applied < ms ∨ ∃ a ∈ s.fabric.arrivals, a.stamp < ms
    (waits → exec (.mswait m k) s = .next (stall s c 15 k)) ∧
    (¬waits → ∃ t w, exec (.mswait m k) s = .next t ∧ tget t.waves c.key = some w ∧ GoesOn c w (c.path.pc + 4) ∧ LatchesStay c w ∧
      w.horizon.toNat = max c.w.horizon.toNat ms.toNat ∧
      w = { c.w with div := w.div, retry := c.w.retryAfter c.p, heldSibling := w.heldSibling, horizon := w.horizon, named := c.w.named ||| k,
                     fences := w.fences, txn := { c.w.txn with reads := w.txn.reads } } ∧
      ∀ line, c.w.core < 512 → coherentHere s (128 * line) = false → tget t.l1 (l1Key line c.w.core) = none)) ∧
  (∀ (s : State) (c : Ctx), Passes s .opfence {} c →
    ∃ t w, exec .opfence s = .next t ∧ tget t.waves c.key = some w ∧ GoesOn c w (c.path.pc + 4) ∧ LatchesStay c w ∧
      w = { c.w with div := w.div, retry := c.w.retryAfter c.p, heldSibling := w.heldSibling,
                     fences := { c.w.fences with own := s.epoch + 1, crewDone := c.w.fences.crew, wideDone := c.w.fences.wide } } ∧
      (∀ k, k ≠ c.key → tget t.waves k = tget s.waves k) ∧ t = { s with waves := t.waves, crews := t.crews, draws := t.draws, epoch := t.epoch } ∧
      (∀ k, t.crew k = { s.crew k with stores := (t.crew k).stores }) ∧
      ((∀ e ∈ s.scratchOps, e.2.wave = c.key → e.2.arrived = false) → t.crews = s.crews)) ∧
  (∀ (n : BitVec 4) (s : State) (c : Ctx), Passes s (.mwait n) {} c →
    (n.toNat < c.w.outstanding → exec (.mwait n) s = .next (stall s c 16 0)) ∧
    (c.w.outstanding ≤ n.toNat → ∃ t, exec (.mwait n) s = .next t ∧
      WaveDone s t c (c.path.pc + 4) fun w => { w with unwaited := w.unwaited.drop (w.unwaited.length - n.toNat) }))

/-! ### Transactions -/

/-- R195, R196, R202 to R206, R209, R543 to R548: TBEGIN opens a level with its fail label, the outermost a fresh attempt, and at depth 4 raises TX_NEST_OVERFLOW; TCOMMIT closes an
inner level, whose bytes stay buffered; TABORT closes the innermost level, whose bytes go, and goes to its fail label; TELSE registers an
alternative; TRETRY takes the highest one left, or ends the attempt, which runs again at once where its read set has changed, and else sleeps;
TSTAT gives the status word. At depth 0 (TRETRY: with no read set retained) each of TCOMMIT, TABORT, TELSE and TRETRY only goes on. -/
def Obligations.TransactionInstructionsMoveTheLevels : Prop :=
  (∀ (o : BitVec 16) (s : State) (c : Ctx), Passes s (.tbegin o) oneSpec c →
    (c.w.txn.depth = 4 → exec (.tbegin o) s = .next (trapIssue s c (trapOf 0x0F 0 none false))) ∧
    (c.w.txn.depth.toNat < 4 → ∃ t x, exec (.tbegin o) s = .next t ∧ WaveDone s t c (c.path.pc + 4) (fun w => { w with txn := x }) ∧
      x.depth = c.w.txn.depth + 1 ∧ vget x.fails c.w.txn.depth.toNat 0 = c.path.pc + BitVec.ofInt 64 (4 * o.toInt) ∧
      vget x.alts c.w.txn.depth.toNat none = none ∧ x.code = c.w.txn.code ∧
      (c.w.txn.depth = 0 → x.start = c.path.pc ∧ x.reads = [] ∧ x.buffer = [] ∧ x.retained = false ∧ x.pageMode = false ∧ x.cause = 0 ∧
        x.alts = Vector.replicate 4 none) ∧
      (c.w.txn.depth ≠ 0 → x = { c.w.txn with depth := x.depth, fails := x.fails, alts := x.alts } ∧
        ∀ j, j ≠ c.w.txn.depth.toNat → vget x.fails j 0 = vget c.w.txn.fails j 0 ∧ vget x.alts j none = vget c.w.txn.alts j none))) ∧
  (∀ (s : State) (c : Ctx), Passes s .tcommit oneSpec c →
    (c.w.txn.depth = 0 → ∃ t, exec .tcommit s = .next t ∧ WaveDone s t c (c.path.pc + 4) id) ∧
    (2 ≤ c.w.txn.depth.toNat → BufferOk c.w.txn → ∃ t x, exec .tcommit s = .next t ∧
      WaveDone s t c (c.path.pc + 4) (fun w => { w with txn := x }) ∧ x.depth = c.w.txn.depth - 1 ∧ BufferOk x ∧
      (∀ p o, bufferedByte x p o = bufferedByte c.w.txn p o) ∧ x.alts = c.w.txn.alts.setIfInBounds (c.w.txn.depth.toNat - 1) none ∧
      x = { c.w.txn with depth := x.depth, buffer := x.buffer, alts := x.alts })) ∧
  (∀ (code : BitVec 8) (s : State) (c : Ctx), Passes s (.tabort code) oneSpec c →
    (c.w.txn.depth = 0 → ∃ t, exec (.tabort code) s = .next t ∧ WaveDone s t c (c.path.pc + 4) id) ∧
    (c.w.txn.depth ≠ 0 → ∃ t x, exec (.tabort code) s = .next t ∧
      WaveDone s t c (vget c.w.txn.fails (c.w.txn.depth.toNat - 1) 0) (fun w => { w with txn := x }) ∧
      x.depth = c.w.txn.depth - 1 ∧ x.cause = 1 ∧ x.code = code ∧ x.reads = c.w.txn.reads ∧ x.fails = c.w.txn.fails ∧
      x.buffer = c.w.txn.buffer.filter (fun l => l.level ≠ c.w.txn.depth.toNat) ∧ (c.w.txn.depth = 1 → x.retained = true))) ∧
  (∀ (o : BitVec 16) (s : State) (c : Ctx), Passes s (.telse o) oneSpec c →
    (c.w.txn.depth = 0 → ∃ t, exec (.telse o) s = .next t ∧ WaveDone s t c (c.path.pc + 4) id) ∧
    (c.w.txn.depth ≠ 0 →
      let x : Alt := { label := c.path.pc + BitVec.ofInt 64 (4 * o.toInt), taken := false }
      let f (w : Wave) : Wave := { w with txn := { w.txn with alts := w.txn.alts.setIfInBounds (w.txn.depth.toNat - 1) (some x) } }
      ∃ t, exec (.telse o) s = .next t ∧ WaveDone s t c (c.path.pc + 4) f)) ∧
  (∀ (s : State) (c : Ctx), Passes s .tretry oneSpec c → c.w.txn.depth.toNat ≤ 4 →
    (c.w.txn.depth = 0 → c.w.txn.retained = false → ∃ t, exec .tretry s = .next t ∧ WaveDone s t c (c.path.pc + 4) id) ∧
    (∀ j label, NextAlternative c.w.txn j label → ∃ t x, exec .tretry s = .next t ∧ WaveDone s t c label (fun w => { w with txn := x }) ∧
      x.depth.toNat = j ∧ vget x.alts (j - 1) none = some { label := label, taken := true } ∧
      x.buffer = c.w.txn.buffer.filter (fun l => l.level < j) ∧ x.reads = c.w.txn.reads ∧ x.start = c.w.txn.start) ∧
    (c.w.txn.depth ≠ 0 ∨ c.w.txn.retained = true → (∀ j label, ¬NextAlternative c.w.txn j label) →
      (c.w.txn.reads.any (·.changed) = true → ∃ t x, exec .tretry s = .next t ∧ WaveDone s t c c.w.txn.start (fun w => { w with txn := x }) ∧
        x.depth = 0 ∧ x.buffer = [] ∧ x.cause = 9) ∧
      (c.w.txn.reads.any (·.changed) = false → ∃ t x, exec .tretry s = .next t ∧
        WaveDone s t c c.w.txn.start (fun w => { w with txn := x, asleep := true, sleptAt := s.clock }) ∧
        x.depth = 0 ∧ x.buffer = [] ∧ x.reads = c.w.txn.reads))) ∧
  (∀ (d : BitVec 6) (s : State) (c : Ctx), Passes s (.tstat d) oneSpec c → c.w.txn.reads.length < 256 →
    ∃ t, exec (.tstat d) s = .next t ∧ ScalarSet s t c (c.path.pc + 4) d.toNat (BitVec.ofNat 64 (statusWord c.w.txn)))

/-- R202, R544, R201: an outermost TCOMMIT with an unchanged read set, nothing outstanding and every buffered line in own scratch, no window of it refusing stores, or in
coherent memory that the core's stack can write performs the whole buffer at once: each buffered byte then stands in its place and every other byte as the release left it
(`s1`). With a changed read set it aborts with CONFLICT and performs none. -/
def Obligations.TheOutermostCommitPerformsTheBuffer : Prop :=
  ∀ (s : State) (c : Ctx), Passes s .tcommit oneSpec c → c.w.txn.depth = 1 →
    (c.w.txn.reads.any (·.changed) = true → ∃ t w, exec .tcommit s = .next t ∧ OnlyWave s t c w ∧ w.txn.depth = 0 ∧ w.txn.cause = 2 ∧
      w.txn.buffer = [] ∧ w.txn.retained = true ∧ (w.div.path c.p).pc = vget c.w.txn.fails 0 0) ∧
    (c.w.txn.reads.any (·.changed) = false → (∀ k < 16, releaseWaits s c.key k = false) → BufferOk c.w.txn → TablesInv s → BytesInv s →
      let s1 := cleanStack s (coreStack c.w.core) 3
      backsOut s1 (coreStack c.w.core) = false →
      (∀ l ∈ c.w.txn.buffer, l.place.space = .scratch →
        windowCause s (keyConvoy c.key) (keyCrew c.key) (keyCrew c.key) l.place.unit true = none) →
      (∀ l ∈ c.w.txn.buffer, CanWrite s1 c (placeTarget l.place) ∧ (l.place.space = .scratch → l.place.owner = keyCrewKey c.key) ∧
        (l.place.space ≠ .scratch → l.place.space = .mem ∧ l.place.owner = 0 ∧ coherentHere s1 (128 * l.place.unit) = true)) →
      ∃ t w, exec .tcommit s = .next t ∧ tget t.waves c.key = some w ∧ AccessDone c { w with txn := c.w.txn } ∧ w.vregs = c.w.vregs ∧
        w.sregs = c.w.sregs ∧ w.txn.depth = 0 ∧ w.txn.buffer = [] ∧ w.txn.reads = [] ∧ w.txn.retained = false ∧
        (∀ b, readByte t b = (bufferedByte c.w.txn (memPlace (b / 128)) (b % 128)).getD (readByte s1 b)) ∧
        (∀ b, byteAt (t.crew (keyCrewKey c.key)).scratch b =
          (bufferedByte c.w.txn (scratchPlace (keyCrewKey c.key) (b / 128)) (b % 128)).getD (byteAt (s.crew (keyCrewKey c.key)).scratch b)))

/-- R199 to R201, R206 to R208: in a transaction a scalar store goes to the write buffer of its level and changes no memory; a scalar load sees the buffered bytes over those of
its location, which joins the read set. WAKE wakes a sleeping wave one of whose watched lines has changed, with cause WOKEN, and aborts an
open attempt with CONFLICT, which goes on at its fail label; TIMED_WAKE, once due, wakes a wave with cause SPURIOUS. -/
def Obligations.TransactionsBufferStoresAndWatchLoads : Prop :=
  (∀ r ∈ scalarStoreRows, ∀ (d a : BitVec 6) (st : BitVec 4) (sc : BitVec 3) (o : BitVec 2) (s s' : State) (c : Ctx) (x : Acc) (p : Place),
    Passes s (r.1 d a st sc o) { kinds := 0x18 } c → c.w.txn.depth ≠ 0 → streamHeld c st.toNat = false →
    resolve s c .write r.2 true [(0, c.w.sreg a.toNat + c.off)] = .ok s' [x] → trackedPlace s' c x.tgt = some p →
    c.w.txn.buffer.length < 16 → (∀ l ∈ c.w.txn.buffer, l.level ≤ c.w.txn.depth.toNat) →
    ∃ t w, exec (r.1 d a st sc o) s = .next t ∧ tget t.waves c.key = some w ∧ GoesOn c w (c.path.pc + 4) ∧ w.sregs = c.w.sregs ∧ w.vregs = c.w.vregs ∧
      w.txn.depth = c.w.txn.depth ∧ (∀ b, readByte t b = readByte s' b) ∧ t.crews = s'.crews ∧
      (∀ i < r.2, bufferedByte w.txn p (lineOffset x.tgt + i) = some (BitVec.ofNat 8 ((c.w.sreg d.toNat).toNat / 2 ^ (8 * i)))) ∧
      (∀ q i, (q ≠ p ∨ i < lineOffset x.tgt ∨ lineOffset x.tgt + r.2 ≤ i) → bufferedByte w.txn q i = bufferedByte c.w.txn q i)) ∧
  (∀ r ∈ scalarLoadRows, ∀ (d a : BitVec 6) (st : BitVec 4) (sc : BitVec 3) (o : BitVec 2) (s s' s2 s3 : State) (c : Ctx) (x : Acc) (p : Place),
    Passes s (r.1 d a st sc o) { kinds := 0x18 } c → c.w.txn.depth ≠ 0 → streamHeld c st.toNat = false →
    resolve s c .read r.2.1 true [(0, c.w.sreg a.toNat + c.off)] = .ok s' [x] → x.tgt.foreign s = false →
    readsPoison (checkReads s' c [x]) (keyConvoy c.key) x.tgt = false → trackedPlace s' c x.tgt = some p → c.w.txn.pageMode = false →
    touchReads (checkReads s' c [x]) c.w.core (bits (c.ext.payload 4).toNat 16 2 != 3) [x] = some s2 → addRead s2 c.key p = (s3, false) → o ≠ 1 →
    ∃ t w, exec (r.1 d a st sc o) s = .next t ∧ tget t.waves c.key = some w ∧ GoesOn c w (c.path.pc + 4) ∧ w.vregs = c.w.vregs ∧
      (∀ b, readByte t b = readByte s3 b) ∧ w.txn.depth = c.w.txn.depth ∧ w.txn.buffer = c.w.txn.buffer ∧
      (∃ e ∈ w.txn.reads, watches w.txn.pageMode e.place p = true) ∧
      (∀ n < 64, w.sreg n = if n = d.toNat ∧ n ≠ 0 then
        extended r.2.1 r.2.2 (leNat ((readTarget s3 (keyConvoy c.key) (keyCrew c.key) c.w.core r.2.1 x.tgt).mapIdx fun i b =>
          (bufferedByte c.w.txn p (lineOffset x.tgt + i)).getD b)) else c.w.sreg n)) ∧
  (∀ (s : State) (k : Nat) (w : Wave) (v : Convoy), tget s.waves k = some w → tget s.convoys (keyConvoy k) = some v → v.residence = .placed →
    w.ended = false → (∃ e ∈ w.txn.reads, e.changed = true ∧ e.tabled = true) →
    (w.asleep = true → ∃ t w', exec (.wake k) s = .next t ∧ tget t.waves k = some w' ∧ w'.asleep = false ∧ w'.txn.cause = 9 ∧ w'.div = w.div ∧
      w'.vregs = w.vregs ∧ w'.sregs = w.sregs ∧ t.mem = s.mem) ∧
    (w.asleep = false → w.txn.depth ≠ 0 → ∀ q < 8, w.div.valid = [q] →
      ∃ t w', exec (.wake k) s = .next t ∧ tget t.waves k = some w' ∧ w'.txn.depth = 0 ∧ w'.txn.buffer = [] ∧ w'.txn.cause = 2 ∧
        w'.txn.retained = true ∧ w'.txn.reads = w.txn.reads ∧ (w'.div.path q).pc = vget w.txn.fails 0 0 ∧ w'.vregs = w.vregs ∧ w'.sregs = w.sregs ∧
        t.mem = s.mem)) ∧
  (∀ (s : State), TablesInv s → (∃ e ∈ s.waves, timedDue s e.2 = true ∧ isPlaced s e.1 = true) →
    ∃ t k w w', exec .timedWake s = .next t ∧ (k, w) ∈ s.waves ∧ timedDue s w = true ∧ tget t.waves k = some w' ∧ w'.asleep = false ∧
      w'.txn.cause = 10 ∧ w'.div = w.div ∧ t.mem = s.mem)

/-! ### Matrix and tile instructions -/

/-- R229 to R231, R496, R52: a matrix instruction whose checks pass joins its core's queue and counts as outstanding, and the path goes on; no register changes. Its joint
form holds its path until every member of its group has issued it, and then joins the queue. MATRIX_START takes the next one and reads its
operands. -/
def Sys2Proof.Claims.MatrixInstructionsJoinTheQueuePart : Prop :=
  (∀ r ∈ matRows, ∀ (t f g : BitVec 4) (a b : BitVec 6) (s : State) (c : Ctx), let m := matFields r.2 false t f g a b
    Passes s (r.1 t f g a b) (matSpec s m) c → TablesInv s → matTrap s c m = none → matWait s c m.tile = none →
    tileBusy s (keyCrewKey c.key) m.tile c.key false = false →
    ∃ u w op, exec (r.1 t f g a b) s = .next u ∧ tget u.waves c.key = some w ∧ GoesOn c w (c.path.pc + 4) ∧ LatchesStay c w ∧
      w = { c.w with div := w.div, retry := c.w.retryAfter c.p, heldSibling := w.heldSibling, outstanding := c.w.outstanding + 1,
                     matSeq := c.w.matSeq + 1, unwaited := c.w.unwaited ++ [m.tile] } ∧
      u.core c.w.core = { s.core c.w.core with queue := (s.core c.w.core).queue ++ [op] } ∧ queuedAs c m op ∧ op.undefined = false ∧
      ((∀ x ∈ matOperands c m, ∀ l ∈ linesOf (x.ea.toNat % 2 ^ 24) x.size,
        unordered s c.key c.w (crewKey (keyConvoy c.key) x.crew) l = false) → op.freeRows = [] ∧ op.freeCols = []) ∧
      (∀ k, k ≠ c.w.core → u.core k = s.core k) ∧ u.crews = s.crews ∧ u.mem = s.mem ∧ u.copies = s.copies) ∧
  (∀ r ∈ matJointRows, ∀ (t f g : BitVec 4) (a b : BitVec 6) (s : State) (c : Ctx), let m := matFields r.2 true t f g a b
    Passes s (r.1 t f g a b) (matIssueSpec s m) c →
    (∃ u w, exec (r.1 t f g a b) s = .next u ∧ tget u.waves c.key = some w ∧
      w = { c.w with joined := none, div := w.div } ∧ w.div.path c.p = { c.path with hold := .joint c.ext.imm.toNat (r.1 t f g a b) } ∧
      (∀ q, q ≠ c.p → w.div.path q = c.w.div.path q) ∧ w.div.strands = c.w.div.strands ∧
      (∀ k, k ≠ c.key → tget u.waves k = tget s.waves k) ∧ u = { s with waves := u.waves, epoch := u.epoch }) ∧
    (∀ (z : State) (w : Wave) (x : Ctx) (n : Nat), groupMembers z (keyConvoy x.key) n = [(x.key, w)] →
      memberIssued n w = true → memberCtx z x.key w = some (x, r.1 t f g a b) → TablesInv z → tget z.waves x.key = some w →
      matTrap z x m = none → matWait z x m.tile = none → tileBusy z (keyCrewKey x.key) m.tile x.key false = false → x.path.stepping = false →
      ∃ y op, tget (startJoint z (keyConvoy x.key) n).waves x.key = some y ∧ GoesOn x y (x.path.pc + 4) ∧ y.outstanding = w.outstanding + 1 ∧
        (y.div.path x.p).hold = .none ∧ y.vregs = w.vregs ∧ y.sregs = w.sregs ∧
        ((startJoint z (keyConvoy x.key) n).core x.w.core).queue = (z.core x.w.core).queue ++ [op] ∧ queuedAs x m op)) ∧
  (∀ (core : Nat) (s : State) (m : MatrixOp) (rest : List MatrixOp), (s.core core).running = none → (s.core core).queue = m :: rest →
    (s.core core).resetting = false → operandsPoisoned s m = false → armed s 1 (coreStack core) (core % 128) = 0 → TablesInv s →
    ∃ t, exec (.matrixStart core) s = .next t ∧
      t.core core = { s.core core with queue := rest, running := some { m with started := some (readOperands s m) }, runningSince := s.clock } ∧
      (∀ k, k ≠ core → t.core k = s.core k) ∧ t = { s with cores := t.cores, epoch := t.epoch })

/-- R226, R94 to R96, R225, R231: MATRIX_COMPLETE writes each element of the tile: an integer one the sum of its products modulo 2^32, a float one its block sums rounded into it one
after the other, a graded one those times their graded scales, but for rows and columns of operands that were not ordered (R179); the tag stays,
and the wave's count falls. No register and no byte of memory
or scratch changes. -/
def Sys2Proof.Claims.MatrixInstructionsComputeTheirTilePart : Prop :=
  ∀ (core : Nat) (s : State) (m : MatrixOp) (ba bb pa pb : List Byte) (w : Wave) (y : Crew),
    (s.core core).running = some m → (s.core core).resetting = false → m.undefined = false → m.started = some (ba, bb, pa, pb) →
    tget s.waves m.wave = some w → tget s.crews (keyCrewKey m.wave) = some y → TablesInv s → BytesInv s →
    (m.rows = 32 ∨ m.rows = 64) → (m.cols = 32 ∨ m.cols = 64) → ba.length = 96 * m.rows → bb.length = 96 * m.cols → m.fa < 10 → m.fb < 10 →
    (m.kind = 2 → m.fa = 7) → (m.ta = true → m.kind = 0 ∧ m.fa ≤ 4) → (m.tb = true → m.kind = 0 ∧ m.fb ≤ 4) → matBits m.fa = matBits m.fb →
    ∃ t w', exec (.matrixComplete core) s = .next t ∧ tget t.waves m.wave = some w' ∧ w' = { w with outstanding := w.outstanding - 1 } ∧
      t.core core = { s.core core with running := none, finished := (t.core core).finished } ∧ t.mem = s.mem ∧
      (∀ k, (t.crew k).scratch = (s.crew k).scratch ∧ ∀ n, (k, n) ≠ (keyCrewKey m.wave, m.tile) → t.tile k n = s.tile k n) ∧
      let old := s.tile (keyCrewKey m.wave) m.tile
      let new := t.tile (keyCrewKey m.wave) m.tile
      new.tag = old.tag ∧
      (∀ i < m.rows, ∀ j < m.cols, i ∉ m.freeRows → j ∉ m.freeCols → new.elem i j =
        let a := operandBlock m.fa m.rows i m.ta ba pa
        let b := operandBlock m.fb m.cols j m.tb bb pb
        if m.kind = 0 ∧ (m.fa = 4 ∨ m.fa = 6) then
          BitVec.ofInt 32 ((old.elem i j).toNat + ((List.range (768 / matBits m.fa)).map fun k =>
            (BitVec.ofNat (matBits m.fa) (operandElem m.fa m.rows i m.ta ba k)).toInt *
            (BitVec.ofNat (matBits m.fb) (operandElem m.fb m.cols j m.tb bb k)).toInt).sum)
        else if m.kind = 2 then BitVec.ofNat 32 (gradedElement m (old.elem i j).toNat pa i a b)
        else BitVec.ofNat 32 (matrixElement m (old.elem i j).toNat a b))

/-- Matrix instructions join the sequencer's queue, and compute their tile when they reach its head. -/
def Obligations.MatrixInstructionsQueueAndComputeTheirTile : Prop :=
  Sys2Proof.Claims.MatrixInstructionsJoinTheQueuePart ∧ Sys2Proof.Claims.MatrixInstructionsComputeTheirTilePart

/-- R234 to R237: TLD reads, in this package, the elements of its tile at once, converted to the tile's tag, and asks for the others; the tile itself stays
until the load completes, and a wave's instructions that name it wait. TLD_COMPLETE, with the elements that other packages have returned, writes
every element and the tag. TZERO makes every element zero with the tag. What the elements of a tile are is said where no matrix
instruction and no collective still works on it (R180, R447). -/
def Sys2Proof.Claims.TileLoadsWriteTheirTileWhenTheyCompletePart : Prop :=
  (∀ (t f st : BitVec 4) (a b : BitVec 6) (s s' s2 : State) (c : Ctx) (accs : List Acc),
    Passes s (.tld t f st a b) { kinds := 0x10, tiles := [t.toNat], inTx := false } c → tileMisaligned c (tileBytes f.toNat) a b = none →
    tileWait s c t.toNat = none → streamHeld c st.toNat = false →
    resolve s c .tileRead (tileBytes f.toNat) true (tileAddrs c (tileBytes f.toNat) a b) = .ok s' accs → loadWaits s c st.toNat accs = false →
    let s1 := checkReads s' c accs
    let away := awayAccs s1 c.w.core accs
    (∀ x ∈ accs, readsPoison s1 (keyConvoy c.key) x.tgt = false) →
    (∀ x ∈ awayAccs s c.w.core accs, ∀ pa cache, x.tgt = .mem pa cache → isLost s (paPkg pa) = false) →
    leasedDirty s (awayAccs s c.w.core accs) = false →
    touchReads s1 c.w.core true (accs.filter fun x => !away.contains x) = some s2 →
    ∃ u w m, exec (.tld t f st a b) s = .next u ∧ tget u.waves c.key = some w ∧ GoesOn c w (c.path.pc + 4) ∧ LatchesStay c w ∧
      w.vregs = c.w.vregs ∧ w.sregs = c.w.sregs ∧ w.pregs = c.w.pregs ∧
      w.tldTiles = c.w.tldTiles ||| (1#16 <<< t.toNat) ∧ tget w.tldData t.toNat = some (f.toNat, m) ∧
      (∀ x ∈ accs, x ∉ away → tgetD m (x.lane - tileBase) 0 = tileIn f.toNat (readAcc s2 c (tileBytes f.toNat) x.tgt)) ∧
      (∀ x ∈ away, ∀ pa cache, x.tgt = .mem pa cache → ∃ e ∈ u.loads, e.2.wave = c.key ∧ e.2.dest = .tile t.toNat f.toNat ∧
        e.2.package = paPkg pa ∧ e.2.stream = st.toNat ∧ (x.lane, x.ea) ∈ e.2.addrs) ∧
      (away = [] → u.loads = s2.loads) ∧
      (tileBusy s2 (keyCrewKey c.key) t.toNat 0 true = false → u.crews = s2.crews) ∧ ∀ n, readByte u n = readByte s2 n) ∧
  (∀ (key tile fa : Nat) (data : List Word) (s : State) (w : Wave) (v : Convoy) (got : Table Word), tget s.waves key = some w →
    tget s.convoys (keyConvoy key) = some v → v.residence = .placed → tget w.tldData tile = some (fa, got) →
    keysFrom 0 got = true → keysFrom 0 w.tldData = true → TablesInv s → BytesInv s → (tget s.crews (keyCrewKey key)).isSome = true →
    let mine (l : PendingLoad) : Bool := l.wave == key && (match l.dest with | .tile n _ => n == tile | _ => false)
    let elems := (s.loads.filter fun e => mine e.2).flatMap fun e => e.2.addrs.map fun a => a.1 - tileBase
    data.length = elems.length → elems.Nodup →
    ∃ t w', exec (.tldComplete key tile data) s = .next t ∧ tget t.waves key = some w' ∧
      w' = { w with tldTiles := w'.tldTiles, tldData := w'.tldData } ∧ tget w'.tldData tile = none ∧
      (∀ n < 16, w'.tldTiles.getLsbD n = (decide (n ≠ tile) && w.tldTiles.getLsbD n)) ∧
      (∀ e, e ∈ t.loads ↔ e ∈ s.loads ∧ mine e.2 = false) ∧ t.mem = s.mem ∧
      (∀ k n, (k, n) ≠ (keyCrewKey key, tile) → t.tile k n = s.tile k n) ∧
      let new := t.tile (keyCrewKey key) tile
      new.tag = (if fa ≤ 4 then 1 else 4) ∧
      (tileBusy s (keyCrewKey key) tile 0 true = false →
        (∀ i < elems.length, tgetD new.elems (elems.getD i 0) 0 = tileIn fa ((data.getD i 0).toNat % 2 ^ (8 * tileBytes fa))) ∧
        ∀ n, n ∉ elems → tgetD new.elems n 0 = tgetD got n 0)) ∧
  ∀ (t f : BitVec 4) (s : State) (c : Ctx), Passes s (.tzero t f) { tiles := [t.toNat], inTx := false } c → tileWait s c t.toNat = none →
    ∃ u w, exec (.tzero t f) s = .next u ∧ tget u.waves c.key = some w ∧ AccessDone c w ∧ w.vregs = c.w.vregs ∧ w.sregs = c.w.sregs ∧
      u.mem = s.mem ∧
      ∀ y, tget s.crews (keyCrewKey c.key) = some y → TablesInv s → BytesInv s →
        (u.tile (keyCrewKey c.key) t.toNat).tag = (if f.toNat ≤ 4 then 1 else 4) ∧
        (tileBusy s (keyCrewKey c.key) t.toNat 0 true = false → (u.tile (keyCrewKey c.key) t.toNat).elems = []) ∧
        ∀ k n, (k, n) ≠ (keyCrewKey c.key, t.toNat) → u.tile k n = s.tile k n

/-- R234 to R237, R104, R180: TST, its addresses translated, stores every element, rounded to its format and, where an EXT.BND is pending, bounded: at once where its
core can write the places, and in packets of its stream where they lie in another package. -/
def Sys2Proof.Claims.TileStoresStoreEveryElementPart : Prop :=
  ∀ (t f st : BitVec 4) (a b : BitVec 6) (s s' : State) (c : Ctx) (accs : List Acc),
    Passes s (.tst t f st a b) { kinds := 0x34, modMask := 0x0F000, tiles := [t.toNat], inTx := false, tags := fun c => needTile s c t.toNat (tileTag f.toNat),
                                 resultTag := fun _ => BitVec.ofNat 4 (tileCode f.toNat) } c →
    tileMisaligned c (tileBytes f.toNat) a b = none → tileWait s c t.toNat = none → streamHeld c st.toNat = false →
    resolve s c .tileWrite (tileBytes f.toNat) true (tileAddrs c (tileBytes f.toNat) a b) = .ok s' accs → writeWaits s c st.toNat false accs = none →
    let crew := keyCrewKey c.key
    let n := tileBytes f.toNat
    let elem (L : Nat) : Nat := writeElem (tileCode f.toNat) c.rnd (c.modBit 15) (c.modBit 12)
      (readElem (if f.toNat ≤ 4 then 1 else 4) (c.modBit 12) (tgetD (s'.tile crew t.toNat).elems (L - tileBase) 0).toNat)
    let u1 := spoilBusy s' crew t.toNat
    let out := tileOut u1 c f.toNat (u1.tile crew t.toNat) accs
    (∀ u, storeLanes (tileBound u1 c out.2) c st.toNat out.1 = some u → exec (.tst t f st a b) s = .next (advance u c (c.path.pc + 4))) ∧
    (c.ext.has 5 = false → tileBusy s' crew t.toNat 0 true = false →
      (BytesInv s' → (∀ x ∈ accs, CanWrite s' c x.tgt ∧ ∀ pa cache, x.tgt = .mem pa cache → pa % 128 + n ≤ 128) →
        ∃ u, exec (.tst t f st a b) s = .next u ∧ Stored s' u c n elem accs) ∧
      (accs ≠ [] → (∀ x ∈ accs, ∃ pa cache, x.tgt = .mem pa cache ∧ paPkg pa ≠ s.pkg ∧ isLost s (paPkg pa) = false ∧ ∀ k, copyOf s' (lineOf pa) k = none) →
        ∃ u w l, exec (.tst t f st a b) s = .next u ∧ tget u.waves c.key = some w ∧ AccessDone c w ∧ w.vregs = c.w.vregs ∧ w.sregs = c.w.sregs ∧
          u.fabric.sent = s'.fabric.sent ++ l ∧
          (∀ p ∈ l, p.wave = some c.key ∧ p.packet.stream = st.toNat ∧ p.packet.src = s.pkg) ∧
          (∀ x ∈ accs, ∀ pa cache, x.tgt = .mem pa cache → ∃ p ∈ l, p.packet.dst = paPkg pa ∧
            ∃ cells, p.packet.payload = .store cells ∧ ∀ i < n, (pa + i, BitVec.ofNat 8 (elem x.lane / 2 ^ (8 * i))) ∈ cells) ∧
          ∀ b, readByte u b = readByte s' b))

/-- R238 to R240, R246 to R248, R343: a slab whose test finds nothing goes on to its next pattern; a mismatch that passes its rerun is logged, one that does not
fences its sub-array. A matrix instruction that has run for the hang limit is logged with its PC, and its core reset. The end of a reset drops
the core's matrix instructions and the tiles on it; each wave that had such instructions has none outstanding and is due a MATRIX_RESET with the PC of
its oldest one, each other wave of a convoy with tiles there one with 0; lasting mismatches of its tests fence their sub-arrays. -/
def Sys2Proof.Claims.SelfTestsHangsAndSlabResetsPart : Prop :=
  ∀ (core : Nat) (s : State), TablesInv s → core < 512 →
    (s.settings.selftest ≠ 0 → (s.core (drivingCore s core)).ops = [] → (s.core (drivingCore s core)).resetting = false →
      (armed s 9 (coreStack core) (core % 128)).getLsbD 2 = false →
      (∃ t, exec (.selfTestInjection core none) s = .next t ∧ t.core core = { s.core core with pattern := (s.core core).pattern + 1 } ∧
        t = { s with cores := t.cores } ∧ ∀ k, k ≠ core → t.core k = s.core k) ∧
      (∀ sub, ∃ t, exec (.selfTestInjection core (some (sub, false))) s = .next t ∧ ErrorLogged s t 2 9 (coreStack core) 0 false ∧
        t.core core = { s.core core with pattern := (s.core core).pattern + 1 } ∧ t.waves = s.waves ∧ t.mem = s.mem) ∧
      ∀ sub < 4, ∃ t, exec (.selfTestInjection core (some (sub, true))) s = .next t ∧ ErrorLogged s t 3 9 (coreStack core) 0 false ∧
        (t.core core).fenced = (s.core core).fenced ||| (1#4 <<< sub) ∧ (t.core core).pattern = (s.core core).pattern + 1 ∧ t.mem = s.mem) ∧
    (∀ m, (s.core core).running = some m → (s.core core).resetting = false → (s.core core).runningSince + s.settings.hanglimit ≤ s.clock →
      ∃ t r, exec (.matrixHang core) s = .next t ∧ t.core core = { s.core core with resetting := true } ∧ t.logs.errors.getLast? = some r ∧
        r.bits.extractLsb' 56 8 = 4 ∧ r.bits.extractLsb' 64 64 = m.pc ∧ t.waves = s.waves ∧ t.mem = s.mem) ∧
    ((s.core core).resetting = true → ∀ found : List (Nat × Nat × Bool),
      let holds (v : Nat) : Prop := ∃ y, tget s.convoys v = some y ∧ core ∈ y.cores ∧ 0 < y.card.tiles ∧ (y.residence = .placed ∨ y.residence = .evicting)
      let here (k : Nat) : Prop := holds (k / 8) ∧ ∃ y, tget s.convoys (k / 8) = some y ∧ y.cores[k % 8]? = some core
      ∃ t, exec (.slabResetDone core found) s = .next t ∧
        t.core core = { s.core core with queue := [], running := none, finished := [], resetting := false, fenced := (t.core core).fenced } ∧
        (∀ x ∈ found, x.1 < slabsOf s core → x.2.2 = true → (t.core (core + x.1)).fenced.getLsbD (x.2.1 % 4) = true) ∧
        t.mem = s.mem ∧
        (∀ k y, tget s.crews k = some y → (here k → tget t.crews k = some { y with tiles := [] }) ∧ (¬here k → tget t.crews k = some y)) ∧
        ∀ k w, tget s.waves k = some w →
          (w.ended = true → tget t.waves k = some w) ∧
          (∀ m, w.ended = false → (s.core core).ops.find? (fun o => o.wave == k) = some m →
            tget t.waves k = some { w with outstanding := 0, unwaited := [], heldReset := some m.pc }) ∧
          (w.ended = false → (∀ m ∈ (s.core core).ops, m.wave ≠ k) → holds (keyConvoy k) → tget t.waves k = some { w with heldReset := some 0 }) ∧
          ((∀ m ∈ (s.core core).ops, m.wave ≠ k) → ¬holds (keyConvoy k) → tget t.waves k = some w))

/-- Tile loads and stores, and the self-tests, hangs and resets of the arrays, do as their rules say. -/
def Obligations.TileInstructionsAndSlabResets : Prop :=
  Sys2Proof.Claims.TileLoadsWriteTheirTileWhenTheyCompletePart ∧ Sys2Proof.Claims.TileStoresStoreEveryElementPart ∧
  Sys2Proof.Claims.SelfTestsHangsAndSlabResetsPart

/-! ### Groups, grants and scratch queues -/

/-- R51, R480: GJOIN and GLEAVE change their wave's membership of one group. R59, R517: RACQ gives the wave a block of its crew's pool, with undefined extended registers of tag RAW,
or answers zero where there is none; RREL returns it. R217, R218, R516: QPUSH and QPOP move one element of a queue laid out in scratch and answer all
ones, or zero where it is full or empty; in a queue that is not well formed they leave its own bytes and results undefined. -/
def Obligations.GroupsGrantsAndScratchQueues : Prop :=
  (∀ (g : BitVec 4) (s : State) (c : Ctx),
    (Passes s (.gjoin g) { inTx := false } c → ∃ t, exec (.gjoin g) s = .next t ∧
      WaveDone s t c (c.path.pc + 4) fun w => { w with groups := w.groups ||| (1#16 <<< g.toNat) }) ∧
    (Passes s (.gleave g) { inTx := false } c → ∃ t, exec (.gleave g) s = .next t ∧
      WaveDone s t c (c.path.pc + 4) fun w => { w with groups := w.groups &&& ~~~(1#16 <<< g.toNat) })) ∧
  (∀ (d : BitVec 3) (s : State) (c : Ctx), Passes s (.racq d) {} c → c.w.txn.depth = 0 →
    ((c.w.grant = true ∨ (s.crew (keyCrewKey c.key)).poolFree = 0) → ∃ t, exec (.racq d) s = .next t ∧
      WaveDone s t c (c.path.pc + 4) fun w => w.setPreg d.toNat (if c.w.grant then 0xFFFFFFFF else 0)) ∧
    (∀ y, c.w.grant = false → tget s.crews (keyCrewKey c.key) = some y → y.poolFree ≠ 0 →
      ∃ t w, exec (.racq d) s = .next t ∧ tget t.waves c.key = some w ∧ GoesOn c w (c.path.pc + 4) ∧ LatchesStay c w ∧ w.grant = true ∧
        (∀ n < 128, w.vreg n = c.w.vreg n) ∧ (∀ n < 256, 128 ≤ n → (w.vreg n).tag = 0) ∧
        (∀ n < 8, w.preg n = if n = d.toNat then 0xFFFFFFFF else c.w.preg n) ∧ w.sregs = c.w.sregs ∧ w.groups = c.w.groups ∧ w.txn = c.w.txn ∧
        GrantMoved s t c (y.poolFree - 1) y)) ∧
  (∀ (s : State) (c : Ctx), Passes s .rrel { inTx := false } c →
    (c.w.grant = false → ∃ t, exec .rrel s = .next t ∧ WaveDone s t c (c.path.pc + 4) id) ∧
    (∀ y, c.w.grant = true → tget s.crews (keyCrewKey c.key) = some y →
      ∃ t w, exec .rrel s = .next t ∧ tget t.waves c.key = some w ∧ GoesOn c w (c.path.pc + 4) ∧ LatchesStay c w ∧
        w = { c.w with div := w.div, retry := c.w.retryAfter c.p, heldSibling := w.heldSibling, grant := false } ∧ GrantMoved s t c (y.poolFree + 1) y)) ∧
  (∀ (d : BitVec 3) (q v : BitVec 6) (s : State) (c : Ctx) (k off head capl ring tail : Nat),
    let ea := c.w.sreg q.toNat
    let crew := crewKey (keyConvoy c.key) k
    let b := (s.crew crew).scratch
    let size := (s.crew crew).scratchSize
    let x : Queue := { crew := k, off := off, head := head, capl := capl, ring := ring, tail := tail }
    BytesInv s → TablesInv s → decodeEa (keyCrew c.key) ea = .scratch k off → ea.toNat % 128 = 0 → streamHeld c 0 = false → k < c.conv.card.crews →
    off + 256 ≤ size → (∀ l, 128 * l < size → windowCause s (keyConvoy c.key) k (keyCrew c.key) l true = none) →
    (∀ l, s.poisoned.contains (scratchPoison crew l) = false) → (k ≠ keyCrew c.key → c.w.remoteStores.toNat + 3 ≤ 0xFFFF) →
    (QueueAt b size off head capl ring tail →
      (Passes s (.qpush d q v) { inTx := false, onePath := true } c → releaseWaits s c.key 0 = false →
        ∃ t, exec (.qpush d q v) s = .next t ∧
          if 2 ^ capl ≤ (tail + 2 ^ 32 - head) % 2 ^ 32 then QueueDone s t c crew d.toNat v.toNat 0 none (byteAt b)
          else
            let slot := ring + 4 * (tail % 2 ^ capl)
            QueueDone s t c crew d.toNat v.toNat 0xFFFFFFFF none fun o =>
              if off + 128 ≤ o ∧ o < off + 132 then byte4 (off + 128) ((tail + 1) % 2 ^ 32) o
              else if slot ≤ o ∧ o < slot + 4 then byte4 slot (c.w.sreg v.toNat).toNat o else byteAt b o) ∧
      (Passes s (.qpop d q v) { inTx := false, onePath := true } c → releaseWaits s c.key 0 = false →
        ∃ t, exec (.qpop d q v) s = .next t ∧
          if tail = head then QueueDone s t c crew d.toNat v.toNat 0 none (byteAt b)
          else QueueDone s t c crew d.toNat v.toNat 0xFFFFFFFF (some (BitVec.ofNat 64 (readNat b (ring + 4 * (head % 2 ^ capl)) 4))) fun o =>
            if off ≤ o ∧ o < off + 4 then byte4 off ((head + 1) % 2 ^ 32) o else byteAt b o)) ∧
    (readQueue s (keyConvoy c.key) k off = x → ¬ QueueAt b size off head capl ring tail → releaseWaits s c.key 0 = false →
      ∀ i, (i = .qpush d q v ∨ i = .qpop d q v) → Passes s i { inTx := false, onePath := true } c →
      ∃ t p y f, exec i s = .next t ∧ QueueDone s t c crew d.toNat v.toNat p (some y) f ∧
        ∀ o, (o < off ∨ off + 256 ≤ o) → (o < ring ∨ min size (ring + 4 * 2 ^ capl) ≤ o) → f o = byteAt b o))

/-! ### Arrivals, posts and collectives -/

/-- R312, R481: GRIDARR, once its release has nothing to wait for, answers the old RELEASE word and counts one arrival; the last expected one zeroes the count and raises RELEASE. R476, R477,
R189, R213: GARRIVE arrives at its barrier and answers its old word, from another package later; its joint form stalls its path, and arrives once every
member of its group has issued it. -/
def Obligations.ArrivalsCountAndAnswerTheOldWord : Prop :=
  (∀ (n : BitVec 5) (e d : BitVec 6) (s : State) (c : Ctx), Passes s (.gridarr n e d) { inTx := false, onePath := true } c →
    streamHeld c 0 = false → releaseWaits s c.key 0 = false →
    let s1 := cleanStack s (coreStack c.w.core) 3
    let a := c.conv.desc.gridPa.toNat + 128 * n.toNat
    let arrived := tgetD (s.context c.conv.context).grid n.toNat 0 + 1
    let last := (c.w.sreg e.toNat).toNat % 2 ^ 32 ≤ arrived
    backsOut s1 (coreStack c.w.core) = false →
    TablesInv s → keysFrom 0 (s.context c.conv.context).grid = true → BytesInv s1 → paPkg a = s.pkg → paRegion a ≠ 3 → a % 128 + 4 ≤ 128 →
    ∃ t w, exec (.gridarr n e d) s = .next t ∧ tget t.waves c.key = some w ∧ GoesOn c w (c.path.pc + 4) ∧ LatchesStay c w ∧
      (∀ m < 64, w.sreg m = if m = d.toNat ∧ m ≠ 0 then BitVec.ofNat 64 (peekNat s1 a 4) else c.w.sreg m) ∧
      w.vregs = c.w.vregs ∧ w.pregs = c.w.pregs ∧
      (∀ m, tgetD (t.context c.conv.context).grid m 0 =
        if m = n.toNat then (if last then 0 else arrived) else tgetD (s.context c.conv.context).grid m 0) ∧
      (∀ k, k ≠ c.conv.context → t.context k = s.context k) ∧
      peekNat t a 4 = (if last then (peekNat s1 a 4 + 1) % 2 ^ 32 else peekNat s1 a 4) ∧
      ∀ b, (b < a ∨ a + 4 ≤ b) → readByte t b = readByte s1 b) ∧
  (∀ (v : BitVec 1) (b : BitVec 6) (n st : BitVec 4) (d : BitVec 6) (s s' : State) (c : Ctx) (x : Acc),
    Passes s (.garrive 0 v b n st d) { inTx := false, onePath := true } c → arriveWait s c (v == 1) st.toNat = none →
    resolve (cleanStack s (coreStack c.w.core) 1) c .atomic 16 true [(0, c.w.sreg b.toNat)] = .ok s' [x] → readsPoison s' (keyConvoy c.key) x.tgt = false →
    BytesInv s' →
    (ArrivesHere s' c x.tgt →
      ∃ t w word, exec (.garrive 0 v b n st d) s = .next t ∧ tget t.waves c.key = some w ∧ GoesOn c w (c.path.pc + 4) ∧ LatchesStay c w ∧
        (∀ m < 64, w.sreg m = if m = d.toNat ∧ m ≠ 0 then word.setWidth 64 else c.w.sreg m) ∧ w.vregs = c.w.vregs ∧ w.pregs = c.w.pregs ∧
        Arrives s' t c x.tgt word) ∧
    (∀ pa cache, x.tgt = .mem pa cache → paPkg pa ≠ s.pkg → isLost s (paPkg pa) = false → leasedDirty s' [x] = false →
      ∃ t w l p, exec (.garrive 0 v b n st d) s = .next t ∧ tget t.waves c.key = some w ∧ GoesOn c w (c.path.pc + 4) ∧ w.vregs = c.w.vregs ∧
        w.sregs = c.w.sregs ∧ tget t.loads s'.nextId = some l ∧ l.wave = c.key ∧ l.stream = st.toNat ∧ l.dest = .scalar d.toNat 4 false ∧
        t.fabric.sent.getLast? = some p ∧ p.packet.dst = paPkg pa ∧ p.packet.stream = st.toNat ∧
        p.packet.payload = .atomic barrierArriveOp 16 false [(pa, BitVec.ofNat 64 c.conv.abandon.toNat, 0)])) ∧
  ∀ (v : BitVec 1) (b : BitVec 6) (n st : BitVec 4) (d : BitVec 6),
    (∀ (s : State) (c : Ctx), Passes s (.garrive 1 v b n st d) { inTx := false, onePath := true, fields := fun c => c.inGroup n.toNat } c →
      arriveWait s c (v == 1) st.toNat = none →
      ∃ u, exec (.garrive 1 v b n st d) s = .next u ∧
        JoinHeld (cleanStack s (coreStack c.w.core) 1) u c n.toNat (.garrive 1 v b n st d)) ∧
    ∀ (z s' : State) (x : Ctx) (y : Acc), AloneAt z x n.toNat (.garrive 1 v b n st d) →
      resolve z x .atomic 16 true [(0, x.w.sreg b.toNat)] = .ok s' [y] → readsPoison s' (keyConvoy x.key) y.tgt = false → BytesInv s' →
      TablesInv s' → ArrivesHere s' x y.tgt →
      ∃ w word, let t := startJoint z (keyConvoy x.key) n.toNat
        tget t.waves x.key = some w ∧ GoesOn x w (x.path.pc + 4) ∧ (w.div.path x.p).hold = .none ∧
        (∀ m < 64, w.sreg m = if m = d.toNat ∧ m ≠ 0 then word.setWidth 64 else x.w.sreg m) ∧ w.vregs = x.w.vregs ∧ Arrives s' t x y.tgt word

/-- R306, R307, R309, R491: JPOST whose card is legal answers status 2 for one that no cluster could ever hold, 1 where its context has its quota or the store is
full, and else 0 with a new launch id and puts the card into the store. R442 to R447: COLL stalls its path; once every member of its group has issued
it, the leader's descriptor becomes a collective of the package, and the members go on. -/
def Obligations.CardsArePostedAndCollectivesStart : Prop :=
  (∀ (a : BitVec 6) (p : BitVec 3) (d : BitVec 6) (s : State) (c : Ctx), Passes s (.jpost a p d) { inTx := false, onePath := true } c →
    let n := ownScratch s c (c.w.sreg a.toNat) 64
    let card := cardOf n
    let s1 := cleanStack s (coreStack c.w.core) 3
    firstCause s c [(c.w.sreg a.toNat, 64, 64, .own)] = none → cardOk n = true →
    ∃ t, exec (.jpost a p d) s = .next t ∧
      if neverFits s1 card (List.range 64) card.count then Posted t c p.toNat d.toNat 2 0 ∧ t.disp = s.disp ∧ (∀ b, readByte t b = readByte s1 b)
      else if c.conv.desc.cardQuota ≤ (s.disp.cards.filter fun e => e.2.context == c.conv.context).length ∨ 4096 ≤ s.disp.cards.length then
        Posted t c p.toNat d.toNat 1 0 ∧ t.disp = s.disp ∧ (∀ b, readByte t b = readByte s1 b)
      else
        let id := s.pkg % 128 * 2 ^ 24 + s.disp.posted % 2 ^ 24
        Posted t c p.toNat d.toNat 0 id ∧ t.disp.posted = s.disp.posted + 1 ∧ (∀ b, readByte t b = readByte s1 b) ∧
        ∃ x y, tget t.disp.cards s.disp.nextCard = some x ∧ x.card = card ∧ x.launch = BitVec.ofNat 32 id ∧ x.context = c.conv.context ∧ x.next = 0 ∧
          x.last = card.count ∧ x.queue = targetQueue card.target c.conv.cluster ∧ tget t.disp.parts x.part = some y ∧ y.total = card.count ∧
          ∀ k, k ≠ s.disp.nextCard → tget t.disp.cards k = tget s.disp.cards k) ∧
  ∀ (a : BitVec 6) (st g : BitVec 4),
    (∀ (s : State) (c : Ctx), Passes s (.coll a st g) { inTx := false, onePath := true, fields := fun c => c.inGroup g.toNat } c →
      firstCause s c [(c.w.sreg a.toNat, 128, 128, .own)] = none → ∃ u, exec (.coll a st g) s = .next u ∧ JoinHeld s u c g.toNat (.coll a st g)) ∧
    ∀ (z s' : State) (x : Ctx), AloneAt z x g.toNat (.coll a st g) →
      let n := ownScratch z x (x.w.sreg a.toNat) 128
      let k := collOf x n st.toNat
      z.poisoned = [] → collTrap z x n st.toNat (wordOf (.coll a st g)) = none → imageAwaited z k = false → sessionsFull z k (bits n 520 8) = false →
      (∀ t, k.tile = some t → x.w.tldTiles.getLsbD t = false) → collPending z k = .ok s' →
      scheduleOk s' k (bits n 520 8) (bits n 506 1 == 1) = true → tget s'.waves x.key = some x.w → tget s'.convoys (keyConvoy x.key) = some x.conv →
      ∃ w y, let t := startJoint z (keyConvoy x.key) g.toNat
        tget t.waves x.key = some w ∧ GoesOn x w (x.path.pc + 4) ∧ (w.div.path x.p).hold = .none ∧ w.vregs = x.w.vregs ∧ w.sregs = x.w.sregs ∧
        tget t.collectives s'.nextId = some y ∧ y.collid = bits n 448 32 ∧ y.members = BitVec.ofNat 128 (bits n 256 128) ∧ y.kind = bits n 480 8 ∧
        y.op = bits n 488 8 ∧ y.fmt = bits n 496 8 ∧ y.len = bits n 384 32 ∧ y.chunk = bits n 416 32 ∧ y.src = BitVec.ofNat 64 (bits n 0 64) ∧
        y.dst = BitVec.ofNat 64 (bits n 64 64) ∧ y.barrier = BitVec.ofNat 64 (bits n 128 64) ∧ y.status = BitVec.ofNat 64 (bits n 192 64) ∧
        y.moved = false ∧ y.stopped = false ∧ y.lost = []

/-! ### The copy chain -/

/-- R241 to R243, R449, R554: CPY, CPYM and VSEND whose checks pass join their core's chain; a copy adds its length to its barrier's PENDING (R214) and answers its
sequence number. R176, R243: the engine moves the bytes of a copy from scratch to scratch; it reads the row of a VSEND and sends it (R555). R178,
R215: at the end of a command its stamp is written, its length leaves PENDING, and it is counted. -/
def Obligations.CopyCommandsMoveTheirBytes : Prop :=
  (∀ (multi : Bool) (a : BitVec 6) (sc : BitVec 3) (st : BitVec 4) (d : BitVec 6) (s s2 : State) (c : Ctx),
    let i : Instr := if multi then .cpym a sc st d else .cpy a sc st d
    let n := ownScratch s c (c.w.sreg a.toNat) 64
    let f (lo : Nat) : Dword := BitVec.ofNat 64 (bits n lo 64)
    Passes s i { kinds := 0x10, inTx := false } c → firstCause s c [(c.w.sreg a.toNat, 64, 64, .own)] = none → copyFieldsOk n multi c.conv.card.crews = true →
    firstCause s c (copyAddrs n multi) = none → (s.core c.w.core).chain.length < 64 → TablesInv s → BytesInv s →
    barrierAdd s c.agent st.toNat (bits n 320 2) (f 256) (bits n 128 32) = .ok s2 →
    ∃ t w x, exec i s = .next t ∧ tget t.waves c.key = some w ∧ GoesOn c w (c.path.pc + 4) ∧ LatchesStay c w ∧ w.vregs = c.w.vregs ∧ w.pregs = c.w.pregs ∧
      (∀ m < 64, w.sreg m = if m = d.toNat ∧ m ≠ 0 then (s.core c.w.core).accepted + 1 else c.w.sreg m) ∧
      t.core c.w.core = { s2.core c.w.core with chain := (s2.core c.w.core).chain ++ [x], accepted := (s.core c.w.core).accepted + 1 } ∧
      x.kind = multi.toNat ∧ x.scope = sc.toNat ∧ x.stream = st.toNat ∧ x.src = f 0 ∧ x.dst = f 64 ∧ x.len = bits n 128 32 ∧
      x.stampVal.toNat = bits n 160 32 ∧ x.stampAddr = f 192 ∧ x.barrier = f 256 ∧ x.mask.toNat = bits n 328 8 ∧ x.done = 0 ∧ x.moved = false ∧
      (∀ k off, decodeEa (keyCrew c.key) (f 256) = .scratch k off →
        let b (z : State) : Table Byte := (z.crew (crewKey (keyConvoy c.key) k)).scratch
        readNat (b t) (off + 8) 4 = readNat (b s) (off + 8) 4 + bits n 128 32 ∧
        ∀ o, (o < off ∨ off + 16 ≤ o) → byteAt (b t) o = byteAt (b s) o)) ∧
  (∀ (a h st : BitVec 6) (s : State) (c : Ctx),
    let n := (c.w.sreg h.toNat).toNat
    let bytes := bits n 48 16 * (if bits n 47 1 = 1 then 4 else 2)
    Passes s (.vsend a h st) { inTx := false } c → bits n 48 16 ≠ 0 → bits n 48 16 ≤ 16384 → sendCause s c (c.w.sreg a.toNat) bytes (c.w.sreg st.toNat) = none →
    (s.core c.w.core).chain.length < 64 → TablesInv s →
    ∃ t w x, exec (.vsend a h st) s = .next t ∧ tget t.waves c.key = some w ∧ GoesOn c w (c.path.pc + 4) ∧ LatchesStay c w ∧
      w = { c.w with div := w.div, retry := c.w.retryAfter c.p, heldSibling := w.heldSibling } ∧
      t.core c.w.core = { s.core c.w.core with chain := (s.core c.w.core).chain ++ [x], accepted := (s.core c.w.core).accepted + 1 } ∧
      x.kind = 2 ∧ x.src = c.w.sreg a.toNat ∧ x.len = bytes ∧ x.dst = c.w.sreg h.toNat ∧ x.peer = bits n 40 7 ∧ x.stampAddr = c.w.sreg st.toNat ∧
      x.barrier = 0 ∧ x.moved = false ∧ t.crews = s.crews ∧ t.mem = s.mem) ∧
  (∀ (core : Nat) (s : State) (x : CopyCmd) (rest : List CopyCmd) (v : Convoy), (s.core core).chain = x :: rest → x.moved = false → x.row = none →
    x.waiting = false → x.conflict = [] → copyReady s x = true → tget s.convoys x.convoy = some v → TablesInv s → BytesInv s →
    (∀ ks os kd od, x.kind = 0 → x.done = 0 → x.len % 4 = 0 → x.src.toNat % 4 = 0 → x.dst.toNat % 4 = 0 →
      ScratchOpen s v x.convoy x.crew x.src x.len ks os false → ScratchOpen s v x.convoy x.crew x.dst x.len kd od true →
      (ks ≠ kd ∨ os + x.len ≤ od ∨ od + x.len ≤ os) → (3 ≤ x.scope → backsOut (cleanStack s (coreStack core) x.scope) (coreStack core) = false) →
      ∃ t, exec (.copyCommandStart core []) s = .next t ∧ (t.core core).chain.head? = some { x with done := x.len, moved := true } ∧
        ScratchIs s t (crewKey x.convoy kd) (fun o =>
          if od ≤ o ∧ o < od + x.len then byteAt (s.crew (crewKey x.convoy ks)).scratch (os + (o - od)) else byteAt (s.crew (crewKey x.convoy kd)).scratch o) ∧
        ∀ b, readByte t b = readByte (cleanStack s (coreStack core) x.scope) b) ∧
    (x.kind = 2 → isLost s x.peer = false → inPod s x.peer = true → ∃ t r, exec (.copyCommandStart core []) s = .next t ∧
      (t.core core).chain = { x with row := some r } :: rest ∧ r.handle.toNat = bits x.dst.toNat 0 32 ∧ r.expert = bits x.dst.toNat 32 8 ∧
      r.len = bits x.dst.toNat 48 16 ∧ (r.infmt = true ↔ bits x.dst.toNat 47 1 = 1) ∧
      (∀ i < r.len, let e := if r.infmt then 4 else 2
        r.elems[i]? = some (BitVec.ofNat 32 (leNat ((readRun (s.crew (crewKey x.convoy x.crew)).scratch (x.src.toNat % 2 ^ 24) x.len |>.drop (e * i)).take e)))) ∧
      (x.peer ≠ s.pkg → let n := if r.infmt then 64 else 128
        ∃ l, t.fabric.sent = s.fabric.sent ++ l ∧ (∀ p ∈ l, p.packet.dst = x.peer ∧ p.packet.stream = 0 ∧ p.packet.context = x.context) ∧
          l.map (·.packet.payload) = (List.range ((r.elems.length + n - 1) / n)).map fun j =>
            .row r.handle.toNat r.expert r.len r.infmt j ((r.elems.drop (j * n)).take n)) ∧
      (x.peer = s.pkg → t.fabric = s.fabric) ∧ t.crews = s.crews ∧ t.mem = s.mem)) ∧
  ∀ (core : Nat) (s : State) (x : CopyCmd) (rest : List CopyCmd) (v : Convoy), (s.core core).chain = x :: rest → x.moved = true → x.waiting = false →
    x.conflict = [] → x.kind < 2 → agentPackets s x.context x.pc = false → tget s.convoys x.convoy = some v → TablesInv s → BytesInv s →
    (3 ≤ x.scope → backsOut (cleanStack s (coreStack core) x.scope) (coreStack core) = false) →
    (x.barrier = 0 → ∀ k off, (x.stampAddr = 0 ∨ ScratchOpen s v x.convoy x.crew x.stampAddr 4 k off true) →
      ∃ t, exec (.copyCompletion core 0) s = .next t ∧ (t.core core).chain.length = rest.length ∧ (t.core core).completed = (s.core core).completed + 1 ∧
        ScratchIs s t (crewKey x.convoy k) fun o =>
          if x.stampAddr ≠ 0 ∧ off ≤ o ∧ o < off + 4 then byte4 off x.stampVal.toNat o else byteAt (s.crew (crewKey x.convoy k)).scratch o) ∧
    (x.stampAddr = 0 → ∀ k off, ScratchOpen s v x.convoy x.crew x.barrier 16 k off true →
      ∃ t, exec (.copyCompletion core 0) s = .next t ∧ (t.core core).chain.length = rest.length ∧ (t.core core).completed = (s.core core).completed + 1 ∧
        let b (z : State) : Table Byte := (z.crew (crewKey x.convoy k)).scratch
        let old := readNat (b s) off 16
        BarrierCounts old (readNat (b t) off 16) (bits old 32 32) ((bits old 64 32 + 2 ^ 32 - x.len % 2 ^ 32) % 2 ^ 32) false ∧
        ScratchIs s t (crewKey x.convoy k) fun o => if off ≤ o ∧ o < off + 16 then byteAt (b t) o else byteAt (b s) o)

/-! ### Coherence -/

/-- R142 to R145, R147 to R149: at an idle home a shared read is forwarded to another stack that owns the line, and else answered with the home's bytes, in E where no other stack holds it
and in S otherwise; an exclusive read, or an upgrade, orders every other holder, and the owner first of all, to give the line up; a busy
home queues the request. FWDS, FWDX, INV and BINV do at a holder what R143 says; DATA and CMP give the requester its copy, and another package its lease;
WB and ACK reach the home. A copy is placed where its stack has room for it. -/
def Obligations.HomesServeRequestsAndHoldersObey : Prop :=
  (∀ (line : Nat) (req : Requester) (s : State), HomeIdle s line req → TablesInv s →
    let f := filterOf s line
    let me := meBit req
    let home := 1#4 <<< lineHome line
    (∃ t r, exec (.rds line req) s = .next t ∧ Opened s t line req r ∧ r.kind = 0 ∧ r.delivered = false ∧ r.complete = true ∧ r.since = s.clock ∧
      (filterOf t line).holders = (f.holders ||| me) &&& ~~~home ∧
      (∀ o, f.owner = some o → (1#4 <<< o) &&& me = 0 → r.orders = 1#4 <<< o ∧ r.acks = 1#4 <<< o ∧ r.forward = some o ∧ r.data = none ∧ r.granted = 0 ∧
        t.copies = s.copies ∧ t.mem = s.mem) ∧
      ((∀ o, f.owner = some o → (1#4 <<< o) &&& me ≠ 0) → r.orders = 0 ∧ r.acks = 0 ∧ r.forward = none ∧ FromHome s line r.data ∧
        r.granted = (if f.holders &&& ~~~me = 0 ∧ (tget s.leases line).isNone ∧ me ≠ 0 then 1 else 0))) ∧
    ∀ i, (i = .rdx line req ∨ i = .upg line req) →
      let keeps : Prop := i = .upg line req ∧ ∃ k, req = .stack k ∧ (copyOf s line k).isSome = true
      ∃ t r, exec i s = .next t ∧ Opened s t line req r ∧ r.granted = 3 ∧ r.complete = false ∧ r.orders = f.holders &&& ~~~me &&& ~~~home ∧
        r.acks = r.orders ∧ r.since = s.clock ∧ (filterOf t line).holders = me &&& ~~~home ∧
        (keeps → r.kind = 2 ∧ r.delivered = true ∧ r.forward = none ∧ r.data = none ∧ ∀ k, req = .stack k → copyOf t line k = copyOf s line k) ∧
        (¬ keeps → r.kind = 1 ∧ r.delivered = false ∧
          (∀ o, f.owner = some o → (1#4 <<< o) &&& me = 0 → r.forward = some o ∧ r.data = none) ∧
          ((∀ o, f.owner = some o → (1#4 <<< o) &&& me ≠ 0) → r.forward = none ∧ FromHome s line r.data))) ∧
  (∀ (line : Nat) (req : Requester) (s : State) (r : OpenReq), requestOk s line req = true → (s.homeLine line).openReq = some r → TablesInv s →
    ∀ i kind, (i = .rds line req ∧ kind = 0 ∨ i = .rdx line req ∧ kind = 1 ∨ i = .upg line req ∧ kind = 2) →
      ∃ t, exec i s = .next t ∧ t.homeLine line = { s.homeLine line with waiting := (s.homeLine line).waiting ++ [(kind, req, s.clock)] } ∧
        t = { s with home := t.home, epoch := t.epoch } ∧ ∀ l, l ≠ line → t.homeLine l = s.homeLine l) ∧
  (∀ (line stack : Nat) (s : State) (r : OpenReq) (c : Copy), (s.homeLine line).openReq = some r → r.orders.getLsbD stack = true →
    copyOf s line stack = some c → paPkg (128 * line) = s.pkg → TablesInv s →
    let acted := { r with orders := r.orders &&& ~~~(1#4 <<< stack) }
    (r.kind = 0 → r.forward = some stack → ∃ t, exec (.fwds line stack) s = .next t ∧
      Messaged s t line stack (some { acted with data := some c.bytes }) (some { c with state := if 2 ≤ c.state then 2 else 0 })) ∧
    (r.kind = 1 → r.forward = some stack → ∃ t, exec (.fwdx line stack) s = .next t ∧
      Messaged s t line stack (some { acted with data := some c.bytes }) none) ∧
    ((r.kind = 1 ∨ r.kind = 2) → r.forward ≠ some stack → ∃ t, exec (.inv line stack) s = .next t ∧ Messaged s t line stack (some acted) none) ∧
    (r.kind = 3 → ∃ t, exec (.binv line stack) s = .next t ∧ Messaged s t line stack (some acted) none ∧
      (t.homeLine line).writeback = (s.homeLine line).writeback ++ if 2 ≤ c.state then [(stack, c.bytes, true)] else [])) ∧
  (∀ (line : Nat) (s : State) (r : OpenReq) (d : Table Byte), (s.homeLine line).openReq = some r → NothingWaits s → TablesInv s → r.data = some d →
    (∀ k < 4, r.req = .stack k → r.delivered = false → r.kind = 0 → r.orders = 0 → r.acks = 0 → r.complete = true → RoomFor s line k →
      ∃ t, exec (.data line (.stack k) none) s = .next t ∧ Messaged s t line k none (some { state := r.granted, bytes := d, dirty := 0, lease := none })) ∧
    (∀ k < 4, r.req = .stack k → r.delivered = false → r.kind = 1 → r.complete = false →
      ∃ t, exec (.data line (.stack k) none) s = .next t ∧ Messaged s t line k (some { r with delivered := true }) (copyOf s line k)) ∧
    (∀ p h, r.req = .package p h → r.delivered = false → r.kind < 3 → tget s.leases line = none →
      (s.leases.filter fun e => lineHome e.1 == lineHome line).length < 65536 →
      let write := r.kind != 0 && coherentHere s (128 * line)
      ∃ t, exec (.data line (.package p h) none) s = .next t ∧
        tget t.leases line = some { write := write, holders := [(p, r.since + s.settings.leaseterm * Config.cyclesPerUs)] } ∧
        t.fabric.leaseMail = s.fabric.leaseMail ++
          [{ package := p, line := line, kind := if write then 8 else 7, dirty := d, term := s.settings.leaseterm }])) ∧
  (∀ (line k : Nat) (s : State) (r : OpenReq) (b : Table Byte), (s.homeLine line).openReq = some r → NothingWaits s → TablesInv s → k < 4 →
    r.req = .stack k → r.delivered = true → r.orders = 0 → r.acks = 0 → r.complete = false → RoomFor s line k →
    (r.kind = 1 ∧ r.data = some b ∨ r.kind = 2 ∧ ∃ c, copyOf s line k = some c ∧ c.bytes = b) →
    ∃ t, exec (.cmp line (.stack k)) s = .next t ∧ (t.homeLine line).openReq = none ∧ copyOf t line k = some (modifiedCopy b) ∧
      (lineHome line ≠ k → copyOf t line (lineHome line) = none) ∧
      (∀ j, j ≠ copyKey line k → j ≠ copyKey line (lineHome line) → tget t.copies j = tget s.copies j) ∧ t.mem = s.mem ∧
      ∀ l, l ≠ line → t.homeLine l = s.homeLine l) ∧
  (∀ (line k asked term : Nat) (write : Bool) (bytes : List Byte) (s : State), paPkg (128 * line) ≠ s.pkg → paPkg (128 * line) < 128 →
    hasMode (128 * line) = true → k < 4 → 5 ≤ term → term ≤ 1000 → copyOf s line k = none → (write = true → lineCoherent s (128 * line) = true) →
    askedAt s k line write = some asked → RoomFor s line k → TablesInv s →
    ∃ t x, exec (.data line (.stack k) (some (write, term, bytes))) s = .next t ∧ copyOf t line k = some x ∧ x.state = (if write then 1 else 0) ∧
      x.dirty = 0 ∧ x.lease = some (asked, term) ∧ (∀ i < 128, byteAt x.bytes i = bytes.getD i 0) ∧ t = { s with copies := t.copies, epoch := t.epoch } ∧
      ∀ j, j ≠ copyKey line k → tget t.copies j = tget s.copies j) ∧
  ∀ (line k : Nat) (s : State), TablesInv s → k < 4 → RoomFor s line (lineHome line) →
    (∀ d rest, (s.homeLine line).writeback = (k, d, true) :: rest →
      (∀ r, (s.homeLine line).openReq = some r → ∃ t, exec (.wb line k) s = .next t ∧ (t.homeLine line).writeback = rest ∧
        Messaged s t line (lineHome line) (some r) (some { modifiedCopy d with state := 2 })) ∧
      ((s.homeLine line).openReq = none → (s.homeLine line).waiting = [] → (filterOf s line).holders &&& ~~~(1#4 <<< k) = 0 → tget s.leases line = none →
        ∃ t, exec (.wb line k) s = .next t ∧ (t.homeLine line).writeback = rest ∧
          Messaged s t line (lineHome line) none (some (modifiedCopy d)))) ∧
    (∀ d rest r, (s.homeLine line).writeback = (k, d, false) :: rest → (s.homeLine line).openReq = some r →
      ∃ t, exec (.wb line k) s = .next t ∧ (t.homeLine line).writeback = rest ∧ Messaged s t line k (some r) (copyOf s line k)) ∧
    ∀ r, (s.homeLine line).openReq = some r → r.acks.getLsbD k = true → r.orders.getLsbD k = false →
      (r.complete = false → r.kind ≠ 3 →
        ∃ t, exec (.ack line k) s = .next t ∧ Messaged s t line k (some { r with acks := r.acks &&& ~~~(1#4 <<< k) }) (copyOf s line k)) ∧
      (r.kind = 3 → r.acks = 1#4 <<< k → r.orders = 0 → r.delivered = true → r.complete = true → (s.homeLine line).writeback = [] → NothingWaits s →
        ∃ t, exec (.ack line k) s = .next t ∧ (t.homeLine line).openReq = none ∧ tget t.filters line = none ∧
          ∀ l, l ≠ line → tget t.filters l = tget s.filters l)

/-- A leased copy is due for its renewal: its renewal point has passed, and its end has not come (R149). -/
def Sys2Proof.Claims.renewalDue (s : State) (c : Copy) : Prop :=
  ∃ asked term, c.lease = some (asked, term) ∧
    asked + min (3 * (term * Config.cyclesPerUs) / 4) (term * Config.cyclesPerUs - 4 * Config.cyclesPerUs) ≤ s.clock ∧
    s.clock < asked + (term * Config.cyclesPerUs - 2 * Config.cyclesPerUs)

/-- A leased copy has come to its end at the holder: T - 2 µs (R149). -/
def Sys2Proof.Claims.holderDue (s : State) (c : Copy) : Prop :=
  ∃ asked term, c.lease = some (asked, term) ∧ asked + (term * Config.cyclesPerUs - 2 * Config.cyclesPerUs) ≤ s.clock

/-- The dirty bytes of a copy of another package's line have left for its home in one packet, where there are any and the package is not lost (R152). -/
def Sys2Proof.Claims.WrittenBack (s t : State) (line : Nat) (c : Copy) : Prop :=
  if c.dirty = 0 ∨ isLost s (paPkg (128 * line)) = true then t.fabric.sent = s.fabric.sent
  else ∃ p, t.fabric.sent = s.fabric.sent ++ [p] ∧ p.packet.dst = paPkg (128 * line) ∧ p.stage = 0 ∧
    p.packet.payload = .store (c.dirtyCells.map fun x => (128 * line + x.1, x.2))

/-- R149, R150, R152: the holder renews leases of one region whose renewal points have passed with one message of up to 64 lines, and their terms begin again; at T - 2 µs
it drops its copy, writing back the dirty bytes of a line that software manages; on a RECALL, or on the INV of a read lease, it gives the copy up
and answers with its dirty bytes. -/
def Sys2Proof.Claims.HoldersRenewAndGiveUpLeasesPart : Prop :=
  (∀ s : State, TablesInv s → (∀ e ∈ s.copies, ¬renewalDue s e.2) → exec .leaseRenewal s = .next s) ∧
  (∀ s : State, TablesInv s → (∃ e ∈ s.copies, renewalDue s e.2) →
    ∃ t m k, exec .leaseRenewal s = .next t ∧ t = { s with copies := t.copies, fabric := t.fabric } ∧
      t.fabric = { s.fabric with leaseMail := s.fabric.leaseMail ++ [m] } ∧ m.kind = 0 ∧ m.dirty = [] ∧ m.package = paPkg (128 * m.line) ∧
      m.lines ≠ [] ∧ m.lines.length ≤ 64 ∧
      (∀ l ∈ m.lines, 128 * l / 2 ^ 26 = 128 * m.line / 2 ^ 26 ∧ ∃ c, tget s.copies (4 * l + k) = some c ∧ renewalDue s c ∧
        tget t.copies (4 * l + k) = some { c with lease := c.lease.map fun x => (s.clock, x.2) }) ∧
      (m.lines.length < 64 → ∀ e ∈ s.copies, e.1 % 4 = k → 128 * (e.1 / 4) / 2 ^ 26 = 128 * m.line / 2 ^ 26 → renewalDue s e.2 → e.1 / 4 ∈ m.lines) ∧
      ∀ j, (∀ l ∈ m.lines, j ≠ 4 * l + k) → tget t.copies j = tget s.copies j) ∧
  (∀ s : State, TablesInv s → (∀ e ∈ s.copies, ¬holderDue s e.2) → exec .leaseHolderExpiry s = .next s) ∧
  (∀ s : State, TablesInv s → (∃ e ∈ s.copies, holderDue s e.2) →
    ∃ t j c, exec .leaseHolderExpiry s = .next t ∧ tget s.copies j = some c ∧ holderDue s c ∧ tget t.copies j = none ∧
      (∀ i, i ≠ j → tget t.copies i = tget s.copies i) ∧
      (lineCoherent s (128 * (j / 4)) = true → t.mem = s.mem ∧ t.fabric = s.fabric) ∧
      (lineCoherent s (128 * (j / 4)) = false → paPkg (128 * (j / 4)) ≠ s.pkg → t.mem = s.mem ∧ WrittenBack s t (j / 4) c)) ∧
  ∀ (s : State) (line k : Nat) (c : Copy), k < 4 → copyOf s line k = some c → c.lease.isSome = true → paPkg (128 * line) ≠ s.pkg → TablesInv s →
    ∀ i, (i = .leaseRecall k line ∨ i = .inv line k ∧ c.state = 0) →
      let soft := !lineCoherent s (128 * line)
      ∃ t, exec i s = .next t ∧ copyOf t line k = none ∧ (∀ j, j ≠ copyKey line k → tget t.copies j = tget s.copies j) ∧ t.mem = s.mem ∧
        t.fabric.leaseMail = s.fabric.leaseMail ++ [{ package := paPkg (128 * line), line := line, kind := 2,
                                                      dirty := if soft then [] else c.dirtyCells, poison := s.poisoned.contains line }] ∧
        (soft = true → WrittenBack s t line c) ∧ (soft = false → t.fabric.sent = s.fabric.sent)

/-- R149 to R151: a renewal that reaches the home lets the leases that its package still holds end a term later. The home ends a lease that has run out, and reverts
and counts a write lease; a release of a holder merges its bytes and ends its lease, and one that comes after the end is discarded. -/
def Sys2Proof.Claims.HomesEndLeasesPart : Prop :=
  (∀ (s : State) (p : Nat) (lines : List Nat), TablesInv s →
    ∃ t, exec (.leaseRenewal (some (p, lines))) s = .next t ∧ t = { s with leases := t.leases } ∧
      ∀ l, tget t.leases l = (tget s.leases l).map fun x =>
        if l ∈ lines.take 64 then { x with holders := x.holders.map fun h =>
          if h.1 = p ∧ s.clock < h.2 then (p, s.clock + s.settings.leaseterm * Config.cyclesPerUs) else h }
        else x) ∧
  (∀ s : State, TablesInv s → (∀ e ∈ s.leases, ∀ h ∈ e.2.holders, s.clock < h.2) → exec .leaseHomeExpiry s = .next s) ∧
  (∀ s : State, TablesInv s → (∃ e ∈ s.leases, ∃ h ∈ e.2.holders, h.2 ≤ s.clock) →
    ∃ t line p l, exec .leaseHomeExpiry s = .next t ∧ tget s.leases line = some l ∧ (∃ h ∈ l.holders, h.1 = p ∧ h.2 ≤ s.clock) ∧
      (s.switches = [] → NothingWaits s →
        let rest := l.holders.filter fun h => h.1 != p
        let n := regionNumber (128 * line)
        tget t.leases line = (if rest.isEmpty then none else some { l with holders := rest }) ∧ (∀ j, j ≠ line → tget t.leases j = tget s.leases j) ∧
        t.mem = s.mem ∧ (∀ j, j ≠ n → regionWord t j = regionWord s j) ∧
        (l.write = false → regionWord t n = regionWord s n) ∧
        (l.write = true → let w := (regionWord s n).toNat
          (regionWord t n).getLsbD 2 = true ∧ bits (regionWord t n).toNat 0 2 = bits w 0 2 ∧ bits (regionWord t n).toNat 3 1 = bits w 3 1 ∧
          bits (regionWord t n).toNat 4 8 = min (bits w 4 8 + 1) 255 ∧ bits (regionWord t n).toNat 12 8 = p % 256))) ∧
  ∀ (s : State) (line p : Nat) (dirty : List (Nat × Byte)) (poison : Bool),
    ((∀ l, tget s.leases line = some l → ∀ h ∈ l.holders, h.1 ≠ p) → exec (.leaseRelease line p dirty poison) s = .next s) ∧
    ∀ l, tget s.leases line = some l → (l.holders.any fun h => h.1 == p) = true → TablesInv s → BytesInv s →
      tget s.switches (regionNumber (128 * line)) = none → (s.homeLine line).waiting = [] →
      let rest := l.holders.filter fun h => h.1 != p
      ∃ t, exec (.leaseRelease line p dirty poison) s = .next t ∧ tget t.leases line = (if rest.isEmpty then none else some { l with holders := rest }) ∧
        (∀ j, j ≠ line → tget t.leases j = tget s.leases j) ∧
        (poison = true → dirty ≠ [] → line ∈ t.poisoned) ∧
        (isLocal s (128 * line) = true → (∀ e ∈ dirty, e.1 < 128) → (dirty.map (·.1)).Nodup →
          (∀ e ∈ dirty, readByte t (128 * line + e.1) = e.2) ∧ ∀ b, (∀ e ∈ dirty, b ≠ 128 * line + e.1) → readByte t b = readByte s b)

/-- R153 to R156: a region switch collects the write-backs of every live package, merges them in ascending order of their stacks once the last has sent all of its own (and, on
the way to software management, no write lease is left), and sets the mode, with the conflict bit where two differ; REGION_STATUS_CLEAR clears
sticky bits where ones are written. -/
def Sys2Proof.Claims.RegionsSwitchPart : Prop :=
  (∀ (s : State) (n src : Nat) (dirty : List (Nat × Byte)) (w : Switch), tget s.switches n = some w → TablesInv s →
    src / 4 ≠ s.pkg → s.fabric.lost.contains (src / 4) = false → w.ended.contains (src / 4) = false →
    let cells := dirty.filter fun e => e.1 / 2 ^ 26 == regionGranule s n
    let all := inOrder (w.collected ++ [(src, cells)])
    ((∃ p ∈ livePeers s, w.ended.contains p = false) → ∃ t, exec (.regionWriteback n src w.milestone dirty false) s = .next t ∧
      t.mem = s.mem ∧ t.regions = s.regions ∧ tget t.switches n = some { w with collected := w.collected ++ [(src, cells)] }) ∧
    ((∀ p ∈ livePeers s, p ∈ w.ended ∨ p = src / 4) → (w.mode = false → writeLeases s (regionGranule s n) = []) →
      ∃ t, exec (.regionWriteback n src w.milestone dirty true) s = .next t ∧
        tget t.switches n = none ∧ (regionWord t n).getLsbD 3 = false ∧ (regionWord t n).getLsbD 0 = w.mode ∧
        ((regionWord t n).getLsbD 1 = ((regionWord s n).getLsbD 1 || conflicting all)) ∧
        (∀ j, j ≠ n → regionWord t j = regionWord s j) ∧
        (w.mode = false → (regionWord s n).getLsbD 0 = false → BytesInv s → NothingWaits s → (∀ e ∈ all, isSoftware s e.1 = true) →
          ∀ b, readByte t b = ((all.reverse.find? fun e => e.1 == b).map (·.2)).getD (readByte s b)))) ∧
  ∀ (s : State) (n : Nat) (x : Word), TablesInv s → ∃ t, exec (.regionStatusClear n x) s = .next t ∧ t = { s with regions := t.regions } ∧
    (∀ j, j ≠ n → regionWord t j = regionWord s j) ∧
    ∀ b < 32, (regionWord t n).getLsbD b = ((regionWord s n).getLsbD b && !((b == 1 || b == 2) && x.getLsbD b))

/-- Leases are renewed, given up and ended, and regions switch their mode. -/
def Obligations.LeasesEndAndRegionsSwitch : Prop :=
  Sys2Proof.Claims.HoldersRenewAndGiveUpLeasesPart ∧ Sys2Proof.Claims.HomesEndLeasesPart ∧ Sys2Proof.Claims.RegionsSwitchPart

/-- R112 to R114: an access to peer scratch arrives at its window, which lets a store write its bytes, or has it dropped and reported; its acknowledgement ends it. R127, R128: a miss on
an absent page takes an entry of the stack's fault buffer, or joins one. R316: a path that has waited for more than 2 µs on another package is at a
blocking point. -/
def Obligations.PeerScratchAndPageMissesReachTheirUnits : Prop :=
  (∀ (s : State) (n : Nat) (x : ScratchAccess) (v : Convoy) (L off : Nat) (d : Dword), tget s.scratchOps n = some x → tget s.convoys (x.target / 8) = some v →
    x.arrived = false → arrivesLater s n x = false → x.writes = [(L, off, d)] → TablesInv s → BytesInv s → (tget s.crews x.target).isSome = true →
    ∃ t, exec (.scratchAccessArrival n) s = .next t ∧ tget t.scratchOps n = some { x with arrived := true } ∧ t.mem = s.mem ∧
      match windowCause s (x.target / 8) (x.target % 8) x.crew (off / 128) true with
      | some cause => t.crews = s.crews ∧ ∃ r, t.logs.reports = s.logs.reports ++ [r] ∧ r.cause.toNat = cause % 256 ∧ r.pc = x.pc ∧ r.wave = some x.wave ∧
          r.addr = scratchEa (x.target % 8) off
      | none => t.logs = s.logs ∧ (x.op = 0 → x.width ≤ 8 → ScratchIs s t x.target fun o =>
          if off ≤ o ∧ o < off + x.width then BitVec.ofNat 8 (d.toNat / 256 ^ (o - off)) else byteAt (s.crew x.target).scratch o)) ∧
  (∀ (s : State) (n : Nat) (x : ScratchAccess) (w : Wave), s.scratchOps.find? (fun e => e.2.arrived) = some (n, x) → tget s.waves x.wave = some w →
    TablesInv s → ∃ t, exec .remoteStoreAck s = .next t ∧ tget t.scratchOps n = none ∧
      (∀ k, k ≠ n → tget t.scratchOps k = tget s.scratchOps k) ∧ tget t.waves x.wave = some { w with remoteStores := w.remoteStores - 1 } ∧
      t = { s with scratchOps := t.scratchOps, waves := t.waves, epoch := t.epoch }) ∧
  (∀ (s : State) (stack ctx kind : Nat) (va : Dword), kind ≤ 5 → walkFrom s (va.toNat % 2 ^ 56) walkLevels (s.context ctx).desc.root.toNat = .absent → TablesInv s → stack < 4 →
    keysFrom 0 (s.stack stack).faults = true →
    let page := va.toNat % 2 ^ 56 / 2 ^ 16
    (∀ e, (s.stack stack).faults.find? (fun e => e.2.context == ctx && e.2.vpage == page) = some e →
      ∃ t, exec (.secondLevelTlbMiss stack ctx va kind none) s = .next t ∧
        tget (t.stack stack).faults e.1 = some { e.2 with waiters := e.2.waiters + 1 } ∧ (t.stack stack).seq = (s.stack stack).seq ∧ t.mem = s.mem) ∧
    ((s.stack stack).faults.find? (fun e => e.2.context == ctx && e.2.vpage == page) = none →
      ((s.stack stack).faults.filter fun e => e.2.context == ctx).length < (s.context ctx).desc.faultQuota →
      (s.stack stack).faults.length < Config.faultEntries →
      ∃ t i, exec (.secondLevelTlbMiss stack ctx va kind none) s = .next t ∧ (tget (s.stack stack).faults i).isNone = true ∧
        tget (t.stack stack).faults i = some { context := ctx, vpage := page, kind := kind, waiters := 1 } ∧
        (t.stack stack).seq = (s.stack stack).seq + 1 ∧ t.waves.map (·.1) = s.waves.map (·.1))) ∧
  ∀ (s : State) (k p : Nat) (w : Wave) (e : Nat) (m : BitVec 16), tget s.waves k = some w → p < 8 → (w.div.path p).hold = .wait 7 e m →
    ∃ t w', exec .remoteLoadBlocking s = .next t ∧ tget t.waves k = some w' ∧
      w'.div.path p = { w.div.path p with waitedLong := (w.div.path p).waitedLong || decide ((w.div.path p).waitSince + 2 * Config.cyclesPerUs < s.clock) } ∧
      t = { s with waves := t.waves }

/-! ### The fabric and the token -/

/-- A flit and its input port go before another at an output that both want (R253): class 0 first, then the higher hop count, then the lower input port. -/
def Sys2Proof.Claims.FirstAtOutput (a b : Flit × Nat) : Prop :=
  (a.1.cls = 0 ∧ b.1.cls ≠ 0) ∨ (a.1.cls = b.1.cls ∧ (b.1.hops < a.1.hops ∨ (a.1.hops = b.1.hops ∧ a.2 < b.2)))

/-- R253, R254: a flit below the hop limit leaves for its own package's ingress, by a free minimal output, or else by a free one with its hop count one higher; of two flits the
one that R253 puts first leaves first. R269: a flit for a lost package is discarded. R252, R255, R256, R183: a packet all of whose flits have come is answered, and a new intact one
enters the reorder buffer with the applied milestone; an ACK, a NACK, a timeout change the sent copy. R181, R182: a packet commits, writing its bytes. R253: a lost link carries nothing. -/
def Obligations.PacketsAreRoutedAnsweredAndCommitted : Prop :=
  (∀ (s : State) (f : Flit) (inPort : Nat) (free : BitVec 24), TablesInv s → isLost s f.dst = false →
    let leaves (g : Flit) (p : Nat) : Prop := ∃ t, exec (.flitRoute f inPort free) s = .next t ∧ t.fabric = { s.fabric with
      routed := s.fabric.routed ++ [(g, p)], ports := t.fabric.ports
      ingress := if p = 24 then s.fabric.ingress ++ [g] else s.fabric.ingress } ∧ t = { s with fabric := t.fabric, draws := t.draws }
    (f.hops < 15 → f.dst = s.pkg → leaves f 24) ∧
    (f.hops < 15 → f.dst ≠ s.pkg → (∃ p ∈ minimalPorts s f.dst, p < 24 ∧ free.getLsbD p = true ∧ portUp s p = true) →
      ∃ p ∈ minimalPorts s f.dst, free.getLsbD p = true ∧ portUp s p = true ∧ leaves f p) ∧
    (f.hops < 14 → f.dst ≠ s.pkg → (∀ p ∈ minimalPorts s f.dst, free.getLsbD p = true → portUp s p = false) →
      (∃ p < 24, free.getLsbD p = true ∧ portUp s p = true) →
      ∃ p, free.getLsbD p = true ∧ portUp s p = true ∧ leaves { f with hops := f.hops + 1 } p) ∧
    (15 ≤ f.hops → ∃ t, exec (.flitRoute f inPort free) s = .next t ∧ t.fabric.routed = s.fabric.routed ∧ t.fabric.ingress = s.fabric.ingress)) ∧
  (∀ (s : State) (f : Flit) (inPort : Nat) (free : BitVec 24), isLost s f.dst = true →
    ∃ t, exec (.flitRoute f inPort free) s = .next t ∧ t.fabric.routed = s.fabric.routed ∧ t.fabric.ingress = s.fabric.ingress) ∧
  (∀ (s : State) (a b x y : Flit × Nat) (free : BitVec 24), TablesInv s → Sys2Proof.Claims.FirstAtOutput a b → (x, y) = (a, b) ∨ (x, y) = (b, a) →
    isLost s a.1.dst = false → a.1.dst ≠ s.pkg → a.1.hops < 14 → (∃ p < 24, free.getLsbD p = true ∧ portUp s p = true) →
    ∃ t g p more, exec (.flitRoute x.1 x.2 free [y]) s = .next t ∧ t.fabric.routed = s.fabric.routed ++ (g, p) :: more ∧ g = { a.1 with hops := g.hops } ∧
      free.getLsbD p = true ∧ portUp s p = true ∧ ((∃ q ∈ minimalPorts s a.1.dst, free.getLsbD q = true ∧ portUp s q = true) → p ∈ minimalPorts s a.1.dst)) ∧
  (∀ (s : State) (p : Packet), p.dst = s.pkg → p.src ≠ s.pkg → isLost s p.src = false → reassembled s p = false →
    exec (.packetArrival p) s = .next s) ∧
  (∀ (s : State) (p : Packet), p.dst = s.pkg → p.src ≠ s.pkg → isLost s p.src = false → reassembled s p = true →
    let seen := s.fabric.arrived.contains (p.src, p.tag)
    let full : Bool := decide (16384 ≤ s.fabric.arrivals.length) || chunkRefused s p
    let code := if p.crcOk = false then 1 else if seen then 0 else if full then 2 else 0
    let enters : Bool := p.crcOk && !seen && !full
    ∃ t, exec (.packetArrival p) s = .next t ∧ t.fabric.replies = s.fabric.replies ++ [(p.src, p.tag, code)] ∧
      t.fabric.arrivals = (if enters then s.fabric.arrivals ++ [{ packet := p, stamp := s.ring.applied }] else s.fabric.arrivals) ∧
      t.fabric.arrived = (if enters then s.fabric.arrived ++ [(p.src, p.tag)] else s.fabric.arrived) ∧
      t = { s with fabric := t.fabric, epoch := t.epoch }) ∧
  (∀ (s : State) (l r : List SentPacket) (p : SentPacket), FirstSent s l p r →
    (p.stage = 0 →
      (∃ t, exec (.packetAck p.packet.tag) s = .next t ∧ SentBecomes s t l r (some { p with stage := 1, backing := false })) ∧
      (∃ t, exec (.packetNack p.packet.tag false) s = .next t ∧ SentBecomes s t l r (some { p with sentAt := s.clock, backing := false })) ∧
      (∃ t, exec (.packetNack p.packet.tag true) s = .next t ∧ SentBecomes s t l r
        (some { p with backoff := if p.backoff = 0 then 1 else min 64 (2 * p.backoff), backing := true, sentAt := s.clock })) ∧
      (let us := if p.backing then p.backoff else if p.packet.cls = 0 then 2 else 20
        ∃ t, exec (.resendTimeout p.packet.tag) s = .next t ∧ SentBecomes s t l r
          (some (if p.sentAt + us * Config.cyclesPerUs ≤ s.clock then { p with sentAt := s.clock, backing := false } else p)))) ∧
    (p.stage ≠ 0 → flowBehind s p = false → ∃ t, exec (.packetCommit s.pkg p.packet.tag) s = .next t ∧ SentBecomes s t l r none)) ∧
  (∀ (s : State) (a : Arrival) (l r : List Arrival), s.fabric.arrivals = l ++ a :: r → (∀ b ∈ l, (b.packet.src, b.packet.tag) ≠ (a.packet.src, a.packet.tag)) →
    a.packet.src ≠ s.pkg → mayCommit s a = true → BytesInv s → TablesInv s →
    (∀ cells, a.packet.payload = .store cells → (cells.map (·.1)).Nodup → (∀ e ∈ cells, ownAddr s e.1 = true) →
      ∃ t, exec (.packetCommit a.packet.src a.packet.tag) s = .next t ∧ t.fabric.arrivals = l ++ r ∧ (∀ e ∈ cells, readByte t e.1 = e.2) ∧
        ∀ b, (∀ e ∈ cells, b ≠ e.1) → readByte t b = readByte s b) ∧
    (∀ pa d x, a.packet.payload = .atomic 0 4 false [(pa, d, x)] → ownAddr s pa = true → pa % 4 = 0 →
      ∃ t, exec (.packetCommit a.packet.src a.packet.tag) s = .next t ∧ t.fabric.arrivals = l ++ r ∧
        peekNat t pa 4 = (peekNat s pa 4 + d.toNat) % 2 ^ 32 ∧ ∀ b, (b < pa ∨ pa + 4 ≤ b) → readByte t b = readByte s b)) ∧
  ∀ (s : State) (p : Nat), p < 24 → TablesInv s → ∃ t, exec (.linkLoss p) s = .next t ∧ t.port p = { s.port p with down := true } ∧ portUp t p = false ∧
    (∀ q, q ≠ p → t.port q = s.port q) ∧ t = { s with fabric := { s.fabric with ports := t.fabric.ports } }

/-- A record is emitted with a milestone, and with the CRC over it (R260, R261). -/
def Sys2Proof.Claims.emitAt (r : Record) (m : Dword) : Record := let x := { r with milestone := m }; { x with crc := recordCrc x }

/-- The requests for missing records that a tap has added to its messages (R265). -/
def Sys2Proof.Claims.onlyFetches (l : List RingMsg) : Prop := ∀ m ∈ l, ∃ tap n, m = .fetch tap n

/-- R260, R261, R263 to R269: a tap that receives the token gives the next milestones to its first four queued records, class by class, emits them with their CRC and passes the token
on; a new intact record is forwarded and held for its turn; a missing one is fetched from the nearest taps upstream, at most 8, or else puts the package out of step, and this
tap answers such requests from its own window; STOP, the waits for a token, its recovery, the change of its master and the loss of a package do what their rules say. -/
def Obligations.TheTokenCarriesRecordsRound : Prop :=
  (∀ (s : State) (last : Dword) (epoch : BitVec 16), tapOn s = true → TablesInv s → (epoch - s.ring.epoch).slt 0 = false → ¬ (s.ring.stopped = true ∧ epoch = s.ring.epoch) →
    let queued := vget s.ring.queues 0 [] ++ vget s.ring.queues 1 [] ++ vget s.ring.queues 2 []
    let out := (queued.take 4).mapIdx fun i x => Sys2Proof.Claims.emitAt x.1 (last + BitVec.ofNat 64 (i + 1))
    ∃ t l, exec (.tokenArrival last epoch) s = .next t ∧ t.ring.emitted = s.ring.emitted ++ out ∧
      t.ring.messages = s.ring.messages ++ .token (last + BitVec.ofNat 64 out.length) epoch :: l ∧ Sys2Proof.Claims.onlyFetches l ∧
      t.ring.epoch = epoch ∧ t.ring.stopped = false ∧
      t.ring.lastToken = s.clock ∧ vget t.ring.queues 0 [] ++ vget t.ring.queues 1 [] ++ vget t.ring.queues 2 [] = queued.drop 4 ∧
      (∀ r ∈ out, tget t.ring.held r.milestone.toNat = some r) ∧ t.ring.applied = s.ring.applied ∧
      t = { s with ring := t.ring, epoch := t.epoch, msi := t.msi }) ∧
  (∀ (s : State) (r : Record), tapOn s = true → TablesInv s →
    ((recordIntact r = false ∨ s.ring.hasSeen r.milestone = true) → exec (.recordReceive r) s = .next s) ∧
    (recordIntact r = true → s.ring.hasSeen r.milestone = false → ∃ t l, exec (.recordReceive r) s = .next t ∧
      t.ring.emitted = s.ring.emitted ++ [r] ∧ t.ring.messages = s.ring.messages ++ l ∧ Sys2Proof.Claims.onlyFetches l ∧
      t.ring.window.getLast? = some r ∧ t.ring.seen.toNat = max s.ring.seen.toNat r.milestone.toNat ∧
      (s.ring.held.length < 4096 → tget t.ring.held r.milestone.toNat = some r) ∧ t.ring.applied = s.ring.applied ∧
      (∀ m p rest, missingRecord t.ring = some m → s.ring.fetching = none → upstreamTaps s = p :: rest → l = [.fetch p m]) ∧
      t = { s with ring := t.ring, epoch := t.epoch, msi := t.msi }) ∧
    (recordIntact r = true → s.ring.applied.toNat < r.milestone.toNat → r.milestone.toNat ≤ s.ring.seen.toNat →
      tget s.ring.held r.milestone.toNat = none →
      ∃ t l, exec (.recordGapFetch (.answer (some r))) s = .next t ∧ tget t.ring.held r.milestone.toNat = some r ∧
        t.ring.gapFetches = s.ring.gapFetches + 1 ∧ t.ring.messages = s.ring.messages ++ l ∧ Sys2Proof.Claims.onlyFetches l ∧
        t.ring.emitted = s.ring.emitted ∧ t.ring.applied = s.ring.applied ∧ t = { s with ring := t.ring, epoch := t.epoch, msi := t.msi })) ∧
  (∀ (s : State), tapOn s = true →
    (∀ m k p, s.ring.fetching = some (m, k) → missingRecord s.ring = some m → (upstreamTaps s)[k + 1]? = some p →
      exec (.recordGapFetch (.answer none)) s = .next { s with ring := { s.ring with
        messages := s.ring.messages ++ [.fetch p m], fetching := some (m, k + 1) } }) ∧
    (∀ m k, s.ring.fetching = some (m, k) → missingRecord s.ring = some m → (upstreamTaps s)[k + 1]? = none → s.ring.outOfStep = false →
      ∃ t, exec (.recordGapFetch (.answer none)) s = .next t ∧ t.ring = { s.ring with outOfStep := true, fetching := none }) ∧
    (∀ tap (m : Dword), exec (.recordGapFetch (.request tap m)) s = .next { s with ring := { s.ring with
      messages := s.ring.messages ++ [.answer tap (s.ring.window.find? fun x => x.milestone == m)] } }) ∧
    (s.ring.stopped = false → max s.ring.lastToken s.ring.toldAt + s.settings.tokenwait * Config.cyclesPerUs ≤ s.clock →
      exec .tokenwaitExpiry s = .next { s with ring := { s.ring with messages := s.ring.messages ++ [.missing], toldAt := s.clock } }) ∧
    exec .tokenStop s = .next { s with ring := { s.ring with
      stopped := true, messages := s.ring.messages ++ [.count s.ring.seen s.ring.applied] } } ∧
    (max s.ring.lastToken s.ring.masterSince + 2 * s.settings.tokenwait * Config.cyclesPerUs ≤ s.clock →
      ∃ q, exec .masterTimeout s = .next { s with ring := { s.ring with master := some q, masterSince := s.clock, stopSent := false } } ∧
        ((∃ p ∈ livePackages s, masterOf s < p ∧ p < 128) → q ∈ livePackages s ∧ masterOf s < q ∧ ∀ p ∈ livePackages s, masterOf s < p → q ≤ p)) ∧
    (isMaster s = true →
      (∀ seen applied, s.ring.stopSent = false → exec (.tokenRecovery seen applied) s = .next { s with ring := { s.ring with
        messages := s.ring.messages ++ [.stop], stopped := true, stopSent := true } }) ∧
      (∀ (seen applied : List (Nat × Dword)) (n : Nat), s.ring.stopSent = true →
        (n = s.ring.seen.toNat ∨ ∃ x ∈ seen, x.1 ∈ livePackages s ∧ n = x.2.toNat) →
        s.ring.seen.toNat ≤ n → (∀ x ∈ seen, x.1 ∈ livePackages s → x.2.toNat ≤ n) →
        let through := n ≤ s.ring.applied.toNat ∧ ∀ p ∈ livePackages s, p ≠ s.pkg → ∃ x ∈ applied, x.1 = p ∧ n ≤ x.2.toNat
        (through → exec (.tokenRecovery seen applied) s = .next { s with ring := { s.ring with
          messages := s.ring.messages ++ [.token (BitVec.ofNat 64 n) (s.ring.epoch + 1)], epoch := s.ring.epoch + 1, stopped := false
          stopSent := false, lastToken := s.clock, recoveries := s.ring.recoveries + 1 } }) ∧
        (¬ through → exec (.tokenRecovery seen applied) s = .next s)) ∧
      ∀ p passing, p ∈ livePackages s → p ≠ s.pkg →
        let limit := s.settings.lostlimit * Config.cyclesPerUs
        let due := (∃ since, passing = some since ∧ since + limit ≤ s.clock) ∨
          ∃ x ∈ s.fabric.sent, x.packet.dst = p ∧ x.stage = 0 ∧ x.first + limit ≤ s.clock ∧ tgetD s.fabric.heard p 0 + limit ≤ s.clock
        (due → ∃ t r, exec (.lostLimitExpiry p passing) s = .next t ∧
          vget t.ring.queues 0 [] = vget s.ring.queues 0 [] ++ [(r, none)] ∧ r.kind = 10 ∧ r.cls = 0 ∧ r.origin = s.pkg ∧ r.payload.take 2 = [0, BitVec.ofNat 8 p] ∧
          (∀ k, k ≠ 0 → vget t.ring.queues k [] = vget s.ring.queues k []) ∧ t = { s with ring := t.ring, epoch := t.epoch }) ∧
        (¬ due → exec (.lostLimitExpiry p passing) s = .next s)))

/-! ### Records -/

/-- R525 to R527: RWAY queues its record. R262 to R264, R271, R272, R528: the next record, a waymark record whose bytes lie in its context's window, writes or changes them and answers
its RESULT; a malformed one changes nothing, is counted and answers the malformed bit. R266: the image that the driver loads puts a package that
is out of step right. -/
def Obligations.WaymarkRecordsAreAppliedInOrder : Prop :=
  (∀ (a : BitVec 6) (k : BitVec 2) (kind : BitVec 4) (s : State) (c : Ctx), Passes s (.rway a k kind) { inTx := false } c →
    firstCause s c [(c.w.sreg a.toNat, 64, 64, .own)] = none →
    let n := ownScratch s c (c.w.sreg a.toNat) 64
    rwayTrap s c (wordOf (.rway a k kind)) (c.w.sreg a.toNat) kind.toNat n = none → fenceWaits c.w = false → queuedRecords s < 256 →
    ∃ t w r, exec (.rway a k kind) s = .next t ∧ tget t.waves c.key = some w ∧ GoesOn c w (c.path.pc + 4) ∧ LatchesStay c w ∧
      w = { c.w with div := w.div, retry := c.w.retryAfter c.p, heldSibling := w.heldSibling } ∧
      vget t.ring.queues k.toNat [] = vget s.ring.queues k.toNat [] ++
        [(r, if bits n 384 64 = 0 then none else some (keyConvoy c.key, keyCrew c.key, bits n 384 24))] ∧
      (∀ j, j ≠ k.toNat → vget t.ring.queues j [] = vget s.ring.queues j []) ∧
      r.kind = kind.toNat ∧ r.cls = k.toNat ∧ r.context = c.conv.context ∧ r.origin = s.pkg ∧ payOf r = n % 2 ^ 384 ∧
      r.length = (if kind.toNat = 0 then 8 + bits n 32 8 else 24) ∧
      t = { s with waves := t.waves, ring := { s.ring with queues := t.ring.queues }, draws := t.draws, epoch := t.epoch }) ∧
  (∀ (s : State) (r : Record), nextRecord s = some r → r.cls ≠ 3 → r.payload.length = 48 → TablesInv s → BytesInv s → MemInv s →
    r.milestone.toNat = s.ring.applied.toNat + 1 →
    let d := (s.context r.context).desc
    let p := payOf r
    let size := bits p 32 8
    let at' := d.wmBase + bits p 0 32
    let inside := payloadOk r.kind p = true ∧ bits p 0 32 + size ≤ d.wmSize
    (r.kind = 0 → inside → ∃ t, exec .recordWrite s = .next t ∧ RecordAnswered s t r 0 false false ∧ t.mem = s.mem ∧
      ∀ b, byteAt t.waymark b = if at' ≤ b ∧ b < at' + size then r.payload.getD (8 + (b - at')) 0 else byteAt s.waymark b) ∧
    (∀ x ∈ rmwRows, r.kind = x.2 → inside →
      let old := readNat s.waymark at' size
      let y := rmwRule x.2 (8 * size) (bits p 40 8) old (bits p 64 (8 * size)) (bits p 128 (8 * size))
      ∃ t, exec x.1 s = .next t ∧ RecordAnswered s t r old y.2 false ∧ t.mem = s.mem ∧ readNat t.waymark at' size = y.1 ∧
        ∀ b, (b < at' ∨ at' + size ≤ b) → byteAt t.waymark b = byteAt s.waymark b) ∧
    (∀ i, (i = .recordWrite ∧ r.kind = 0 ∨ (i, r.kind) ∈ rmwRows) → ¬ inside →
      ∃ t, exec i s = .next t ∧ RecordAnswered s t r 0 false true ∧ t.waymark = s.waymark ∧ t.mem = s.mem)) ∧
  ∀ (s : State) (m : Dword) (image : List (Nat × Byte)), s.ring.outOfStep = true → (image.map (·.1)).Nodup → (∀ e ∈ image, e.1 < 2 ^ 24) →
    ∃ t, exec (.outOfStepRecovery m image) s = .next t ∧ t.ring.outOfStep = false ∧ t.ring.applied = m ∧ t.mem = s.mem ∧
      (∀ e ∈ image, byteAt t.waymark e.1 = e.2) ∧ ∀ a, (∀ e ∈ image, a ≠ e.1) → byteAt t.waymark a = 0

/-- R315: LAUNCH enqueues the convoys of this package's rank. R124: PTE drops the context's translations, and is applied once the accesses that used them are done. R153: REGION starts a
switch at its home, or sends the write-backs there. R362, R363, R365, R367: TRIGGER latches the counters, SNAP marks the granules. R269, R282: RING records
lose a package, let one join again, and report on a collective. -/
def Obligations.SystemRecordsAreApplied : Prop :=
  ∀ (s : State) (r : Record), nextRecord s = some r → r.cls ≠ 3 → r.payload.length = 48 → TablesInv s → r.milestone.toNat = s.ring.applied.toNat + 1 →
    let p := payOf r
    (∀ bytes : List Byte, r.kind = 5 →
      let mask := BitVec.ofNat 128 (bits p 128 128)
      let card := cardOf (leNat bytes)
      let own := s.hostq.commands.find? fun c => c.op == 1 && (c.payload.drop 80).take 4 == r.payload.take 4
      (mask.getLsbD s.pkg = false → ∃ t, exec (.recordLaunch bytes) s = .next t ∧ RecordCounted s t r false ∧ t.disp = s.disp) ∧
      (mask.getLsbD s.pkg = true → own = none → paPkg (bits p 64 64) ≠ s.pkg → bytes.length = 64 → cardOk (leNat bytes) = true → s.disp.cards.length < 4096 →
        let n := (bitsSet mask).length
        let rank := ((bitsSet mask).filter (· < s.pkg)).length
        let b := (card.count + n - 1) / n
        rank * b < card.count →
        ∃ t x, exec (.recordLaunch bytes) s = .next t ∧ RecordCounted s t r false ∧ tget t.disp.cards s.disp.nextCard = some x ∧ x.card = card ∧
          x.context = r.context ∧ x.launch = BitVec.ofNat 32 (bits p 0 32) ∧ x.next = rank * b ∧ x.last = min ((rank + 1) * b) card.count ∧
          x.queue = none)) ∧
    (r.kind = 6 →
      (s.ring.waitingPte = none → ∃ t, exec .recordPte s = .next t ∧
        (∀ k, (t.core k).tlb = (s.core k).tlb.filter fun e => e.1 != r.context) ∧
        (∀ k < 4, (t.stack k).tlb = (s.stack k).tlb.filter fun e => e.1 != r.context) ∧ t.mem = (cleanAll s).mem ∧
        (contextAccesses (cleanAll s) r.context = [] → RecordCounted s t r false) ∧
        (contextAccesses (cleanAll s) r.context ≠ [] → t.ring = { s.ring with waitingPte := some (contextAccesses (cleanAll s) r.context) })) ∧
      (∀ l, s.ring.waitingPte = some l → accessesDone s l = true → ∃ t, exec .recordPte s = .next t ∧ RecordCounted s t r false)) ∧
    (r.kind = 7 → regionPayloadOk p = true → regionBusy s p = false →
      (paRegion (bits p 0 64) ≠ 8 → paPkg (bits p 0 64) = s.pkg → livePeers s ≠ [] → ∃ t w, exec .recordRegion s = .next t ∧ RecordCounted s t r false ∧
        let n := regionNumber (bits p 0 64)
        tget t.switches n = some w ∧ w.milestone = r.milestone ∧ (w.mode = true ↔ bits p 64 1 = 1) ∧ (regionWord t n).getLsbD 3 = true ∧
        (regionWord t n).getLsbD 0 = (regionWord s n).getLsbD 0) ∧
      (paRegion (bits p 0 64) ≠ 8 → paPkg (bits p 0 64) ≠ s.pkg → ∃ t, exec .recordRegion s = .next t ∧ RecordCounted s t r false ∧
        t.switches = s.switches ∧ t.regions = s.regions ∧ (tgetD t.modes (bits p 0 64 / 2 ^ 26) false = true ↔ bits p 64 1 = 1) ∧
        (t.fabric.leaseMail.filter fun m => m.kind == 6).length = (s.fabric.leaseMail.filter fun m => m.kind == 6).length + 4)) ∧
    (r.kind = 8 → bits p 64 320 = 0 → ∃ t, exec .recordTrigger s = .next t ∧ RecordCounted s t r false ∧ t.snapshot.tag.toNat = bits p 0 64 ∧
      t.snapshot.count = s.snapshot.count + 1 ∧ t.snapshot.milestone = s.ring.applied ∧ t.snapshot.regions = s.regions) ∧
    (r.kind = 9 → bits p 64 320 = 0 → ∃ t, exec .recordSnap s = .next t ∧ RecordCounted s t r false ∧ t.ckpt.step.toNat = bits p 0 64 ∧
      (s.ckpt.granules ≠ [] → t.ckpt.busy = true ∧ t.ckpt.granules = s.ckpt.granules) ∧
      (s.ckpt.granules = [] → t.ckpt.busy = false ∧ t.ckpt.granules = snapGranules s r.context ∧ t.ckpt.milestone = r.milestone ∧ t.ckpt.written = 0)) ∧
    (∀ i, (i = .recordTrigger ∧ r.kind = 8 ∨ i = .recordSnap ∧ r.kind = 9) → bits p 64 320 ≠ 0 →
      ∃ t, exec i s = .next t ∧ RecordCounted s t r true ∧ t.snapshot = s.snapshot ∧ t.ckpt = s.ckpt) ∧
    (r.kind = 10 → bits p 8 8 < 128 →
      let q := bits p 8 8
      (bits p 0 8 = 0 → ∃ t, exec .ringLost s = .next t ∧ RecordCounted s t r false ∧ (q ≠ s.pkg → isLost t q = true)) ∧
      (bits p 0 8 = 1 → ∃ t, exec .ringJoin s = .next t ∧ RecordCounted s t r false ∧ isLost t q = false ∧
        ∀ k, k ≠ q → isLost t k = isLost s k) ∧
      (bits p 0 8 = 2 → ∀ id x k, s.collectives.find? (fun e => e.2.context == r.context && e.2.collid == bits p 32 32) = some (id, x) →
        k ∈ bitsSet x.members → isLost s k = false → k ∉ x.lost.map (·.1) → k ≠ q → (∀ y ∈ x.reports, y.package ≠ k) →
        ∃ t, exec .ringDone s = .next t ∧ RecordCounted s t r false ∧ tget t.collectives id = some { x with
          reports := (x.reports.filter fun y => y.package != q) ++
            [{ package := q, count := bits p 64 32, members := BitVec.ofNat 128 (bits p 256 128) }] }) ∧
      (3 ≤ bits p 0 8 → ∃ t, exec .ringDone s = .next t ∧ RecordCounted s t r true))

/-! ### The Vat and collectives -/

/-- R288, R553: VOPEN answers 4 for a malformed descriptor, 1 without a free slot, 2 without pages, and else 0 with a handle to a slot opened as described. R297, R556: VDROP frees an as-complete slot
or lets an in-order one wait its turn. R290 to R293: the Vat decides on a row; a complete row at the lowest open position is folded; a deadline substitutes
what has not arrived. R294, R296: a slot whose row has been released is freed. -/
def Obligations.TheVatOpensFoldsAndReleases : Prop :=
  (∀ (a d : BitVec 6) (s : State) (c : Ctx), Passes s (.vopen a d) { inTx := false } c → firstCause s c [(c.w.sreg a.toNat, 128, 128, .own)] = none →
    TablesInv s →
    let n := ownScratch s c (c.w.sreg a.toNat) 128
    let count := bits n 384 8
    let pages := (4 * bits n 352 16 + 4095) / 4096
    (¬ VatDescOk n → ∃ t, exec (.vopen a d) s = .next t ∧ ScalarWritten t c d.toNat (4 <<< 32) ∧ t.vat = s.vat ∧ t.mem = s.mem) ∧
    (VatDescOk n → bits n 395 1 = 0 →
      ((∀ i < 4096, (s.vatSlot i).state ≠ 0) → ∃ t, exec (.vopen a d) s = .next t ∧ ScalarWritten t c d.toNat (1 <<< 32) ∧ t.vat = s.vat) ∧
      (∀ i < 4096, (s.vatSlot i).state = 0 → (∀ j < i, (s.vatSlot j).state ≠ 0) →
        (s.vat.freePages < pages → ∃ t, exec (.vopen a d) s = .next t ∧ ScalarWritten t c d.toNat (2 <<< 32) ∧ t.vat = s.vat) ∧
        (pages ≤ s.vat.freePages → ∃ t, exec (.vopen a d) s = .next t ∧
          ScalarWritten t c d.toNat (BitVec.ofNat 64 ((s.vatSlot i).generation.toNat * 4096 + i)) ∧ t.mem = s.mem ∧
          t.vat.freePages = s.vat.freePages - pages ∧ (∀ j, j ≠ i → t.vatSlot j = s.vatSlot j) ∧
          let v := t.vatSlot i
          v.state = 1 ∧ v.context = c.conv.context ∧ v.generation = (s.vatSlot i).generation ∧ v.len = bits n 352 16 ∧
          v.experts = ((List.range count).map fun k => bits n (8 * k) 8) ∧
          v.weights = ((List.range count).map fun k => BitVec.ofNat 32 (bits n (64 + 32 * k) 32)) ∧ (v.outfmt = true ↔ bits n 392 1 = 1) ∧
          (v.infmt = true ↔ bits n 393 1 = 1) ∧ (v.renorm = true ↔ bits n 394 1 = 1) ∧ v.inOrder = false ∧ v.dst.toNat = bits n 448 64 ∧
          v.stampAddr.toNat = bits n 512 64 ∧ v.acc = List.replicate v.len 0x80000000 ∧
          v.deadline = (if bits n 368 16 = 0 then 0 else s.clock + bits n 368 16 * Config.cyclesPerUs))))) ∧
  (∀ (h d : BitVec 6) (s : State) (c : Ctx), Passes s (.vdrop h d) { inTx := false } c → (c.w.sreg h.toNat).toNat < 2 ^ 32 → TablesInv s →
    let x := (c.w.sreg h.toNat).toNat
    let v := s.vatSlot (x % 4096)
    let valid := (v.state = 1 ∨ v.state = 2) ∧ v.generation.toNat = x / 4096 ∧ v.context = c.conv.context
    (¬ valid → ∃ t, exec (.vdrop h d) s = .next t ∧ ScalarWritten t c d.toNat 2 ∧ t.vat = s.vat) ∧
    (valid → v.inOrder = true → ∃ t, exec (.vdrop h d) s = .next t ∧ ScalarWritten t c d.toNat 1 ∧ (t.vatSlot (x % 4096)).state = 4) ∧
    (valid → v.inOrder = false → v.stampAddr = 0 → ∃ t, exec (.vdrop h d) s = .next t ∧ ScalarWritten t c d.toNat 0 ∧
      SlotFreed s t (x % 4096) (slotPages v))) ∧
  (∀ (s : State) (r : VatRow), TablesInv s →
    let code := vatCode s r
    let slot := r.handle.toNat % 4096
    let counted (t : State) : Prop := t.vat.late = s.vat.late + (if code = 3 then 1 else 0) ∧ t.vat.rejected = s.vat.rejected + (if code = 4 then 1 else 0) ∧
      t.vat.duplicate = s.vat.duplicate + (if code = 5 then 1 else 0) ∧ t.vat.refused = s.vat.refused + (if code = 2 then 1 else 0) ∧
      (code ≠ 1 → t.vat.slots = s.vat.slots) ∧
      (code = 1 → (t.vatSlot slot).arrivedMask = (s.vatSlot slot).arrivedMask ||| (1#8 <<< (s.vatSlot slot).experts.findIdx (· == r.expert)))
    (r.src ≠ s.pkg → isLost s r.src = false → ∃ t, exec (.vatArrival r) s = .next t ∧ counted t ∧
      t.vat.answers = s.vat.answers ++ [(r.src, r.id, code)] ∧ t.mem = s.mem) ∧
    (∀ core k x, r.src = s.pkg → senderOf s r = some (core, k, x) → ∃ t, exec (.vatArrival r) s = .next t ∧ counted t ∧ t.mem = s.mem ∧
      (t.core core).chain = (s.core core).chain.set k { x with stampVal := BitVec.ofNat 32 code, moved := true })) ∧
  (∀ (s : State) (i : Nat) (v : VatSlot) (r : HeldRow), s.vat.slots.find? (fun e => e.2.held.any fun x => x.src == r.src && x.row == r.row && !x.complete) = some (i, v) →
    v.held = [r] → r.complete = false → r.position = v.lowest → v.state = 1 → v.inOrder = false → TablesInv s → r.elems.length = v.acc.length →
    ∃ t, exec (.vatRowComplete r.src r.row) s = .next t ∧ t.mem = s.mem ∧ t.vat.freePages = s.vat.freePages + r.pages ∧
      let u := t.vatSlot i
      u.held = [] ∧ u.foldedMask = v.foldedMask ||| (1#8 <<< r.position) ∧ u.state = (if u.lowest = v.experts.length ∨ v.byDeadline = true then 3 else 1) ∧
      ∀ j < v.acc.length, u.acc[j]? = some (rne32 ((f32Val (v.acc.getD j 0)).add 0 (f32Val (rne32 (FVal.mul (f32Val (v.weights.getD r.position 0))
        (if v.infmt then f32Val (r.elems.getD j 0) else Machine.decodeF .bf16 ((r.elems.getD j 0).toNat % 2 ^ 16))))))) ) ∧
  (∀ (s : State) (i : Nat), let v := s.vatSlot i
    v.state = 1 → v.byDeadline = false → v.inOrder = false → v.deadline ≠ 0 → v.deadline ≤ s.clock → v.held = [] → v.arrivedMask = v.foldedMask →
    v.experts.length ≤ 8 → TablesInv s → ∃ t, exec (.vatDeadline i) s = .next t ∧ t.mem = s.mem ∧
      t.vatSlot i = { v with deadline := 0, forced := false, byDeadline := true, state := 3, subMask := BitVec.ofNat 8 (2 ^ v.experts.length - 1) &&& ~~~v.arrivedMask }) ∧
  ∀ (s s1 : State) (i : Nat) (v : VatSlot), s.vat.slots = [(i, v)] → v.state = 3 → v.waiting = false → v.stampAddr = 0 → v.lowest = v.experts.length → TablesInv s →
    (v.written = v.rowBytes.length → unitPackets s v.context = false → ∃ t, exec .vatReleaseDone s = .next t ∧ t.mem = s.mem ∧
      SlotFreed s t i (slotPages v)) ∧
    (v.written = 0 → v.stamped = false → v.rowBytes ≠ [] → v.dst.toNat % 128 + v.rowBytes.length ≤ 128 → unitWrite s v.context v.desc v.dst v.rowBytes v.poison = .ok s1 →
      unitPackets s1 v.context = false → ∃ t, exec .vatReleaseDone s = .next t ∧ t.mem = s1.mem ∧ SlotFreed s t i (slotPages v))

/-- R275, R276: a chunk is kept until every input of its session has delivered it, and then combined in ascending input number and sent to the other members. R278, R282: an input or
a member that is overdue, or whose every link is lost, is dropped, and the package posts what it has completed. R446, R447: a collective's chunks are written to its destination one by
one, and once they have committed its length leaves its barrier's PENDING and it is over. -/
def Obligations.CollectivesCombineAndComplete : Prop :=
  (∀ (s : State) (id index port : Nat) (y : Session) (x : Collective) (elems : List Word), tget s.sessions id = some y → tget s.collectives y.collective = some x →
    y.inputs.getLsbD port = true → port < 24 → index < x.chunks → tget x.combined index = none → tget (tgetD y.chunks index []) port = none →
    y.fits index = true → index ∉ x.done → elems.length * elemWord x.fmt = x.chunkLen index → TablesInv s → keysFrom 0 y.chunks = true → keysFrom 0 y.began = true →
    let got := tput (tgetD y.chunks index []) port elems
    ((∃ p, y.inputs.getLsbD p = true ∧ tget got p = none) → ∃ t y', exec (.combineChunk id index port elems) s = .next t ∧
      tget t.sessions id = some y' ∧ tget y'.chunks index = some got ∧ (∀ k, k ≠ index → tget y'.chunks k = tget y.chunks k) ∧
      t = { s with sessions := t.sessions, epoch := t.epoch }) ∧
    ((∀ p < 25, y.inputs.getLsbD p = true → (tget got p).isSome = true) → y.output = 25 → y.op < 3 → (∀ e ∈ got, e.2.length = elems.length) →
      ∃ t y' out, exec (.combineChunk id index port elems) s = .next t ∧ tget t.sessions id = some y' ∧ tget y'.chunks index = none ∧
        tget t.collectives y.collective = some { x with combined := tput x.combined index out, since := s.clock } ∧ out.length = elems.length ∧
        (∀ j < elems.length, ∀ e rest, got = e :: rest →
          out[j]? = some (rest.foldl (fun z e => combine2 y.op y.fmt z (e.2.getD j 0)) (e.2.getD j 0))) ∧
        (elems.length * elemWord x.fmt ≤ 256 → t.fabric.sent.map (fun q => (q.packet.dst, q.packet.cls, q.packet.payload)) =
          s.fabric.sent.map (fun q => (q.packet.dst, q.packet.cls, q.packet.payload)) ++
          ((bitsSet x.members).filter fun q => !(x.lost.any fun l => l.1 == q) && q != s.pkg && !isLost s q).map fun q =>
            (q, 0, .member x.context x.collid x.lost.length index 0 (bytesOfWords x.fmt out))) ∧
        t = { s with sessions := t.sessions, collectives := t.collectives, fabric := t.fabric, epoch := t.epoch })) ∧
  (∀ (s : State) (id p index : Nat) (x : Collective), tget s.collectives id = some x → x.stopped = false → p ≠ s.pkg → p < 128 →
    s.pkg < 128 → x.completed < 2 ^ 32 → x.collid < 2 ^ 32 → x.members.getLsbD p = true → p ∉ x.dropped → p ∉ x.lost.map (·.1) → TablesInv s →
    let us := if x.sched = 3 ∨ x.cls = 0 then 20 else 2000
    let unlinked := ∀ k ∈ minimalPorts s p, portUp s k = false
    let owed := p = x.owner ∧ index < x.chunks ∧ index ∉ x.done ∧ x.nextChunk s = none ∧ x.since + us * Config.cyclesPerUs ≤ s.clock
    let input := ∃ k y port, x.session = some k ∧ tget s.sessions k = some y ∧ portTo s.pkg p = some port ∧ inputLate s y port index = true
    (unlinked ∨ owed ∨ input → ∃ t, exec (.memberOverdue id p index) s = .next t ∧ MemberDropped s t id p x.completed x) ∧
    (¬ (unlinked ∨ owed ∨ input) → exec (.memberOverdue id p index) s = .next s) ∧
    ∀ k port (y : Session), tget s.sessions k = some y → y.collective = id → portPeer s.pkg port = some p → y.inputs.getLsbD port = true →
      (∃ e, tget y.chunks index = some e ∧ tget e port = none ∧ tgetD y.began index s.clock + 20 * Config.cyclesPerUs ≤ s.clock) →
      ∃ t, exec (.sessionInputTimeout k port index) s = .next t ∧ MemberDropped s t id p x.completed x) ∧
  ∀ (s : State) (id : Nat) (x : Collective) (v : Convoy), tget s.collectives id = some x → x.waiting = false → collReady s x = true → x.owed = 0 →
    x.sends s.pkg = false → x.stopped = false → tget s.convoys x.convoy = some v → TablesInv s → BytesInv s →
    (∀ k od i bs, x.moved = false → x.tile = none → x.freeRanges = [] → x.reused = false → x.part = 0 → i < x.chunks → i ∉ x.done →
      ((∃ ws, tget x.combined i = some ws ∧ bs = bytesOfWords x.fmt ws) ∨ (tget x.combined i = none ∧ tget x.got i = some bs)) →
      (∀ j < i, j ∈ x.done ∨ (tget x.combined j = none ∧ tget x.got j = none)) →
      ScratchOpen s v x.convoy x.crew (x.dst + BitVec.ofNat 64 (i * x.chunk)) bs.length k od true →
      ∃ t x', exec (.collectiveCompletion id []) s = .next t ∧ tget t.collectives id = some x' ∧ x'.done = x.done ++ [i] ∧
        (x'.moved = true ↔ ∀ j < x.chunks, j ∈ x.done ++ [i]) ∧ t.mem = s.mem ∧
        ScratchIs s t (crewKey x.convoy k) fun o =>
          if od ≤ o ∧ o < od + bs.length then bs.getD (o - od) 0 else byteAt (s.crew (crewKey x.convoy k)).scratch o) ∧
    (∀ k off, x.moved = true → x.lost = [] → agentPackets s x.context x.pc = false → ScratchOpen s v x.convoy x.crew x.barrier 16 k off true →
      backsOut (cleanStack s (coreStack x.core) 4) (coreStack x.core) = false →
      ∃ t, exec (.collectiveCompletion id []) s = .next t ∧ tget t.collectives id = none ∧ (∀ n, x.session = some n → tget t.sessions n = none) ∧
        let b (z : State) : Table Byte := (z.crew (crewKey x.convoy k)).scratch
        let old := readNat (b s) off 16
        BarrierCounts old (readNat (b t) off 16) (bits old 32 32) ((bits old 64 32 + 2 ^ 32 - x.destLen % 2 ^ 32) % 2 ^ 32) false ∧
        ScratchIs s t (crewKey x.convoy k) fun o => if off ≤ o ∧ o < off + 16 then byteAt (b t) o else byteAt (b s) o)

/-! ### The dispatcher -/

/-- R305: the dispatcher notes a condition of a card that holds. R310, R48, R57: it places a convoy of the card whose turn it is, with its waves at their start; a quad's change of mode ends;
R311: a candidate that has waited keeps a cluster. R49, R313, R314: a convoy whose work is done leaves, a part that is complete writes its stamp and
leaves, and one that makes no progress is ended. -/
def Obligations.TheDispatcherPlacesAndCompletes : Prop :=
  (∀ (s t1 : State) (k pa cache : Nat) (x : StoredCard) (words : List (Nat × Nat × Word)), s.disp.cards = [(k, x)] → x.card.w1kind = 0 →
    (x.card.w0kind = 2 → ∃ t, exec (.cardConditionPoll words) s = .next t ∧
      t = { s with disp := { s.disp with cards := [(k, { x with held0 := x.held0 || decide (x.card.w0.toNat ≤ s.ring.applied.toNat), held1 := true })] } }) ∧
    (x.card.w0kind = 1 → x.held0 = false → x.failed0 = false → x.card.w0.toNat < 2 ^ 56 →
      unitXlat s (s.context x.context).desc.root .read x.card.w0.toNat = .ok t1 pa cache → coherentHere s pa = true → lineHeld t1 pa 0 = false →
      ∃ t, exec (.cardConditionPoll words) s = .next t ∧
        t.disp.cards = [(k, { x with held0 := decide (x.card.v0.toNat ≤ peekNat t1 pa 4), held1 := true })] ∧ t.mem = t1.mem)) ∧
  (∀ (s : State) (x : Candidate) (run : Nat × List Nat) (y : StoredCard), mayPlace s = true → turnOf s = (none, some (x, 0, [run])) → x.saved = false →
    tget s.disp.cards x.key = some y → y.card.w0kind ≠ 1 → y.card.w1kind ≠ 1 → y.card.waves ≤ 24 → run.2.length ≤ 8 → y.next + 1 < y.last →
    (∀ c ∈ run.2, (freeSlotsOf s c y.card.waves).length = y.card.waves) →
    ∃ t v, exec .convoyPlacement s = .next t ∧ tget t.convoys s.nextUid = some v ∧ v.context = y.context ∧ v.launch = y.launch ∧ v.card = y.card ∧
      v.part = y.part ∧ v.index.toNat = y.next % 2 ^ 64 ∧ v.cluster = run.1 ∧ v.cores = run.2 ∧ v.desc = (s.context y.context).desc ∧
      v.residence = .placed ∧ v.placedAt = s.clock ∧ t.nextUid = s.nextUid + 1 ∧ t.disp.nextAt = s.clock + 200 ∧
      tget t.disp.cards x.key = some { y with next := y.next + 1, chosenAt := none } ∧
      (∀ j core, run.2[j]? = some core → ∀ i < y.card.waves, ∃ w, tget t.waves (waveKey s.nextUid j i) = some w ∧ StartsAt w core y.card y.next y.launch) ∧
      t.mem = s.mem) ∧
  (∀ (s : State) (q mode target stop : Nat), s.quads.find? (fun e => match e.2.change with | some c => decide (c.2 ≤ s.clock) | none => false) =
      some (q, { mode := mode, change := some (target, stop) }) → TablesInv s →
    ∃ t, exec .quadModeChangeDone s = .next t ∧ t.quad q = { mode := target, change := none } ∧ (∀ k, k ≠ q → t.quad k = s.quad k) ∧
      t = { s with quads := t.quads, epoch := t.epoch }) ∧
  (∀ (s : State) (l r : List Candidate) (x : Candidate) (at' cl : Nat), ordered s = l ++ x :: r → x.since = some at' → at' + 50 * Config.cyclesPerUs ≤ s.clock →
    (∀ k ∈ keptFor s (ordered s), k.2.id ≠ x.id) →
    (∀ y ∈ l, ∀ at'', y.since = some at'' → at'' + 50 * Config.cyclesPerUs ≤ s.clock → ∃ k ∈ keptFor s (ordered s), k.2.id = y.id) → nearest s x = some cl →
    ∃ t, exec .placementReservation s = .next t ∧ (cl, x.id) ∈ t.disp.reserved ∧
      (∀ e, e ∈ t.disp.reserved ↔ (e = (cl, x.id) ∨ (e ∈ s.disp.reserved ∧ ∃ y ∈ ordered s, y.id = e.2))) ∧
      t = { s with disp := { s.disp with reserved := t.disp.reserved } }) ∧
  (∀ (s : State) (v : Nat) (c : Convoy), s.convoys.find? (fun e => e.2.residence == .placed &&
      (s.waves.all fun w => keyConvoy w.1 != e.1 || w.2.ended) && !convoyBusy s e.1) = some (v, c) → TablesInv s →
    ∃ t, exec .convoyRetire s = .next t ∧ tget t.convoys v = none ∧ (∀ k, k ≠ v → tget t.convoys k = tget s.convoys k) ∧
      (∀ e ∈ t.waves, keyConvoy e.1 ≠ v) ∧ (∀ e ∈ t.crews, e.1 / 8 ≠ v) ∧ t.mem = s.mem ∧
      ∀ p, tget s.disp.parts c.part = some p → ∃ q, tget t.disp.parts c.part = some q ∧
        q = { p with retired := p.retired + 1, progressAt := s.clock, gone := q.gone }) ∧
  (∀ (s t1 : State) (k : Nat) (p : Part), s.disp.parts.find? (fun e => partDone s e.2) = some (k, p) → p.hostLaunch = false → TablesInv s →
    (p.card.stampAddr = 0 → exec .cardCompletion s = .next { s with disp := { s.disp with parts := tdel s.disp.parts k } }) ∧
    (p.card.stampAddr ≠ 0 →
      let s1 := (List.range 4).foldl (fun z i => cleanStack z i 4) s
      (∀ i < 4, backsOut s1 i = false) →
      unitWrite s1 p.context (s1.context p.context).desc (p.card.stampAddr + BitVec.ofNat 64 (8 * p.rank)) (bytesOf 8 p.card.stampVal.toNat) false = .ok t1 →
      ∃ t, exec .cardCompletion s = .next t ∧ tget t.disp.parts k = none ∧ t.mem = t1.mem ∧ t.copies = t1.copies)) ∧
  ∀ (s : State) (k : Nat) (p : Part), s.disp.parts = [(k, p)] → (s.context p.context).desc.watchdog ≠ 0 →
    p.progressAt + (s.context p.context).desc.watchdog * 1000 * Config.cyclesPerUs ≤ s.clock → TablesInv s →
    ∃ t, exec .watchdogExpiry s = .next t ∧ PartGone t k ∧ t.mem = s.mem ∧
      (s.logs.faults.length < Config.faultLogEntries → ∃ f, t.logs.faults = s.logs.faults ++ [f] ∧ f.bits.getLsbD 144 = true ∧ f.bits.extractLsb' 224 32 = p.launch)

/-- R316 to R318: a candidate that has waited for PREEMPTWAIT has its victims frozen; a frozen convoy that has drained goes to a free save slot with its record written, or goes on where there
is none. R320: a saved convoy is restored on the cores of its turn, with its context's descriptor of now, and with every register as its save slot, read back, has it. -/
def Obligations.ConvoysAreEvictedAndRestored : Prop :=
  (∀ (s : State) (x : Candidate) (at' : Nat), (s.convoys.any fun e => e.2.residence == .evicting) = false → ordered s = [x] → x.since = some at' →
    at' + s.settings.preemptwait * Config.cyclesPerUs ≤ s.clock → findPlan s x (fun _ => true) = none → TablesInv s →
    let vs := (victims s x).flatMap (·.2.2)
    ∃ t, exec .preemptwaitExpiry s = .next t ∧ t = { s with convoys := t.convoys, waves := t.waves, epoch := t.epoch } ∧
      t.waves.map (·.1) = s.waves.map (·.1) ∧
      ∀ v c, tget s.convoys v = some c → tget t.convoys v = some (if v ∈ vs then { c with residence := .evicting } else c)) ∧
  (∀ (s s1 : State) (v : Nat) (c : Convoy), s.convoys = [(v, c)] → c.residence = .evicting → c.card.gang = false → drained s v = true → TablesInv s →
    let size := recordSize s v c
    let free (i : Nat) : Prop := i < c.desc.saveSlots ∧ i ∉ (s.context c.context).saveUsed
    ((c.desc.slotSize * 65536 < size ∨ ∀ i, ¬ free i) → ∃ t, exec .evictionSave s = .next t ∧
      t.convoys = [(v, { c with residence := .placed, noEvictUntil := s.clock + s.settings.preemptwait * Config.cyclesPerUs })] ∧ t.mem = s.mem) ∧
    (∀ i, size ≤ c.desc.slotSize * 65536 → free i → (∀ j < i, ¬ free j) →
      writeRuns s c.context c.desc (c.desc.saveBase + BitVec.ofNat 64 (i * c.desc.slotSize * 65536))
        (convoyRuns s v { c with edited := (s.context c.context).modified }) = .ok s1 →
      ∃ t, exec .evictionSave s = .next t ∧
        tget t.convoys v = some { c with residence := .saved i, chosenAt := none, edited := (s.context c.context).modified } ∧
        i ∈ (t.context c.context).saveUsed ∧ t.mem = s1.mem)) ∧
  ∀ (s s1 : State) (x : Candidate) (first : Option Candidate) (run : Nat × List Nat) (c : Convoy) (slot : Nat), mayPlace s = true →
    turnOf s = (first, some (x, 0, [run])) → x.saved = true → tget s.convoys x.key = some c → c.residence = .saved slot → c.card.gang = false → TablesInv s →
    readBack s x.key slot c = .ok s1 →
    ∃ t v, exec .convoyRestore s = .next t ∧ tget t.convoys x.key = some v ∧ v.residence = .placed ∧ v.cluster = run.1 ∧ v.cores = run.2 ∧
      v.desc = (s.context c.context).desc ∧ v.card = c.card ∧ v.index = c.index ∧ slot ∉ (t.context c.context).saveUsed ∧
      t.disp.nextAt = s.clock + 200 ∧ t.crews = s1.crews ∧ t.mem = s1.mem ∧
      ∀ j core i w, run.2[j]? = some core → i < 32 → j < 8 → tget s1.waves (waveKey x.key j i) = some w → (w.asleep = false ∨ w.park = none) →
        ∃ w', tget t.waves (waveKey x.key j i) = some w' ∧ w'.core = core ∧ w'.vregs = w.vregs ∧ w'.sregs = w.sregs ∧ w'.pregs = w.pregs ∧
          w'.asleep = false ∧ w'.park = none ∧ w'.div.strands = w.div.strands ∧
          ∀ p < 8, (w'.div.path p).mask = (w.div.path p).mask ∧ (w'.div.path p).pc = (w.div.path p).pc ∧ (w'.div.path p).latches = (w.div.path p).latches

/-! ### Errors, observation, power -/

/-- R339 to R343: a detected error is logged; an uncorrectable one marks the line or ends the wave that read it; the INJECT registers arm an error. R330: an error of the host link is
reported to its wave. R384, R267: reset boots the package or fails at a stage; a loss of power stops it. R387 to R389: the operating point follows the
driver, the power and the temperature. R385: a wayside processor that is free loads the image that waits for it. -/
def Obligations.ErrorsResetAndPowerActAsTheirRulesSay : Prop :=
  (∀ (s : State) (unit stack inst : Nat) (loc : Dword), detectorOk unit stack inst = true → TablesInv s →
    let hit (b : Nat) := (armed s unit stack inst).getLsbD b
    (∃ t, exec (.eccError unit stack inst loc false) s = .next t ∧ ErrorLogged s t 0 unit stack loc (hit 0) ∧ t.mem = s.mem ∧ t.waves = s.waves ∧
      t.poisoned = s.poisoned ∧ (armed t unit stack inst).getLsbD 0 = false) ∧
    ((unit = 2 ∨ unit = 3 ∨ unit = 5 ∨ unit = 6) → loc.toNat < 2 ^ 60 → ∃ t, exec (.eccError unit stack inst loc true) s = .next t ∧
      ErrorLogged s t 1 unit stack loc (hit 1) ∧ t.mem = s.mem ∧ t.waves = s.waves ∧ ∀ l, l ∈ t.poisoned ↔ (l ∈ s.poisoned ∨ l = lineOf loc.toNat ∨
        ((unit = 5 ∨ unit = 6) ∧ l = homePoison (lineOf loc.toNat)))) ∧
    (∀ k w, unit = 1 → readerOf s unit stack inst loc = some (k, w) → ∃ t, exec (.eccError unit stack inst loc true) s = .next t ∧
      ErrorLogged s t 1 unit stack loc (hit 1) ∧ t.mem = s.mem ∧ t.poisoned = s.poisoned ∧ ∀ w', tget t.waves k = some w' → w'.ended = true) ∧
    (∃ t, exec (.injectCorrected unit stack inst) s = .next t ∧ t = { s with inject := t.inject } ∧
      armed t unit stack inst = armed s unit stack inst ||| 1) ∧
    (∃ t, exec (.injectUncorrectable unit stack inst) s = .next t ∧ t = { s with inject := t.inject } ∧
      armed t unit stack inst = armed s unit stack inst ||| 2) ∧
    (unit = 9 → ∃ t, exec (.injectSelfTest stack inst) s = .next t ∧ t = { s with inject := t.inject } ∧
      armed t unit stack inst = armed s unit stack inst ||| 4)) ∧
  (∀ (s : State) (k : Nat) (pc addr : Dword) (lanes : Word) (w : Wave) (v : Convoy), tget s.waves k = some w → tget s.convoys (keyConvoy k) = some v →
    ∃ t r, exec (.hostLinkError k pc addr lanes) s = .next t ∧ t = { s with logs := { s.logs with reports := s.logs.reports ++ [r] } } ∧
      r.cause = 9 ∧ r.sub = 1 ∧ r.pc = pc ∧ r.addr = addr ∧ r.lanes = lanes ∧ r.wave = some k ∧ r.slot = w.slot ∧ r.launch = v.launch) ∧
  (∀ (s : State) (b : BootReport), ∃ t, exec (.packageReset b) s = .next t ∧ t.pkg = b.package % 128 ∧ t.waves = [] ∧ t.convoys = [] ∧ t.crews = [] ∧
    t.copies = [] ∧ t.contexts = [] ∧ t.waymark = [] ∧ t.fuses = s.fuses ∧ t.mem = (s.mem.filter fun e => paRegion e.1 == 8) ∧
    if b.firmwareOk = false ∨ b.imageVersion < s.fuses.rollback then t.bootState = 2 ∧ t.failStage = 1
    else if b.memoryOk = false then t.bootState = 2 ∧ t.failStage = 2
    else t.bootState = 1 ∧ t.binding = buildBinding s.fuses ∧ t.waysides = bootWaysides s.fuses) ∧
  (∀ (s : State), let p := s.power
    exec .packagePowerLoss s = .next { s with power := { p with stopped := true } } ∧
    (∀ c, exec (.junctionTemperature c) s = .next { s with power :=
      if 110 ≤ c then { p with stopped := true } else if 100 ≤ c then atPoint s p 0 else p }) ∧
    (∀ n, exec (.dvfsPointSelect n) s = .next { s with power := if n ≤ 2 then atPoint s { p with selected := n } n else p }) ∧
    (∀ e, p.paused = some e → e ≤ s.clock → ∃ t, exec .dvfsPauseEnd s = .next t ∧ t = { s with power := { p with paused := none }, epoch := t.epoch }) ∧
    ∀ watts, exec (.powerMeasurement watts) s = .next { s with power :=
      if p.pcap < watts then
        (if p.point = 0 then { p with below := 0, idle := true } else atPoint s { p with below := 0 } (p.point - 1))
      else if 10 * watts < 9 * p.pcap then
        (if p.below + 1 < 1000 then { p with below := p.below + 1 } else if p.idle then { p with below := 0, idle := false }
         else if p.point < p.selected then atPoint s { p with below := 0 } (p.point + 1) else { p with below := 0 })
      else { p with below := 0 } }) ∧
  ∀ (s : State) (w : Nat) (image : List Byte), w < 6 → (s.wayside w).next = some image → (∀ j < w, (s.wayside j).next = none) →
    (∀ e ∈ s.collectives, e.2.needs s.pkg w = false) → ∃ t, exec .waysideImageLoad s = .next t ∧ t.wayside w = { image := some image, next := none } ∧
      (∀ j, j ≠ w → t.wayside j = s.wayside j) ∧ t.mem = s.mem

/-- R359, R360: a sample goes to its context's ring, or counts as dropped without one. R349 to R356: the debugger resumes, steps and edits halted paths; revoking its rights lets them go and disables the
breakpoints. R362, R363: a trigger latches the counters. R365: the checkpoint engine writes its next granule. -/
def Obligations.SamplesDebuggerAndCheckpoints : Prop :=
  (∀ (s : State) (core sched n slot key : Nat) (w : Wave) (rest : List (Nat × Nat × Wave)), sampleLog s core = some n → s.clock % 2 ^ n = 0 → sched < 2 →
    (vget (s.core core).scheds sched Sched.initial).sampledAt ≠ s.clock → residentWaves s core sched = (slot, key, w) :: rest →
    (vget (s.core core).scheds sched Sched.initial).rotation ≤ slot → TablesInv s → BytesInv s →
    let ctx := waveContext s key
    let x := s.context ctx
    let a := x.sampBase.toNat + 32 * (x.sampWr.toNat % 2 ^ x.sampLog)
    x.log2n ≠ 0 →
    ∃ t, exec (.pcSample core sched) s = .next t ∧ (vget (t.core core).scheds sched Sched.initial).rotation = slot + 1 ∧ t.waves.map (·.1) = s.waves.map (·.1) ∧
      (x.sampBase = 0 → (t.context ctx).sampDrop = x.sampDrop + 1 ∧ t.mem = s.mem) ∧
      (x.sampBase ≠ 0 → x.sampWr.toNat - x.sampRd.toNat < 2 ^ x.sampLog → paPkg a = s.pkg → paRegion a ≠ 3 → a % 32 = 0 →
        (t.context ctx).sampWr = x.sampWr + 1 ∧ ∃ stall issued, peekNat t a 32 = pathRecord s key (w.div.valid.headD 0) 0 0 stall issued)) ∧
  (∀ (s : State) (k p : Nat) (w : Wave), tget s.waves k = some w → debugMay s k = true → p < 8 →
    ((w.div.path p).hold = .debug → ∀ step : Bool, ∃ t w', exec (if step then .debugStep k p else .debugResume k p) s = .next t ∧
      tget t.waves k = some w' ∧ Released (w.div.path p) (w'.div.path p) step ∧ w' = { w with div := { w.div with paths := w'.div.paths } } ∧
      (∀ q, q ≠ p → w'.div.path q = w.div.path q) ∧ (∀ j, j ≠ k → tget t.waves j = tget s.waves j) ∧ t = { s with waves := t.waves, epoch := t.epoch }) ∧
    (allHalted w = true → TablesInv s →
      let edits (c : DebugChange) (w' : Wave) : Prop := ∃ t, exec (.debugEdit k c) s = .next t ∧ tget t.waves k = some w' ∧
        (∀ j, j ≠ k → tget t.waves j = tget s.waves j) ∧ t.context (waveContext s k) = { s.context (waveContext s k) with modified := true } ∧ t.mem = s.mem
      (∀ r v, r < 64 → edits (.scalar r v) (w.setSreg r v)) ∧ (∀ r v, r < 8 → edits (.pred r v) (w.setPreg r v)) ∧
      (∀ r v, r < 256 → edits (.vtag r v) (w.setVreg r { w.vreg r with tag := v })) ∧
      (∀ r L v, r < 256 → L < 32 → ∃ w', edits (.vlane r L v) w' ∧ (w'.vreg r).tag = (w.vreg r).tag ∧
        (∀ j < 32, lane (w'.vreg r).lanes j = if j = L then v else lane (w.vreg r).lanes j) ∧ (∀ q, q ≠ r → w'.vreg q = w.vreg q)) ∧
      (∀ sel i v d, editDiv w.div sel i v = some d → edits (.field sel i v) { w with div := d }))) ∧
  (∀ (s : State) (c : Nat), TablesInv s → ∃ t, exec (.rightsRevoke c) s = .next t ∧ t.context c = { s.context c with rights := false } ∧
    (∀ k, k ≠ c → t.context k = s.context k) ∧ t.mem = s.mem ∧
    (∀ core n b, tget (t.core core).breakpoints n = some b → bits b.cond.toNat 0 12 = c → b.cond.getLsbD 27 = false) ∧
    ∀ k w, tget s.waves k = some w → ∃ w', tget t.waves k = some w' ∧ w' = { w with div := { w.div with paths := w'.div.paths } } ∧
      (waveContext s k ≠ c → w' = w) ∧
      (waveContext s k = c → ∀ p < 8, (w'.div.path p).stepping = false ∧ (w'.div.path p).pc = (w.div.path p).pc ∧ (w'.div.path p).mask = (w.div.path p).mask ∧
        (w'.div.path p).hold = if (w.div.path p).hold = .debug then .none else (w.div.path p).hold)) ∧
  (∀ (s : State) (tag : Dword), ∃ t, exec (.triggerWrite tag) s = .next t ∧ t.snapshot.tag = tag ∧ t.snapshot.count = s.snapshot.count + 1 ∧
    t.snapshot.clock = BitVec.ofNat 64 s.clock ∧ t.snapshot.milestone = s.ring.applied ∧ t.snapshot.regions = s.regions ∧ t.mem = s.mem ∧
    t.waves = s.waves) ∧
  ∀ (s : State) (g : Granule) (rest : List Granule), s.ckpt.granules = g :: rest → BytesInv s →
    let base := s.settings.ckptBase.toNat
    let area := base + granuleOffset (s.ckpt.written + rest.length + 1) s.ckpt.written
    ∃ t, exec .checkpointGranuleWrite s = .next t ∧ t.ckpt = { s.ckpt with granules := rest, written := s.ckpt.written + 1, done := rest.isEmpty && !s.ckpt.busy } ∧
      (base ≠ 0 → s.settings.buddyBase = 0 → base % 4096 = 0 → (∀ o < 65536, paPkg (area + o) = s.pkg ∧ paRegion (area + o) ≠ 3) →
        (∀ o < 65536, readByte t (area + o) = byteAt g.bytes o) ∧ ∀ b, (b < area ∨ area + 65536 ≤ b) → readByte t b = readByte s b)

/-! ### The host's registers and commands -/

/-- R379 to R383, R301, R130, R267, R102, R372 to R377, R382: what a write of the host does to each register it may write. (That the completion of a command that
RESULT describes holds a free value there is the model's choice, log 5; the places of PCAP and the operating point are log 49.) -/
def Obligations.HostWritesReachTheirRegisters : Prop :=
  (∀ (s : State) (v : Dword), let q := s.hostq
    exec (.doorbellWrite v) s = .next { s with hostq := { q with doorbell := v } } ∧
    exec .gapClear s = .next { s with hostq := { q with gap := false } } ∧
    (4 ≤ v.toNat → ∀ p, exec (.ringctlWrite v (some p)) s = .next s) ∧
    (v.toNat < 4 → (∀ p, p ≠ s.pkg → exec (.ringctlWrite v (some p)) s = .next { s with
        ring := { s.ring with marked := s.ring.marked.filter (· != p) ++ if v.getLsbD 1 then [p] else [] }, epoch := s.epoch + 1 }) ∧
      let t := { s with
        settings := { s.settings with tapEn := v.getLsbD 0, master := v.getLsbD 1 }
        ring := { s.ring with master := none, lastToken := s.clock, toldAt := s.clock, masterSince := s.clock }, epoch := s.epoch + 1 }
      exec (.ringctlWrite v) s = .next (if tapOn t = true ∧ isMaster t = true ∧ s.ring.begun = false then { t with
        ring := { t.ring with messages := t.ring.messages ++ [.token 0 0], begun := true } } else t)) ∧
    (q.heldCpl = [] → exec (.dqheadWrite v) s = .next { s with hostq := { q with dqHead := v, cplFull := false } }) ∧
    (q.heldCpl ≠ [] → 2 ^ q.dqLog ≤ (q.lastCseq - v).toNat → exec (.dqheadWrite v) s = .next { s with hostq := { q with dqHead := v } }) ∧
    (∀ x, q.heldCpl = [x] → (q.lastCseq - v).toNat < 2 ^ q.dqLog → TablesInv s → BytesInv s → ∃ t, exec (.dqheadWrite v) s = .next t ∧
      t.hostq.heldCpl = [] ∧ t.hostq.dqHead = v ∧ t.hostq.cplFull = false ∧ t.hostq.lastCseq = q.lastCseq + 1 ∧
      BytesPut s t (cplSlot s (q.lastCseq + 1)) (cplBytes x (q.lastCseq + 1))) ∧
    (¬(1 ≤ v.toNat ∧ v.toNat ≤ q.lastCseq.toNat ∧ q.lastCseq.toNat - v.toNat < 256) →
      ∃ t, exec (.dqreplayWrite v) s = .next t ∧ t = { s with hostq := { q with gap := true }, msi := t.msi }) ∧
    (∀ pre x, 1 ≤ v.toNat → v.toNat ≤ q.lastCseq.toNat → q.lastCseq.toNat - v.toNat < 256 → q.written = pre ++ [x] → v.toNat ≤ x.cseq.toNat → BytesInv s →
      ∃ t, exec (.dqreplayWrite v) s = .next t ∧ t.hostq = q ∧
        ∀ i < 32, byteAt t.mem (cplSlot s x.cseq + i) = (cplBytes x x.cseq).getD i 0)) ∧
  (∀ (s : State) (i : Nat) (v : BitVec 128), exec (.boundTableWrite i v) s = .next (if i < 64 then { s with bound := tset 0 s.bound i v } else s)) ∧
  (∀ (s : State) (i : Nat), let m := vget s.msi i { pending := false, sent := 0, lastSent := none }
    (m.pending = true → (∀ t0, m.lastSent = some t0 → t0 + 3200 ≤ s.clock) →
      exec (.msiXMessage i) s = .next { s with msi := s.msi.setIfInBounds i { pending := false, sent := m.sent + 1, lastSent := some s.clock } }) ∧
    ((m.pending = false ∨ ∃ t0, m.lastSent = some t0 ∧ s.clock < t0 + 3200) → exec (.msiXMessage i) s = .next s)) ∧
  (∀ (s : State) (c : Nat) (v : Dword), let x := s.context c
    ((4096 ≤ c ∨ x.fqWr.toNat < v.toNat) → exec (.fqrdWrite c v) s = .next s) ∧
    (c < 4096 → v.toNat ≤ x.fqWr.toNat → NoneHeld s c → exec (.fqrdWrite c v) s = .next (s.setContext c { x with fqRd := v })) ∧
    (4096 ≤ c → ∀ f, exec (.ringBlockBaseWrite c f v) s = .next s) ∧
    (c < 4096 →
      let base : Bool := v.toNat < 2 ^ 60 && v.toNat / 2 ^ 52 < 128 && v.toNat % 4096 == 0
      let size : Bool := 7 ≤ v.toNat && v.toNat ≤ 20
      exec (.ringBlockBaseWrite c .sampBase v) s = .next (s.setContext c (if base then { x with sampBase := v, sampWr := 0, sampRd := 0 } else x)) ∧
      exec (.ringBlockBaseWrite c .evBase v) s = .next (s.setContext c (if base then { x with evBase := v, evWr := 0, evRd := 0 } else x)) ∧
      exec (.ringBlockBaseWrite c .sampLog v) s = .next (s.setContext c (if size then { x with sampLog := v.toNat, sampWr := 0, sampRd := 0 } else x)) ∧
      exec (.ringBlockBaseWrite c .evLog v) s = .next (s.setContext c (if size then { x with evLog := v.toNat, evWr := 0, evRd := 0 } else x)) ∧
      exec (.ringBlockBaseWrite c .sampRd v) s = .next (s.setContext c (if v.toNat ≤ x.sampWr.toNat then { x with sampRd := v } else x)) ∧
      exec (.ringBlockBaseWrite c .evRd v) s = .next (s.setContext c (if v.toNat ≤ x.evWr.toNat then { x with evRd := v } else x)) ∧
      exec (.ringBlockBaseWrite c .sampDrop v) s = .next (s.setContext c (if v = 0 then { x with sampDrop := 0 } else x)) ∧
      exec (.ringBlockBaseWrite c .evDrop v) s = .next (s.setContext c (if v = 0 then { x with evDrop := 0 } else x)))) ∧
  (∀ (s : State) (c : Nat) (bs : List Byte), TablesInv s → BytesInv s →
    ((4096 ≤ c ∨ bs.length ≠ 128 ∨ descOk s.pkg c (leNat bs) = false) → exec (.contextDescriptorWrite c bs) s = .next s) ∧
    (c < 4096 → bs.length = 128 → descOk s.pkg c (leNat bs) = true → NoneHeld s c → ∃ t, exec (.contextDescriptorWrite c bs) s = .next t ∧
      (t.context c).desc = descOf (leNat bs) ∧ (t.context c).fqWr = 0 ∧ (t.context c).fqRd = 0 ∧ (∀ d, d ≠ c → t.context d = s.context d) ∧
      if (descOf (leNat bs)).gridPa = (s.context c).desc.gridPa then t.mem = s.mem
      else BytesPut s t (descOf (leNat bs)).gridPa.toNat (List.replicate 4096 0)) ∧
    (∃ t, exec (.contextTeardown c) s = .next t ∧ t.mem = s.mem ∧ (∀ e ∈ t.disp.cards, e.2.context ≠ c) ∧
      ∀ i v, tget s.vat.slots i = some v → v.state ≠ 0 →
        (v.context = c → (t.vatSlot i).state = 0 ∧ (t.vatSlot i).generation = v.generation + 1) ∧ (v.context ≠ c → t.vatSlot i = v))) ∧
  ∀ (s : State) (off size : Nat) (v : Dword),
    (((size ≠ 4 ∧ size ≠ 8) ∨ off % size ≠ 0 ∨ s.bootState = 2) → exec (.registerWrite off size v) s = .next s) ∧
    (s.bootState ≠ 2 →
      exec (.registerWrite 0x40010 8 v) s = exec (.doorbellWrite v) s ∧ exec (.registerWrite 0x40050 8 v) s = exec (.dqheadWrite v) s ∧
      exec (.registerWrite 0x40060 8 v) s = exec (.dqreplayWrite v) s ∧ exec (.registerWrite 0x3C0030 8 v) s = exec (.ringctlWrite v) s ∧
      exec (.registerWrite 0x40018 8 v) s = .next s ∧
      exec (.registerWrite 0x200 8 v) s = .next (if 1200 ≤ v.toNat ∧ v.toNat ≤ 2800 then { s with power := { s.power with pcap := v.toNat } } else s) ∧
      exec (.registerWrite 0x3C0000 8 v) s = .next (if 5 ≤ v.toNat ∧ v.toNat ≤ 1000 then { s with settings := { s.settings with leaseterm := v.toNat } } else s))

/-- R378 to R381: the package accepts the entry of the SEQ that it expects, and no other; a malformed one completes at once. R315, R124, R131, R317, R378, R385, R386, R368, R246: what
each command does. (Commands start in the order of their acceptance; where the copy of a checkpoint's waymark window stands is log 50.) -/
def Obligations.HostCommandsAreAcceptedAndDone : Prop :=
  (∀ (s : State), s.bootState = 1 → s.hostq.gap = false → s.hostq.cplFull = false → s.hostq.lastAcc.toNat < s.hostq.doorbell.toNat →
    let q := s.hostq
    let expect := q.lastAcc + 1
    let n := peekNat s (hostAddress s (q.cqBase.toNat + 256 * (expect.toNat % 2 ^ q.cqLog))) 256
    (n % 2 ^ 64 ≠ expect.toNat → ∃ t, exec .commandAccept s = .next t ∧ t = { s with hostq := { q with gap := true }, msi := t.msi }) ∧
    (n % 2 ^ 64 = expect.toNat → entryStatus n = 0 → ∃ t c, exec .commandAccept s = .next t ∧
      t = { s with hostq := { q with lastAcc := expect, commands := q.commands ++ [c] } } ∧ c.seq = expect ∧ c.op = bits n 80 8 ∧
      c.context = bits n 64 12 ∧ c.arg.toNat = bits n 128 64 ∧ c.payload = bytesOf 128 (bits n 512 1024) ∧ c.started = false) ∧
    (n % 2 ^ 64 = expect.toNat → entryStatus n ≠ 0 → ∃ t x, exec .commandAccept s = .next t ∧ t.hostq.lastAcc = expect ∧ t.mem = s.mem ∧
      t.hostq.heldCpl = q.heldCpl ++ [x] ∧ x.seq = expect ∧ x.status = (if bits n 80 8 = 0 ∨ 9 < bits n 80 8 then 1 else 2))) ∧
  (∀ (s : State) (c : Command), CommandReady s 1 c → s.pkg < 128 →
    let card := leNat (c.payload.take 64)
    let mask := leNat ((c.payload.drop 64).take 16)
    let launch := leNat ((c.payload.drop 80).take 4)
    ((cardOk card = false ∨ launch < 2 ^ 31) → ∃ t, exec .launch s = .next t ∧ HostDone s t c 2 ∧ t.disp = s.disp ∧ t.ring = s.ring ∧ t.mem = s.mem) ∧
    (cardOk card = true → 2 ^ 31 ≤ launch → mask = 2 ^ s.pkg → s.disp.cards.length < 4096 → TablesInv s → ∃ t x, exec .launch s = .next t ∧
      HostStarted s t c [] ∧ t.mem = s.mem ∧ t.ring = s.ring ∧ tget t.disp.cards s.disp.nextCard = some x ∧ x.card = cardOf card ∧ x.context = c.context ∧
      x.launch = BitVec.ofNat 32 launch ∧ x.next = 0 ∧ x.last = (cardOf card).count ∧ x.queue = none) ∧
    (cardOk card = true → 2 ^ 31 ≤ launch → mask ≠ 2 ^ s.pkg → queuedRecords s < 256 → ∃ t r, exec .launch s = .next t ∧ t.disp = s.disp ∧ t.mem = s.mem ∧
      vget t.ring.queues 0 [] = vget s.ring.queues 0 [] ++ [(r, none)] ∧ r.kind = 5 ∧ r.cls = 0 ∧ r.context = c.context ∧ r.origin = s.pkg ∧
      r.payload.length = 48 ∧ leNat (r.payload.take 4) = launch ∧ leNat ((r.payload.drop 16).take 16) = mask ∧
      leNat ((r.payload.drop 8).take 8) = hostAddress s (s.hostq.cqBase.toNat + 256 * (c.seq.toNat % 2 ^ s.hostq.cqLog)) + 64)) ∧
  (∀ (s : State) (c : Command), CommandReady s 2 c → (∀ x ∈ s.hostq.commands, x.op = 2 → x.started = false) → ∃ t, exec .inval s = .next t ∧
    HostStarted s t c (contextAccesses (cleanAll s) c.context) ∧ t.mem = (cleanAll s).mem ∧ (∀ k, (t.core k).tlb = (s.core k).tlb.filter fun e => e.1 != c.context) ∧
    ∀ k < 4, (t.stack k).tlb = (s.stack k).tlb.filter fun e => e.1 != c.context) ∧
  (∀ (s : State) (c : Command), s.hostq.commands.find? (fun x => x.op == 2 && x.started && accessesDone s x.gate) = some c → c.seq ≠ 0 →
    ∃ t, exec .inval s = .next t ∧ HostDone s t c 0 ∧ t.mem = s.mem ∧ t.perStack = s.perStack ∧ t.cores = s.cores) ∧
  (∀ (s : State) (c : Command), CommandReady s 3 c → TablesInv s → ∃ t, exec .replay s = .next t ∧ HostDone s t c 0 ∧ t.mem = s.mem ∧
    (∀ k < 4, (t.stack k).faults = ((s.stack k).faults.filter fun e => e.2.context != c.context) ∧
      (t.stack k).dropped = ((s.stack k).dropped.filter (· != c.context)) ∧ (t.stack k).held = (s.stack k).held.filter fun r => r.context != c.context) ∧
    ∀ key w v p, tget s.waves key = some w → tget s.convoys (keyConvoy key) = some v → w.park = some p →
      ∃ w', tget t.waves key = some w' ∧
        if v.context ≠ c.context then w' = w else if v.residence = .placed then w'.park = none ∧ w'.retry = some p else w' = { w with park := some { p with replayed := true } }) ∧
  (∀ (s : State) (c : Command), CommandReady s 4 c → (∀ x ∈ s.hostq.commands, x.op = 4 → x.started = false) → TablesInv s → ∃ t, exec .evict s = .next t ∧
    HostStarted s t c [] ∧ t.mem = s.mem ∧ ∀ v x, tget s.convoys v = some x → ∃ y, tget t.convoys v = some y ∧
      y.residence = if (∃ u ∈ evictUnits s, u.2.1.context = c.context ∧ v ∈ u.2.2) then .evicting else x.residence) ∧
  (∀ (s : State) (c : Command), s.hostq.commands.find? (fun x => x.op == 4 && x.started && !evictingNow s x.context) = some c → c.seq ≠ 0 →
    ∃ t, exec .evict s = .next t ∧ HostDone s t c 0 ∧ t.convoys = s.convoys) ∧
  (∀ (s : State) (c : Command), CommandReady s 5 c → queuedRecords s < 256 → let a := c.arg.toNat
    bits a 4 2 ≤ 2 → ∃ t r, exec .ringpost s = .next t ∧ HostDone s t c 0 ∧ t.mem = s.mem ∧
      vget t.ring.queues (bits a 4 2) [] = vget s.ring.queues (bits a 4 2) [] ++ [(r, none)] ∧ r.kind = bits a 0 4 ∧ r.cls = bits a 4 2 ∧
      r.context = c.context ∧ r.origin = s.pkg ∧ r.payload = c.payload.take 48) ∧
  (∀ (s : State) (c : Command), CommandReady s 6 c →
    let image := peekBytes s (hostAddress s c.arg.toNat) Config.imageBytes
    (imageOk s.fuses image = false → ∃ t, exec .fwload s = .next t ∧ HostDone s t c 5 ∧ t.waysides = s.waysides ∧ t.mem = s.mem) ∧
    (imageOk s.fuses image = true → ∃ t, exec .fwload s = .next t ∧ t.mem = s.mem ∧ ∀ w < 6, (t.wayside w).image = (s.wayside w).image ∧
      (t.wayside w).next = if (c.payload.headD 0).getLsbD w then some image else (s.wayside w).next)) ∧
  (∀ (s : State) (c : Command), CommandReady s 7 c → s.pkg < 128 → c.arg.toNat % 2 ^ 48 + 528 ≤ 2 ^ 48 → c.payload.length = 128 → BytesInv s →
    ∃ t, exec .attest s = .next t ∧ HostDone s t c 0 ∧
      let body := c.payload.take 32 ++ bytesOf 8 s.pkg ++ bytesOf 8 s.fuses.rollback ++ bytesOf 48 (Config.sha384 s.fuses.firmware) ++
        ((List.range 6).flatMap fun w => match (s.wayside w).image with | some i => bytesOf 48 (Config.sha384 i) | none => List.replicate 48 0) ++
        bytesOf 48 (Config.sha384 (bindingBytes s))
      BytesPut s t (hostAddress s c.arg.toNat) (body ++ bytesOf 96 (Config.deviceSign body))) ∧
  (∀ (s : State) (c : Command), CommandReady s 8 c → MemInv s →
    (shapeMatches s c.arg = false → ∃ t, exec .restore s = .next t ∧ HostDone s t c 3 ∧ t.mem = s.mem ∧ t.waymark = s.waymark) ∧
    (shapeMatches s c.arg = true →
      let area := s.settings.ckptBase.toNat
      let d := (s.context c.context).desc
      (peekNat s (area + 96) 8 = 0 → s.ckpt.taken = c.arg → s.ckpt.context = c.context → ∃ t, exec .restore s = .next t ∧ HostDone s t c 0 ∧ t.mem = s.mem ∧
        (∀ o < d.wmSize, byteAt t.waymark (d.wmBase + o) = byteAt s.ckpt.waymark (d.wmBase + o)) ∧
        ∀ a, (a < d.wmBase ∨ d.wmBase + d.wmSize ≤ a) → byteAt t.waymark a = byteAt s.waymark a) ∧
      (∀ addr level e, peekNat s (area + 96) 8 = 1 →
        let va := peekNat s (area + 4096) 8 * 65536 % 2 ^ 56
        walkFrom s va walkLevels d.root.toNat = .leaf addr level e →
        let pa := leafPa e level va
        paPkg pa = s.pkg → (paRegion pa = 0 ∨ paRegion pa = 1) → (∀ j < 512, lineHeld s (pa + 128 * j) 1 = false) →
        ∃ t, exec .restore s = .next t ∧ HostDone s t c 0 ∧ BytesPut s t pa (peekBytes s (area + 8192) 65536)))) ∧
  ∀ (s : State) (c : Command), CommandReady s 9 c → TablesInv s → let k := drivingCore s c.arg.toNat
    ∃ t, exec .resetcore s = .next t ∧ HostDone s t c 0 ∧ t.mem = s.mem ∧ t.core k = { s.core k with resetting := true } ∧ ∀ j, j ≠ k → t.core j = s.core j
end

