-- ==== Sys2Proof/Laws/Table.lean ====
section
/-! SUPPORT. Sparse tables and byte memories: reading after writing, and the canonical form, which every operation keeps. -/

namespace Sys2Proof.Machine

variable {α : Type}

/-! ### The order of the keys -/

theorem keysFrom_mono {t : Table α} {lo lo' : Nat} (h : lo' ≤ lo) (k : keysFrom lo t = true) : keysFrom lo' t = true := by
  cases t with
  | nil => rfl
  | cons e t =>
    obtain ⟨n, v⟩ := e
    simp only [keysFrom, Bool.and_eq_true, decide_eq_true_eq] at k ⊢
    exact ⟨by omega, k.2⟩

theorem keysFrom_tput {t : Table α} {lo n : Nat} {x : α} (h : lo ≤ n) (k : keysFrom lo t = true) :
    keysFrom lo (tput t n x) = true := by
  induction t generalizing lo with
  | nil => simp [tput, keysFrom, h]
  | cons e t ih =>
    obtain ⟨m, v⟩ := e
    simp only [keysFrom, Bool.and_eq_true, decide_eq_true_eq] at k
    unfold tput
    split
    · next e => subst e; simp [keysFrom, h, k.2]
    · split
      · simp only [keysFrom, Bool.and_eq_true, decide_eq_true_eq]
        exact ⟨h, by omega, k.2⟩
      · simp only [keysFrom, Bool.and_eq_true, decide_eq_true_eq]
        exact ⟨k.1, ih (by omega) k.2⟩

theorem keysFrom_tdel {t : Table α} {lo n : Nat} (k : keysFrom lo t = true) : keysFrom lo (tdel t n) = true := by
  induction t generalizing lo with
  | nil => rfl
  | cons e t ih =>
    obtain ⟨m, v⟩ := e
    have k' := k
    simp only [keysFrom, Bool.and_eq_true, decide_eq_true_eq] at k'
    unfold tdel
    split
    · exact keysFrom_mono (by omega) k'.2
    · split
      · exact k
      · simp only [keysFrom, Bool.and_eq_true, decide_eq_true_eq]
        exact ⟨k'.1, ih k'.2⟩

/-! ### Reading after writing -/

theorem tget_below {t : Table α} {lo n : Nat} (k : keysFrom lo t = true) (h : n < lo) : tget t n = none := by
  cases t with
  | nil => rfl
  | cons e t =>
    obtain ⟨m, v⟩ := e
    simp only [keysFrom, Bool.and_eq_true, decide_eq_true_eq] at k
    simp [tget, show n ≠ m by omega, show n < m by omega]

/-- A key reads what was set for it. -/
@[simp] theorem tget_tput_self (t : Table α) (n : Nat) (x : α) : tget (tput t n x) n = some x := by
  induction t with
  | nil => simp [tput, tget]
  | cons e t ih =>
    obtain ⟨m, v⟩ := e
    unfold tput
    split
    · simp [tget]
    · split
      · simp [tget]
      · next h1 h2 => simp [tget, h1, h2, ih]

/-- A key that is not set reads as before. -/
theorem tget_tput_ne (t : Table α) {n m : Nat} (x : α) (h : m ≠ n) : tget (tput t n x) m = tget t m := by
  induction t with
  | nil => simp [tput, tget, h]
  | cons e t ih =>
    obtain ⟨k, v⟩ := e
    unfold tput
    split
    · next e => subst e; simp [tget, h]
    · split
      · next h1 h2 =>
        simp only [tget, h, if_false]
        by_cases hk : m < n
        · simp [hk, show m ≠ k by omega, show m < k by omega]
        · simp [hk]
      · simp [tget, ih]

/-- A key that is removed reads the default. -/
theorem tget_tdel_self {t : Table α} {lo : Nat} (n : Nat) (k : keysFrom lo t = true) : tget (tdel t n) n = none := by
  induction t generalizing lo with
  | nil => rfl
  | cons e t ih =>
    obtain ⟨m, v⟩ := e
    simp only [keysFrom, Bool.and_eq_true, decide_eq_true_eq] at k
    unfold tdel
    split
    · next e => subst e; exact tget_below k.2 (by omega)
    · split
      · next h1 h2 => simp [tget, h1, h2]
      · next h1 h2 => simp [tget, h1, h2, ih k.2]

/-- A key that is not removed reads as before. -/
theorem tget_tdel_ne {t : Table α} {lo n m : Nat} (k : keysFrom lo t = true) (h : m ≠ n) : tget (tdel t n) m = tget t m := by
  induction t generalizing lo with
  | nil => rfl
  | cons e t ih =>
    obtain ⟨j, v⟩ := e
    simp only [keysFrom, Bool.and_eq_true, decide_eq_true_eq] at k
    unfold tdel
    split
    · next e =>
      subst e
      by_cases hlt : m < n
      · rw [tget_below k.2 (by omega)]; simp [tget, h, hlt]
      · simp [tget, h, hlt]
    · split
      · rfl
      · simp [tget, ih k.2]

/-! ### The canonical form -/

theorem all_tput {p : Nat × α → Bool} {t : Table α} {n : Nat} {x : α} (h : t.all p = true) (hx : p (n, x) = true) :
    (tput t n x).all p = true := by
  induction t with
  | nil => simp [tput, hx]
  | cons e t ih =>
    obtain ⟨m, v⟩ := e
    simp only [List.all_cons, Bool.and_eq_true] at h
    unfold tput
    split
    · simp [hx, h.2]
    · split
      · simp [hx, h.1, h.2]
      · simp [h.1, ih h.2]

theorem all_tdel {p : Nat × α → Bool} {t : Table α} {n : Nat} (h : t.all p = true) : (tdel t n).all p = true := by
  induction t with
  | nil => rfl
  | cons e t ih =>
    obtain ⟨m, v⟩ := e
    simp only [List.all_cons, Bool.and_eq_true] at h
    unfold tdel
    split
    · exact h.2
    · split
      · simp [h.1, h.2]
      · simp [h.1, ih h.2]

variable [DecidableEq α]

/-- Removing a key keeps the canonical form. -/
theorem canonical_tdel {d : α} {t : Table α} (n : Nat) (h : canonical d t = true) : canonical d (tdel t n) = true := by
  simp only [canonical, Bool.and_eq_true] at h ⊢
  exact ⟨keysFrom_tdel h.1, all_tdel h.2⟩

/-- Setting a key keeps the canonical form. -/
theorem canonical_tset {d : α} {t : Table α} (n : Nat) (x : α) (h : canonical d t = true) : canonical d (tset d t n x) = true := by
  unfold tset
  split
  · exact canonical_tdel n h
  · next hx =>
    simp only [canonical, Bool.and_eq_true] at h ⊢
    exact ⟨keysFrom_tput (Nat.zero_le n) h.1, all_tput h.2 (by simp [hx])⟩

/-- A key reads what was set for it. -/
theorem tgetD_tset_self {d : α} {t : Table α} (n : Nat) (x : α) (h : canonical d t = true) : tgetD (tset d t n x) n d = x := by
  simp only [canonical, Bool.and_eq_true] at h
  unfold tset tgetD
  split
  · next e => rw [tget_tdel_self n h.1]; simp [e]
  · simp

/-- A key that is not set reads as before. -/
theorem tgetD_tset_ne {d : α} {t : Table α} {n m : Nat} (x : α) (h : canonical d t = true) (hm : m ≠ n) :
    tgetD (tset d t n x) m d = tgetD t m d := by
  simp only [canonical, Bool.and_eq_true] at h
  unfold tset tgetD
  split
  · rw [tget_tdel_ne h.1 hm]
  · rw [tget_tput_ne t x hm]

/-! ### Byte memories -/

/-- Writing a byte keeps the canonical form. -/
theorem wf_setByte {m : Table Byte} (a : Nat) (b : Byte) (h : Memory.wf m = true) : Memory.wf (setByte m a b) = true :=
  canonical_tset a b h

/-- A byte reads what was written to it. -/
theorem byteAt_setByte_self {m : Table Byte} (a : Nat) (b : Byte) (h : Memory.wf m = true) : byteAt (setByte m a b) a = b :=
  tgetD_tset_self a b h

/-- A byte that is not written reads as before. -/
theorem byteAt_setByte_ne {m : Table Byte} {a c : Nat} (b : Byte) (h : Memory.wf m = true) (hc : c ≠ a) :
    byteAt (setByte m a b) c = byteAt m c := tgetD_tset_ne b h hc

/-- Writing a run of bytes keeps the canonical form. -/
theorem wf_writeRun {m : Table Byte} (a : Nat) (bs : List Byte) (h : Memory.wf m = true) : Memory.wf (writeRun m a bs) = true := by
  induction bs generalizing m a with
  | nil => exact h
  | cons b bs ih => exact ih (a + 1) (wf_setByte a b h)

/-- Bytes outside a run that is written read as before. -/
theorem byteAt_writeRun_out {m : Table Byte} (a : Nat) (bs : List Byte) (h : Memory.wf m = true) {c : Nat}
    (hc : c < a ∨ a + bs.length ≤ c) : byteAt (writeRun m a bs) c = byteAt m c := by
  induction bs generalizing m a with
  | nil => rfl
  | cons b bs ih =>
    simp only [List.length_cons] at hc
    rw [writeRun, ih (a + 1) (wf_setByte a b h) (by omega), byteAt_setByte_ne b h (by omega)]

/-- Bytes of a run read what was written. -/
theorem byteAt_writeRun_in {m : Table Byte} (a : Nat) (bs : List Byte) (h : Memory.wf m = true) {i : Nat} (hi : i < bs.length) :
    byteAt (writeRun m a bs) (a + i) = bs[i] := by
  induction bs generalizing m a i with
  | nil => simp at hi
  | cons b bs ih =>
    cases i with
    | zero => rw [writeRun, byteAt_writeRun_out _ _ (wf_setByte a b h) (by omega)]; exact byteAt_setByte_self a b h
    | succ i =>
      have := ih (a + 1) (wf_setByte a b h) (i := i) (by simpa using hi)
      rw [writeRun, show a + (i + 1) = a + 1 + i by omega, this]; rfl

/-- Writing bytes at named addresses keeps the canonical form. -/
theorem wf_writeCells {m : Table Byte} (cells : List (Nat × Byte)) (h : Memory.wf m = true) :
    Memory.wf (writeCells m cells) = true := by
  unfold writeCells
  induction cells generalizing m with
  | nil => exact h
  | cons c cells ih => exact ih (wf_setByte c.1 c.2 h)

end Sys2Proof.Machine
end

