-- ==== Sys2Proof/Laws/Issue.lean ====
section
/-! SUPPORT. What the issue of an instruction does, once for every instruction: its checks, the end of the path's turn, and the shapes of the
ALU instructions. -/

namespace Sys2Proof.Machine

/-! ### Vectors, lanes -/

@[simp] theorem vget_setIfInBounds_self {α : Type} {n : Nat} (v : Vector α n) {i : Nat} (x d : α) (h : i < n) :
    vget (v.setIfInBounds i x) i d = x := by
  simp [vget, h]

theorem vget_setIfInBounds_ne {α : Type} {n : Nat} (v : Vector α n) {i j : Nat} (x d : α) (h : j ≠ i) :
    vget (v.setIfInBounds i x) j d = vget v j d := by
  simp only [vget]
  rw [Vector.getElem?_setIfInBounds_ne (Ne.symm h)]

@[simp] theorem lane_lanesOf (f : Nat → Word) {L : Nat} (h : L < 32) : lane (lanesOf f) L = f L := by
  simp [lane, lanesOf, vget, h]

/-! ### Paths and strands -/

@[simp] theorem path_setPath_self (d : Div) {p : Nat} (x : Path) (h : p < 8) : (d.setPath p x).path p = x := by
  simp [Div.path, Div.setPath, h]

theorem path_setPath_ne (d : Div) {p q : Nat} (x : Path) (h : q ≠ p) : (d.setPath p x).path q = d.path q := by
  simp only [Div.path, Div.setPath]; exact vget_setIfInBounds_ne _ _ _ h

@[simp] theorem strand_setPath (d : Div) (p k : Nat) (x : Path) : (d.setPath p x).strand k = d.strand k := rfl

@[simp] theorem path_clearExt (d : Div) (p q : Nat) : (d.clearExt p).path q = d.path q := rfl

/-- Clearing the EXT state of a path changes that of its strands and nothing else. -/
theorem strand_clearExt (d : Div) (p k : Nat) : (d.clearExt p).strand k =
    { d.strand k with ext := if (d.path p).mask.getLsbD k then ExtState.none else (d.strand k).ext } := by
  by_cases h : k < 8
  · simp only [Div.clearExt, Div.strand, vget, Vector.getElem?_eq_getElem h, Option.getD_some, Vector.getElem_mapIdx]
    split <;> rfl
  · have hm : (d.path p).mask.getLsbD k = false := BitVec.getLsbD_of_ge _ _ (by omega)
    simp [Div.clearExt, Div.strand, vget, h, hm]

@[simp] theorem stepped_pc (p : Path) : p.stepped.pc = p.pc := by unfold Path.stepped; split <;> rfl
@[simp] theorem stepped_mask (p : Path) : p.stepped.mask = p.mask := by unfold Path.stepped; split <;> rfl
@[simp] theorem stepped_latches (p : Path) : p.stepped.latches = p.latches := by unfold Path.stepped; split <;> rfl

/-! ### The issuing path -/

/-- What the cursor names when a path issues. -/
theorem issueCtx_some {s : State} {c : Ctx} (h : issueCtx s = some c) :
    tget s.waves c.key = some c.w ∧ tget s.convoys (keyConvoy c.key) = some c.conv ∧ c.path = c.w.div.path c.p ∧ c.p < 8 ∧
    c.key = s.cur.wave ∧ c.p = s.cur.path ∧ c.ext = c.w.div.ext c.p ∧ c.active = c.w.div.activeLanes c.p ∧
    c.acting = c.active &&& predLanes c.w c.ext := by
  unfold issueCtx at h
  split at h
  · next w v hw hv =>
    dsimp only at h
    split at h
    · cases h
    · next hb =>
      simp only [Bool.or_eq_true, not_or, decide_eq_true_eq] at hb
      cases h
      exact ⟨hw, hv, rfl, Nat.lt_of_not_le hb.1.2, rfl, rfl, rfl, rfl, rfl⟩
  · cases h

/-! ### Running an instruction -/

/-- An instruction whose checks all pass has the effect of its body. -/
theorem run_passes {s : State} {i : Instr} {sp : IssueSpec} {c : Ctx} (h : Passes s i sp c) (body : Ctx → Res) :
    run i sp s body = .next (finish s c (body c)) := by
  simp [run, h.issues, h.arrived, h.clear]

/-- An instruction with a cause that comes before its effect ends as that cause says. -/
theorem run_cause {s : State} {i : Instr} {sp : IssueSpec} {c : Ctx} {r : Res} (hi : issueCtx s = some c)
    (ha : awaitsLoad s i sp c = false) (hp : precheck s i sp c = some r) (body : Ctx → Res) :
    run i sp s body = .next (finish s c r) := by
  simp [run, hi, ha, hp]

/-- An instruction whose operands are on their way waits. -/
theorem run_waits {s : State} {i : Instr} {sp : IssueSpec} {c : Ctx} (hi : issueCtx s = some c)
    (ha : awaitsLoad s i sp c = true) (body : Ctx → Res) : run i sp s body = .next (stall s c 7 0) := by
  simp [run, hi, ha]

/-- An instruction that a live path issues answers a next state. -/
theorem run_next {s : State} {i : Instr} {sp : IssueSpec} {body : Ctx → Res} (h : issueCtx s ≠ none) :
    ∃ t, run i sp s body = .next t := by
  unfold run
  split
  · next e => exact absurd e h
  · split
    · exact ⟨_, rfl⟩
    · exact ⟨_, rfl⟩

/-- An instruction stops only where no live path issues it. -/
theorem run_stops {s : State} {i : Instr} {sp : IssueSpec} {body : Ctx → Res} (h : issueCtx s = none) :
    run i sp s body = .fault .noIssuingPath := by
  simp [run, h]

/-! ### The end of an instruction -/

theorem tget_tmod_self {α : Type} {t : Table α} {k : Nat} {x : α} (f : α → α) (h : tget t k = some x) :
    tget (tmod t k f) k = some (f x) := by
  simp [tmod, h]

theorem tget_tmod_ne {α : Type} (t : Table α) {k n : Nat} (f : α → α) (h : n ≠ k) : tget (tmod t k f) n = tget t n := by
  unfold tmod
  split
  · rfl
  · exact tget_tput_ne t _ h

/-- The wave after an instruction that has changed it to `w` and is done. -/
def Wave.after (w : Wave) (c : Ctx) (pc : Dword) (stamp : Nat) : Wave := (w.advance c.p pc stamp).countSkid

/-- An instruction that changes only its wave, and is done, changes only its wave. -/
theorem advance_onlyWave {s s' : State} {c : Ctx} {w : Wave} {pc : Dword} (h : tget s'.waves c.key = some w)
    (ho : ∀ k, k ≠ c.key → tget s'.waves k = tget s.waves k)
    (he : s' = { s with waves := s'.waves, draws := s'.draws, epoch := s'.epoch }) :
    OnlyWave s (advance s' c pc) c (w.after c pc (s'.epoch + 1)) := by
  refine ⟨tget_tmod_self _ h, fun k hk => ?_, ?_⟩
  · exact (tget_tmod_ne _ _ hk).trans (ho k hk)
  · rw [he]; rfl

theorem countSkid_div (w : Wave) : w.countSkid.div = w.div := by
  unfold Wave.countSkid; split <;> (try split) <;> rfl

/-- An instruction that is done and leaves the divergence state alone lets its path go on. -/
theorem after_goesOn {c : Ctx} {w : Wave} (pc : Dword) (n : Nat) (hp : c.p < 8)
    (hm : (w.div.path c.p).mask = c.path.mask) (hq : ∀ q, q ≠ c.p → w.div.path q = c.w.div.path q)
    (hs : ∀ k, w.div.strand k = c.w.div.strand k) : GoesOn c (w.after c pc n) pc := by
  simp only [GoesOn, Wave.after, countSkid_div, Wave.advance]
  refine ⟨by simp [hp], by simp [hp, hm], fun q h => ?_, fun k => ?_⟩
  · rw [path_setPath_ne _ _ h]; exact hq q h
  · rw [strand_setPath, strand_clearExt, hm, hs]

theorem after_latches {c : Ctx} {w : Wave} (pc : Dword) (n : Nat) (hp : c.p < 8) :
    ((w.after c pc n).div.path c.p).latches = (w.div.path c.p).latches := by
  simp [Wave.after, countSkid_div, Wave.advance, hp]

/-- What an instruction's end does to a wave beside its divergence state. -/
theorem after_rest (c : Ctx) (w : Wave) (pc : Dword) (n : Nat) :
    w.after c pc n = { w with div := (w.after c pc n).div, retry := w.retryAfter c.p, heldSibling := (w.after c pc n).heldSibling } := by
  unfold Wave.after Wave.countSkid
  split <;> (try split) <;> rfl

end Sys2Proof.Machine
end

