-- ==== Sys2Proof/Laws/Alu.lean ====
section
/-! SUPPORT. What the ends of ALU instructions leave: a scalar result, a vector result without a bound check, a compare. -/

namespace Sys2Proof.Machine

/-! ### Registers -/

theorem vget_setIfInBounds {α : Type} {n : Nat} (v : Vector α n) (i j : Nat) (x d : α) :
    vget (v.setIfInBounds i x) j d = if j = i ∧ i < n then x else vget v j d := by
  by_cases h : j = i
  · subst h
    by_cases hn : j < n
    · simp [hn]
    · simp [vget, hn]
  · rw [vget_setIfInBounds_ne _ _ _ h]; simp [h]

theorem sreg_setSreg (w : Wave) (d n : Nat) (x : Dword) (hn : n < 64) :
    (w.setSreg d x).sreg n = if n = d ∧ n ≠ 0 then x else w.sreg n := by
  unfold Wave.setSreg Wave.sreg
  by_cases h0 : n = 0
  · simp [h0]
  · by_cases hd : d = 0
    · simp [hd, h0]
    · simp only [h0, hd, if_false, vget_setIfInBounds]
      by_cases h : n = d
      · subst h; simp [hn, h0]
      · simp [h]

theorem preg_setPreg_self (w : Wave) {p : Nat} (x : Word) (h : p ≠ 0) (hp : p < 8) : (w.setPreg p x).preg p = x := by
  simp [Wave.setPreg, Wave.preg, h, hp]

theorem preg_setPreg_ne (w : Wave) {p n : Nat} (x : Word) (h : n ≠ p) : (w.setPreg p x).preg n = w.preg n := by
  unfold Wave.setPreg Wave.preg
  by_cases hp : p = 0
  · simp [hp]
  · simp [hp, vget_setIfInBounds_ne _ _ _ h]

theorem undef_clear (u v : BitVec 128) : (if (u == 0) = true then 0 else u &&& v) = u &&& v := by
  split
  · next h => rw [eq_of_beq h]; exact (BitVec.zero_and).symm
  · rfl

/-- A vector register after a write of some lanes. -/
theorem vreg_writeV (w : Wave) (n m : Nat) (mask : Word) (tag : BitVec 4) (v : Lanes) (hn : n < 256) :
    (w.writeV n mask tag v).vreg m =
      if m = n then { tag := tag, lanes := mergeLanes mask (w.vreg n).lanes v, undef := (w.vreg n).undef &&& ~~~laneBytes mask } else w.vreg m := by
  simp only [Wave.writeV, Wave.setVreg, Wave.vreg, vget_setIfInBounds]
  by_cases h : m = n
  · subst h
    simp only [hn, if_true, and_self]
    exact congrArg (VReg.mk tag _) (undef_clear _ _)
  · simp [h]

theorem lane_mergeLanes (mask : Word) (old new : Lanes) {L : Nat} (h : L < 32) :
    lane (mergeLanes mask old new) L = if mask.getLsbD L then lane new L else lane old L := by
  simp [mergeLanes, h]

/-! ### Latches -/

theorem pushLatch_path (w : Wave) {p : Nat} (tag : BitVec 4) (m : Word) (v : Lanes) (hp : p < 8) :
    (w.pushLatch p tag m v).div.path p = (w.div.path p).push tag v (~~~m) := by
  simp [Wave.pushLatch, hp]

theorem pushLatch_path_ne (w : Wave) {p q : Nat} (tag : BitVec 4) (m : Word) (v : Lanes) (h : q ≠ p) :
    (w.pushLatch p tag m v).div.path q = w.div.path q := path_setPath_ne _ _ h

/-- A push stands in the first latch, and the others have moved on. -/
theorem pushed_of {c : Ctx} {w : Wave} (tag : BitVec 4) (mask : Word) (l : Lanes) (v : Nat → Word) (pc : Dword) (n : Nat) (hp : c.p < 8)
    (hw : w.div.path c.p = c.path) (hv : ∀ L < 32, mask.getLsbD L = true → lane l L = v L) :
    Pushed c ((w.pushLatch c.p tag mask l).after c pc n) tag mask v := by
  simp only [Pushed, after_latches pc n hp, pushLatch_path w tag mask l hp, hw]
  refine ⟨rfl, rfl, rfl, hv, ?_, ?_⟩ <;> rfl

/-! ### The end of a change of the wave -/

/-- An instruction whose body changes only the issuing wave, keeping its divergence state but for the latches of the issuing path, and is
done. -/
theorem next_modWave {s : State} {c : Ctx} (hi : issueCtx s = some c) (f : Wave → Wave) :
    OnlyWave s (finish s c (.next (s.modWave c.key f))) c ((f c.w).after c (c.path.pc + 4) (s.epoch + 1)) := by
  have h := issueCtx_some hi
  refine advance_onlyWave (s' := s.modWave c.key f) ?_ ?_ rfl
  · exact tget_tmod_self f h.1
  · exact fun k hk => tget_tmod_ne _ f hk

/-! ### Scalar results -/

theorem lane_scalarLanes (x : Dword) {L : Nat} (h : L < 32) :
    lane (scalarLanes x) L = if L % 2 = 0 then x.setWidth 32 else (x >>> 32).setWidth 32 := by
  simp [scalarLanes, h]

theorem setSreg_rest (w : Wave) (d : Nat) (x : Dword) : w.setSreg d x = { w with sregs := (w.setSreg d x).sregs } := by
  unfold Wave.setSreg; split <;> rfl

/-- The end of a scalar instruction. -/
theorem scalarDone_result {s : State} {c : Ctx} (hi : issueCtx s = some c) (d : Nat) (x : Dword) :
    ScalarResult s (finish s c (scalarDone s c false d x)) c d x := by
  have h := issueCtx_some hi
  refine ⟨_, next_modWave hi _, ?_, ?_, fun n hn => ?_, ?_⟩
  · refine after_goesOn _ _ h.2.2.2.1 ?_ (fun q hq => ?_) (fun k => ?_)
    · rw [pushLatch_path _ _ _ _ h.2.2.2.1, setSreg_rest]; simp [Path.push, h.2.2.1]
    · rw [pushLatch_path_ne _ _ _ _ hq, setSreg_rest]; simp
    · rw [setSreg_rest]; simp [Wave.pushLatch]
  · refine pushed_of _ _ _ _ _ _ h.2.2.2.1 ?_ (fun L hL _ => lane_scalarLanes x hL)
    rw [setSreg_rest]; exact h.2.2.1.symm
  · rw [← sreg_setSreg c.w d n x hn, after_rest]; rfl
  · rw [after_rest]; simp only [Wave.pushLatch, Bool.false_eq_true, if_false]; rw [setSreg_rest c.w d x]; rfl

/-! ### Compares -/

theorem setPreg_rest (w : Wave) (p : Nat) (x : Word) : w.setPreg p x = { w with pregs := (w.setPreg p x).pregs } := by
  unfold Wave.setPreg; split <;> rfl

theorem getLsbD_predAfter (old acting cond : Word) (m : BitVec 1) {L : Nat} (h : L < 32) :
    (predAfter old acting cond m).getLsbD L =
      if acting.getLsbD L then cond.getLsbD L && (m == 0 || old.getLsbD L) else old.getLsbD L := by
  unfold predAfter
  have hm : m = 0 ∨ m = 1 := by
    have := m.isLt
    rcases (show m.toNat = 0 ∨ m.toNat = 1 by omega) with e | e
    · exact .inl (BitVec.eq_of_toNat_eq e)
    · exact .inr (BitVec.eq_of_toNat_eq e)
  simp only [BitVec.getLsbD_or, BitVec.getLsbD_and, BitVec.getLsbD_not, h, decide_true, Bool.true_and]
  rcases hm with rfl | rfl <;> cases ha : acting.getLsbD L <;> cases ho : old.getLsbD L <;> simp [BitVec.getLsbD_and, ha, ho, -BitVec.getLsbD_eq_getElem]

/-- A wave whose predicate has been written and whose latches have received a result, at its end. -/
theorem compare_result {s : State} {c : Ctx} (hi : issueCtx s = some c) (p : Nat) (m : BitVec 1) (cond : Word) (tag : BitVec 4)
    (mask : Word) (l : Lanes) (v : Nat → Word) (hp : p < 8) (hv : ∀ L < 32, mask.getLsbD L = true → lane l L = v L) :
    CompareResult s (finish s c (.next (s.modWave c.key fun w =>
      (w.setPreg p (predAfter (w.preg p) c.acting cond m)).pushLatch c.p tag mask l))) c p m (fun L => cond.getLsbD L) tag mask v := by
  have h := issueCtx_some hi
  refine ⟨_, next_modWave hi _, ?_, ?_, fun h0 L hL => ?_, fun n hn => ?_, ?_⟩
  · refine after_goesOn _ _ h.2.2.2.1 ?_ (fun q hq => ?_) (fun k => ?_)
    · rw [pushLatch_path _ _ _ _ h.2.2.2.1, setPreg_rest]; simp [Path.push, h.2.2.1]
    · rw [pushLatch_path_ne _ _ _ _ hq, setPreg_rest]
    · rw [setPreg_rest]; rfl
  · refine pushed_of _ _ _ _ _ _ h.2.2.2.1 ?_ hv
    rw [setPreg_rest]; exact h.2.2.1.symm
  · rw [← getLsbD_predAfter _ _ _ _ hL]
    refine congrArg (BitVec.getLsbD · L) (Eq.trans ?_ (preg_setPreg_self c.w (predAfter (c.w.preg p) c.acting cond m) h0 hp))
    rw [after_rest]; rfl
  · rw [← preg_setPreg_ne c.w (predAfter (c.w.preg p) c.acting cond m) hn, after_rest]; rfl
  · rw [after_rest]; simp only [Wave.pushLatch]; rw [setPreg_rest c.w p]; rfl

/-! ### Vector results -/

theorem boundCheck_off {s : State} {c : Ctx} (h : Unbounded s c) (mask : Word) (outs : List (BitVec 4 × Lanes)) :
    boundCheck s c mask outs = (outs, 0, 0, s) := by
  unfold boundCheck; simp only [Unbounded] at h; simp [h]

/-- The writes of a vector instruction's results, from register `d + k` on. -/
theorem foldl_writeV (d : Nat) (mask : Word) (outs : List (BitVec 4 × Lanes)) (k : Nat) (w w' : Wave) (hd : d + k + outs.length ≤ 256)
    (hw : (outs.mapIdx fun j o => (j + k, o)).foldl (fun w e => w.writeV (d + e.1) mask e.2.1 e.2.2) w = w') :
    (∀ j o, outs[j]? = some o → w'.vreg (d + k + j) = { tag := o.1, lanes := mergeLanes mask (w.vreg (d + k + j)).lanes o.2, undef := (w.vreg (d + k + j)).undef &&& ~~~laneBytes mask }) ∧
    (∀ n, n < d + k ∨ d + k + outs.length ≤ n → w'.vreg n = w.vreg n) ∧
    ∃ v r, w' = { w with vregs := v, registerDirty := r } := by
  induction outs generalizing k w with
  | nil => subst hw; exact ⟨fun j o h => by simp at h, fun n _ => rfl, _, _, rfl⟩
  | cons x outs ih =>
    simp only [List.length_cons] at hd
    have e : (fun i (o : BitVec 4 × Lanes) => (i + 1 + k, o)) = fun i o => (i + (k + 1), o) := by
      funext i o; rw [Nat.add_right_comm, Nat.add_assoc]
    simp only [List.mapIdx_cons, List.foldl_cons, Nat.zero_add, e] at hw
    have ih' := ih (k + 1) (w.writeV (d + k) mask x.1 x.2) (by omega) hw
    refine ⟨fun j o h => ?_, fun n h => ?_, ?_⟩
    · cases j with
      | zero =>
        simp only [List.getElem?_cons_zero, Option.some.injEq] at h
        subst h
        rw [ih'.2.1 _ (by omega), vreg_writeV _ _ _ _ _ _ (by omega)]
        simp
      | succ j =>
        simp only [List.getElem?_cons_succ] at h
        have := ih'.1 j o h
        rw [show d + (k + 1) + j = d + k + (j + 1) by omega] at this
        rw [this, vreg_writeV _ _ _ _ _ _ (by omega), if_neg (by omega)]
    · simp only [List.length_cons] at h
      rw [ih'.2.1 _ (by omega), vreg_writeV _ _ _ _ _ _ (by omega), if_neg (by omega)]
    · exact ih'.2.2

/-- What the writes of a vector instruction's results leave. -/
theorem writeResults_spec (w : Wave) (d : Nat) (mask : Word) (outs : List (BitVec 4 × Lanes)) (hd : d + outs.length ≤ 256) :
    (∀ j o, outs[j]? = some o →
      (w.writeResults d mask outs).vreg (d + j) = { tag := o.1, lanes := mergeLanes mask (w.vreg (d + j)).lanes o.2, undef := (w.vreg (d + j)).undef &&& ~~~laneBytes mask }) ∧
    (∀ n, n < d ∨ d + outs.length ≤ n → (w.writeResults d mask outs).vreg n = w.vreg n) ∧
    ∃ v r, w.writeResults d mask outs = { w with vregs := v, registerDirty := r } :=
  foldl_writeV d mask outs 0 w _ hd rfl

theorem pushFirst_vregs (w : Wave) (p : Nat) (mask : Word) (outs : List (BitVec 4 × Lanes)) :
    (w.pushFirst p mask outs).vregs = w.vregs := by cases outs <;> rfl

theorem pushFirst_rest (w : Wave) (p : Nat) (mask : Word) (outs : List (BitVec 4 × Lanes)) :
    w.pushFirst p mask outs = { w with div := (w.pushFirst p mask outs).div } := by cases outs <;> rfl

theorem vreg_of_vregs {w v : Wave} (h : w.vregs = v.vregs) (n : Nat) : w.vreg n = v.vreg n := by simp only [Wave.vreg, h]

theorem after_vregs (w : Wave) (c : Ctx) (pc : Dword) (n : Nat) : (w.after c pc n).vregs = w.vregs := by rw [after_rest]

/-- The end of a vector instruction that has no bound check. -/
theorem aluDone_result {s : State} {c : Ctx} (hi : issueCtx s = some c) (hu : Unbounded s c) (mask : Word) (ws : Bool) (d n : Nat)
    (outs : List (BitVec 4 × Lanes)) (hd : d + outs.length ≤ 256) :
    VectorResult s (finish s c (aluDone s c ws d n mask outs)) c mask ws d (outs.map fun o => (o.1, lane o.2)) := by
  have h := issueCtx_some hi
  have ha : aluDone s c ws d n mask outs = .next (s.modWave c.key fun w =>
      (if ws then w else w.writeResults d mask outs).pushFirst c.p mask outs) := by
    simp only [aluDone, boundCheck_off hu, List.take_append_drop, bne_self_eq_false, Bool.false_eq_true, if_false]
  rw [ha]
  have hf := writeResults_spec c.w d mask outs hd
  have hr : ∃ v r, (if ws then c.w else c.w.writeResults d mask outs) = { c.w with vregs := v, registerDirty := r } := by
    cases ws
    · exact hf.2.2
    · exact ⟨_, _, rfl⟩
  have hv : ∀ n, ((((if ws then c.w else c.w.writeResults d mask outs).pushFirst c.p mask outs).after c
      (c.path.pc + 4) (s.epoch + 1)).vreg n) = (if ws then c.w else c.w.writeResults d mask outs).vreg n := fun n =>
    vreg_of_vregs (by rw [after_vregs, pushFirst_vregs]) n
  refine ⟨_, next_modWave hi _, ?_, fun o ho => ?_, fun hws => ?_, fun hws j o ho => ?_, fun m hm => ?_, ?_⟩
  · obtain ⟨v, r, e⟩ := hr
    rw [e]
    cases outs with
    | nil => exact after_goesOn _ _ h.2.2.2.1 (by rw [h.2.2.1]; rfl) (fun q _ => rfl) (fun k => rfl)
    | cons o outs =>
      refine after_goesOn _ _ h.2.2.2.1 ?_ (fun q hq => ?_) (fun k => rfl)
      · simp only [Wave.pushFirst, pushLatch_path _ _ _ _ h.2.2.2.1, h.2.2.1, Path.push]
      · simp only [Wave.pushFirst, pushLatch_path_ne _ _ _ _ hq]
  · obtain ⟨v, r, e⟩ := hr
    rw [e]
    cases outs with
    | nil => simp at ho
    | cons x outs =>
      simp only [List.map_cons, List.head?_cons, Option.some.injEq] at ho
      subst ho
      exact pushed_of _ _ _ _ _ _ h.2.2.2.1 h.2.2.1.symm (fun _ _ _ => rfl)
  · subst hws
    rw [after_vregs, pushFirst_vregs]; rfl
  · subst hws
    simp only [List.getElem?_map, Option.map_eq_some_iff] at ho
    obtain ⟨x, hx, rfl⟩ := ho
    rw [(hv (d + j)).trans (hf.1 j x hx)]
    exact ⟨rfl, rfl, fun L hL => lane_mergeLanes _ _ _ hL⟩
  · rw [hv]
    cases ws
    · exact hf.2.1 m (by simpa using hm)
    · rfl
  · obtain ⟨v, r, e⟩ := hr
    rw [after_rest, e, pushFirst_rest]; rfl

/-- A vector result reads only the 32 lanes of a register. -/
theorem vectorResult_lanes {s t : State} {c : Ctx} {mask : Word} {ws : Bool} {d : Nat} {outs : List (BitVec 4 × (Nat → Word))}
    (h : VectorResult s t c mask ws d (outs.map fun o => (o.1, lane (lanesOf o.2)))) : VectorResult s t c mask ws d outs := by
  obtain ⟨w, h1, h2, h3, h4, h5, h6, h7⟩ := h
  refine ⟨w, h1, h2, fun o ho => ?_, h4, fun hw j o ho => ?_, fun n hn => h6 n (by simpa using hn), h7⟩
  · have := h3 (o.1, lane (lanesOf o.2)) (by simp [ho])
    exact ⟨this.1, this.2.1, this.2.2.1, fun L hL hm => (this.2.2.2.1 L hL hm).trans (lane_lanesOf _ hL), this.2.2.2.2⟩
  · have := h5 hw j (o.1, lane (lanesOf o.2)) (by simp [ho])
    exact ⟨this.1, this.2.1, fun L hL => (this.2.2 L hL).trans (by simp only [lane_lanesOf _ hL])⟩

/-- The end of a vector instruction that has no bound check, its results given by lane. -/
theorem aluDone_results {s : State} {c : Ctx} (hi : issueCtx s = some c) (hu : Unbounded s c) (mask : Word) (ws : Bool) (d n : Nat)
    (outs : List (BitVec 4 × (Nat → Word))) (hd : d + outs.length ≤ 256) :
    VectorResult s (finish s c (aluDone s c ws d n mask (outs.map fun o => (o.1, lanesOf o.2)))) c mask ws d outs :=
  vectorResult_lanes (by
    have := aluDone_result hi hu mask ws d n (outs.map fun o => (o.1, lanesOf o.2)) (by simpa using hd)
    simpa only [List.map_map, Function.comp_def] using this)

/-! ### The shapes of ALU instructions -/

theorem reg_opD_lt (d : BitVec 7) (c : Ctx) : (opD d).reg c < 256 := by
  have h := d.isLt
  have e : (d.setWidth 8).toNat = d.toNat := by simp; omega
  simp only [Opnd.reg, opD, e]
  split <;> omega

theorem scalar2_result {s : State} {c : Ctx} {i : Instr} {d : BitVec 6} {a b : BitVec 8} (f : Dword → Dword → Dword)
    (h : Passes s i { kinds := kindsS, opnds := [opS 1 a, opS 2 b] } c) :
    ∃ t, scalar2 i d a b f s = .next t ∧
      ScalarResult s t c d.toNat (f (source s c (opS 1 a)).wide (source s c (opS 2 b)).wide) :=
  ⟨_, run_passes h _, scalarDone_result h.issues _ _⟩

theorem vector1_result {s : State} {c : Ctx} {i : Instr} {w : BitVec 1} {d : BitVec 7} {a : BitVec 8} {mods : BitVec 20}
    {ok : List (BitVec 4)} {tag : BitVec 4} (read : Source → Nat → Word) (f : Ctx → Word → Word)
    (h : Passes s i (specA [opD d, opA a] mods (fun c => need c (opA a) ok) fun _ => tag) c) (hu : Unbounded s c) :
    ∃ t, vector1 i w d a mods ok tag read f s = .next t ∧
      VectorResult s t c c.acting (w == 1) ((opD d).reg c) [(tag, fun L => f c (read (source s c (opA a)) L))] :=
  ⟨_, run_passes h _, aluDone_results h.issues hu _ _ _ _ [(tag, _)] (reg_opD_lt d c)⟩

theorem vector2_result {s : State} {c : Ctx} {i : Instr} {w : BitVec 1} {d : BitVec 7} {a b : BitVec 8} {mods : BitVec 20}
    {okA okB : List (BitVec 4)} {tag : BitVec 4} (read : Source → Nat → Word) (f : Ctx → Word → Word → Word)
    (h : Passes s i (specA [opD d, opA a, opB b] mods (fun c => need c (opA a) okA ++ need c (opB b) okB) fun _ => tag) c)
    (hu : Unbounded s c) :
    ∃ t, vector2 i w d a b mods okA okB tag read f s = .next t ∧
      VectorResult s t c c.acting (w == 1) ((opD d).reg c)
        [(tag, fun L => f c (read (source s c (opA a)) L) (read (source s c (opB b)) L))] :=
  ⟨_, run_passes h _, aluDone_results h.issues hu _ _ _ _ [(tag, _)] (reg_opD_lt d c)⟩

theorem vector3_result {s : State} {c : Ctx} {i : Instr} {w : BitVec 1} {d : BitVec 7} {a b : BitVec 8} {mods : BitVec 20}
    {okD okA okB : List (BitVec 4)} {tag : BitVec 4} (read : Source → Nat → Word) (f : Ctx → Word → Word → Word → Word)
    (h : Passes s i (specA [opD d, opA a, opB b] mods
      (fun c => need c (opD d) okD ++ need c (opA a) okA ++ need c (opB b) okB) fun _ => tag) c)
    (hu : Unbounded s c) :
    ∃ t, vector3 i w d a b mods okD okA okB tag read f s = .next t ∧
      VectorResult s t c c.acting (w == 1) ((opD d).reg c)
        [(tag, fun L => f c (read (source s c (opA a)) L) (read (source s c (opB b)) L) (lane (regLanes s c ((opD d).reg c)) L))] :=
  ⟨_, run_passes h _, aluDone_results h.issues hu _ _ _ _ [(tag, _)] (reg_opD_lt d c)⟩

theorem vectorTyped_result {s : State} {c : Ctx} {i : Instr} {w : BitVec 1} {d : BitVec 7} {a b : BitVec 8} {readsD : Bool}
    (f : Word → Word → Word → Word)
    (h : Passes s i (specA [opD d, opA a, opB b] 0
      (fun c => (if readsD then need c (opD d) [intType c a b] else []) ++ need c (opA a) [intType c a b] ++
        need c (opB b) [intType c a b]) fun c => intType c a b) c)
    (hu : Unbounded s c) :
    ∃ t, vectorTyped i w d a b readsD f s = .next t ∧
      VectorResult s t c c.acting (w == 1) ((opD d).reg c)
        [(intType c a b, fun L => f ((source s c (opA a)).bits L) ((source s c (opB b)).bits L) (lane (regLanes s c ((opD d).reg c)) L))] :=
  ⟨_, run_passes h _, aluDone_results h.issues hu _ _ _ _ [(intType c a b, _)] (reg_opD_lt d c)⟩

/-- A compare's condition by lane. -/
theorem getLsbD_maskOf (f : Nat → Bool) {L : Nat} (h : L < 32) : (maskOf f).getLsbD L = f L := by
  have key : ∀ n ≤ 32, ∀ L, ((List.range n).foldl (fun (m : Word) k => if f k then m ||| (1#32 <<< k) else m) 0).getLsbD L =
      (decide (L < n) && f L) := by
    intro n
    induction n with
    | zero => intro _ L; simp
    | succ n ih =>
      intro hn L
      rw [List.range_succ, List.foldl_append, List.foldl_cons, List.foldl_nil]
      have e1 : (1#32 <<< n).getLsbD L = decide (L = n) := by
        rw [BitVec.getLsbD_shiftLeft]
        by_cases hL : L = n
        · subst hL; simp; omega
        · have : (1#32).getLsbD (L - n) = decide (L - n = 0) := by simp [BitVec.getLsbD_one]
          rw [this]
          by_cases h2 : L < n
          · simp [h2, hL]
          · simp [show L - n ≠ 0 by omega, hL]
      split
      · next hf =>
        rw [BitVec.getLsbD_or, ih (by omega) L, e1]
        by_cases hL : L = n
        · subst hL; simp [hf]
        · by_cases h2 : L < n
          · simp [h2, hL, show L < n + 1 by omega]
          · simp [h2, hL, show ¬ L < n + 1 by omega]
      · next hf =>
        rw [ih (by omega) L]
        by_cases hL : L = n
        · subst hL; simp at hf; simp [hf]
        · by_cases h2 : L < n
          · simp [h2, show L < n + 1 by omega]
          · simp [h2, show ¬ L < n + 1 by omega]
  have := key 32 (Nat.le_refl _) L
  simpa [maskOf, h] using this

/-- The end of a vector compare. -/
theorem compareDone_result {s : State} {c : Ctx} (hi : issueCtx s = some c) (p : BitVec 3) (m : BitVec 1) (cond : Nat → Bool) :
    CompareResult s (finish s c (compareDone s c p.toNat m (maskOf cond))) c p.toNat m cond 0 c.acting
      (fun L => if cond L then 0xFFFFFFFF else 0) := by
  have := compare_result hi p.toNat m (maskOf cond) 0 c.acting
    (lanesOf fun L => if (maskOf cond).getLsbD L then 0xFFFFFFFF else 0)
    (fun L => if cond L then 0xFFFFFFFF else 0) p.isLt (fun L hL _ => by
      rw [lane_lanesOf _ hL, getLsbD_maskOf _ hL])
  obtain ⟨w, h1, h2, h3, h4, h5⟩ := this
  exact ⟨w, h1, h2, h3, fun h0 L hL => (h4 h0 L hL).trans (by simp only [getLsbD_maskOf _ hL]), h5⟩

end Sys2Proof.Machine
end

