-- ==== Sys2Proof/Laws/Dispatch.lean ====
section
/-! SUPPORT. The meaning that each arm of the dispatch calls, so that no proof unfolds the dispatch. -/

namespace Sys2Proof.Machine

variable (s : State)

@[simp] theorem exec_nop : exec .nop s = execNop s := rfl
@[simp] theorem exec_br (o : BitVec 18) : exec (.br o) s = execBr o s := rfl
@[simp] theorem exec_brc (p : BitVec 3) (m : BitVec 3) (o : BitVec 18) : exec (.brc p m o) s = execBrc p m o s := rfl
@[simp] theorem exec_brd (p : BitVec 3) (o : BitVec 18) : exec (.brd p o) s = execBrd p o s := rfl
@[simp] theorem exec_brdNot (p : BitVec 3) (o : BitVec 18) : exec (.brdNot p o) s = execBrdNot p o s := rfl
@[simp] theorem exec_brx (a : BitVec 6) : exec (.brx a) s = execBrx a s := rfl
@[simp] theorem exec_call (o : BitVec 18) : exec (.call o) s = execCall o s := rfl
@[simp] theorem exec_callIndirect (a : BitVec 6) : exec (.callIndirect a) s = execCallIndirect a s := rfl
@[simp] theorem exec_rejoin (o : BitVec 18) : exec (.rejoin o) s = execRejoin o s := rfl
@[simp] theorem exec_regang : exec .regang s = execRegang s := rfl
@[simp] theorem exec_ret : exec .ret s = execRet s := rfl
@[simp] theorem exec_exit : exec .exit s = execExit s := rfl
@[simp] theorem exec_trap (n : BitVec 24) : exec (.trap n) s = execTrap n s := rfl
@[simp] theorem exec_bkpt : exec .bkpt s = execBkpt s := rfl
@[simp] theorem exec_yield : exec .yield s = execYield s := rfl
@[simp] theorem exec_tramp (n : BitVec 20) : exec (.tramp n) s = execTramp n s := rfl
@[simp] theorem exec_tool0 (n : BitVec 24) : exec (.tool0 n) s = execTool0 n s := rfl
@[simp] theorem exec_tool1 (n : BitVec 24) : exec (.tool1 n) s = execTool1 n s := rfl
@[simp] theorem exec_tool2 (n : BitVec 24) : exec (.tool2 n) s = execTool2 n s := rfl
@[simp] theorem exec_sadd (d : BitVec 6) (a : BitVec 8) (b : BitVec 8) : exec (.sadd d a b) s = execSadd d a b s := rfl
@[simp] theorem exec_ssub (d : BitVec 6) (a : BitVec 8) (b : BitVec 8) : exec (.ssub d a b) s = execSsub d a b s := rfl
@[simp] theorem exec_smul (d : BitVec 6) (a : BitVec 8) (b : BitVec 8) : exec (.smul d a b) s = execSmul d a b s := rfl
@[simp] theorem exec_sand (d : BitVec 6) (a : BitVec 8) (b : BitVec 8) : exec (.sand d a b) s = execSand d a b s := rfl
@[simp] theorem exec_sor (d : BitVec 6) (a : BitVec 8) (b : BitVec 8) : exec (.sor d a b) s = execSor d a b s := rfl
@[simp] theorem exec_sxor (d : BitVec 6) (a : BitVec 8) (b : BitVec 8) : exec (.sxor d a b) s = execSxor d a b s := rfl
@[simp] theorem exec_sshl (d : BitVec 6) (a : BitVec 8) (b : BitVec 8) : exec (.sshl d a b) s = execSshl d a b s := rfl
@[simp] theorem exec_sshr (d : BitVec 6) (a : BitVec 8) (b : BitVec 8) : exec (.sshr d a b) s = execSshr d a b s := rfl
@[simp] theorem exec_ssar (d : BitVec 6) (a : BitVec 8) (b : BitVec 8) : exec (.ssar d a b) s = execSsar d a b s := rfl
@[simp] theorem exec_smov (d : BitVec 6) (a : BitVec 8) : exec (.smov d a) s = execSmov d a s := rfl
@[simp] theorem exec_smovi (d : BitVec 6) (im : BitVec 16) : exec (.smovi d im) s = execSmovi d im s := rfl
@[simp] theorem exec_scmp (c : BitVec 4) (p : BitVec 3) (m : BitVec 1) (a : BitVec 8) (b : BitVec 8) : exec (.scmp c p m a b) s = execScmp c p m a b s := rfl
@[simp] theorem exec_sldN8 (d : BitVec 6) (a : BitVec 6) (st : BitVec 4) (c : BitVec 3) (o : BitVec 2) : exec (.sldN8 d a st c o) s = execSldN8 d a st c o s := rfl
@[simp] theorem exec_sldI8 (d : BitVec 6) (a : BitVec 6) (st : BitVec 4) (c : BitVec 3) (o : BitVec 2) : exec (.sldI8 d a st c o) s = execSldI8 d a st c o s := rfl
@[simp] theorem exec_sldN16 (d : BitVec 6) (a : BitVec 6) (st : BitVec 4) (c : BitVec 3) (o : BitVec 2) : exec (.sldN16 d a st c o) s = execSldN16 d a st c o s := rfl
@[simp] theorem exec_sldI16 (d : BitVec 6) (a : BitVec 6) (st : BitVec 4) (c : BitVec 3) (o : BitVec 2) : exec (.sldI16 d a st c o) s = execSldI16 d a st c o s := rfl
@[simp] theorem exec_sldN32 (d : BitVec 6) (a : BitVec 6) (st : BitVec 4) (c : BitVec 3) (o : BitVec 2) : exec (.sldN32 d a st c o) s = execSldN32 d a st c o s := rfl
@[simp] theorem exec_sldI32 (d : BitVec 6) (a : BitVec 6) (st : BitVec 4) (c : BitVec 3) (o : BitVec 2) : exec (.sldI32 d a st c o) s = execSldI32 d a st c o s := rfl
@[simp] theorem exec_sldN64 (d : BitVec 6) (a : BitVec 6) (st : BitVec 4) (c : BitVec 3) (o : BitVec 2) : exec (.sldN64 d a st c o) s = execSldN64 d a st c o s := rfl
@[simp] theorem exec_sstN8 (d : BitVec 6) (a : BitVec 6) (st : BitVec 4) (c : BitVec 3) (o : BitVec 2) : exec (.sstN8 d a st c o) s = execSstN8 d a st c o s := rfl
@[simp] theorem exec_sstN16 (d : BitVec 6) (a : BitVec 6) (st : BitVec 4) (c : BitVec 3) (o : BitVec 2) : exec (.sstN16 d a st c o) s = execSstN16 d a st c o s := rfl
@[simp] theorem exec_sstN32 (d : BitVec 6) (a : BitVec 6) (st : BitVec 4) (c : BitVec 3) (o : BitVec 2) : exec (.sstN32 d a st c o) s = execSstN32 d a st c o s := rfl
@[simp] theorem exec_sstN64 (d : BitVec 6) (a : BitVec 6) (st : BitVec 4) (c : BitVec 3) (o : BitVec 2) : exec (.sstN64 d a st c o) s = execSstN64 d a st c o s := rfl
@[simp] theorem exec_and (w : BitVec 1) (d : BitVec 7) (a : BitVec 8) (b : BitVec 8) : exec (.and w d a b) s = execAnd w d a b s := rfl
@[simp] theorem exec_or (w : BitVec 1) (d : BitVec 7) (a : BitVec 8) (b : BitVec 8) : exec (.or w d a b) s = execOr w d a b s := rfl
@[simp] theorem exec_xor (w : BitVec 1) (d : BitVec 7) (a : BitVec 8) (b : BitVec 8) : exec (.xor w d a b) s = execXor w d a b s := rfl
@[simp] theorem exec_not (w : BitVec 1) (d : BitVec 7) (a : BitVec 8) : exec (.not w d a) s = execNot w d a s := rfl
@[simp] theorem exec_shl (w : BitVec 1) (d : BitVec 7) (a : BitVec 8) (b : BitVec 8) : exec (.shl w d a b) s = execShl w d a b s := rfl
@[simp] theorem exec_shr (w : BitVec 1) (d : BitVec 7) (a : BitVec 8) (b : BitVec 8) : exec (.shr w d a b) s = execShr w d a b s := rfl
@[simp] theorem exec_sar (w : BitVec 1) (d : BitVec 7) (a : BitVec 8) (b : BitVec 8) : exec (.sar w d a b) s = execSar w d a b s := rfl
@[simp] theorem exec_bfeN32 (w : BitVec 1) (d : BitVec 7) (a : BitVec 8) (b : BitVec 8) : exec (.bfeN32 w d a b) s = execBfeN32 w d a b s := rfl
@[simp] theorem exec_bfeI32 (w : BitVec 1) (d : BitVec 7) (a : BitVec 8) (b : BitVec 8) : exec (.bfeI32 w d a b) s = execBfeI32 w d a b s := rfl
@[simp] theorem exec_bfi (w : BitVec 1) (d : BitVec 7) (a : BitVec 8) (b : BitVec 8) : exec (.bfi w d a b) s = execBfi w d a b s := rfl
@[simp] theorem exec_clz (w : BitVec 1) (d : BitVec 7) (a : BitVec 8) : exec (.clz w d a) s = execClz w d a s := rfl
@[simp] theorem exec_popc (w : BitVec 1) (d : BitVec 7) (a : BitVec 8) : exec (.popc w d a) s = execPopc w d a s := rfl
@[simp] theorem exec_iadd (w : BitVec 1) (d : BitVec 7) (a : BitVec 8) (b : BitVec 8) : exec (.iadd w d a b) s = execIadd w d a b s := rfl
@[simp] theorem exec_isub (w : BitVec 1) (d : BitVec 7) (a : BitVec 8) (b : BitVec 8) : exec (.isub w d a b) s = execIsub w d a b s := rfl
@[simp] theorem exec_iaddsI32 (w : BitVec 1) (d : BitVec 7) (a : BitVec 8) (b : BitVec 8) : exec (.iaddsI32 w d a b) s = execIaddsI32 w d a b s := rfl
@[simp] theorem exec_iaddsN32 (w : BitVec 1) (d : BitVec 7) (a : BitVec 8) (b : BitVec 8) : exec (.iaddsN32 w d a b) s = execIaddsN32 w d a b s := rfl
@[simp] theorem exec_isubsI32 (w : BitVec 1) (d : BitVec 7) (a : BitVec 8) (b : BitVec 8) : exec (.isubsI32 w d a b) s = execIsubsI32 w d a b s := rfl
@[simp] theorem exec_isubsN32 (w : BitVec 1) (d : BitVec 7) (a : BitVec 8) (b : BitVec 8) : exec (.isubsN32 w d a b) s = execIsubsN32 w d a b s := rfl
@[simp] theorem exec_imul (w : BitVec 1) (d : BitVec 7) (a : BitVec 8) (b : BitVec 8) : exec (.imul w d a b) s = execImul w d a b s := rfl
@[simp] theorem exec_imulhI32 (w : BitVec 1) (d : BitVec 7) (a : BitVec 8) (b : BitVec 8) : exec (.imulhI32 w d a b) s = execImulhI32 w d a b s := rfl
@[simp] theorem exec_imulhN32 (w : BitVec 1) (d : BitVec 7) (a : BitVec 8) (b : BitVec 8) : exec (.imulhN32 w d a b) s = execImulhN32 w d a b s := rfl
@[simp] theorem exec_imad (w : BitVec 1) (d : BitVec 7) (a : BitVec 8) (b : BitVec 8) : exec (.imad w d a b) s = execImad w d a b s := rfl
@[simp] theorem exec_iminI32 (w : BitVec 1) (d : BitVec 7) (a : BitVec 8) (b : BitVec 8) : exec (.iminI32 w d a b) s = execIminI32 w d a b s := rfl
@[simp] theorem exec_iminN32 (w : BitVec 1) (d : BitVec 7) (a : BitVec 8) (b : BitVec 8) : exec (.iminN32 w d a b) s = execIminN32 w d a b s := rfl
@[simp] theorem exec_imaxI32 (w : BitVec 1) (d : BitVec 7) (a : BitVec 8) (b : BitVec 8) : exec (.imaxI32 w d a b) s = execImaxI32 w d a b s := rfl
@[simp] theorem exec_imaxN32 (w : BitVec 1) (d : BitVec 7) (a : BitVec 8) (b : BitVec 8) : exec (.imaxN32 w d a b) s = execImaxN32 w d a b s := rfl
@[simp] theorem exec_iabs (w : BitVec 1) (d : BitVec 7) (a : BitVec 8) : exec (.iabs w d a) s = execIabs w d a s := rfl
@[simp] theorem exec_icmpI32 (c : BitVec 4) (p : BitVec 3) (m : BitVec 1) (a : BitVec 8) (b : BitVec 8) : exec (.icmpI32 c p m a b) s = execIcmpI32 c p m a b s := rfl
@[simp] theorem exec_icmpN32 (c : BitVec 4) (p : BitVec 3) (m : BitVec 1) (a : BitVec 8) (b : BitVec 8) : exec (.icmpN32 c p m a b) s = execIcmpN32 c p m a b s := rfl
@[simp] theorem exec_lea (w : BitVec 1) (d : BitVec 7) (a : BitVec 8) (b : BitVec 8) : exec (.lea w d a b) s = execLea w d a b s := rfl
@[simp] theorem exec_mov (w : BitVec 1) (d : BitVec 7) (a : BitVec 8) (r : BitVec 1) (t : BitVec 4) : exec (.mov w d a r t) s = execMov w d a r t s := rfl
@[simp] theorem exec_movi (w : BitVec 1) (d : BitVec 7) (im : BitVec 16) : exec (.movi w d im) s = execMovi w d im s := rfl
@[simp] theorem exec_sel (w : BitVec 1) (d : BitVec 7) (a : BitVec 8) (b : BitVec 8) : exec (.sel w d a b) s = execSel w d a b s := rfl
@[simp] theorem exec_shfl (w : BitVec 1) (d : BitVec 7) (a : BitVec 8) (b : BitVec 8) : exec (.shfl w d a b) s = execShfl w d a b s := rfl
@[simp] theorem exec_vote (d : BitVec 6) (p : BitVec 3) (b : BitVec 8) : exec (.vote d p b) s = execVote d p b s := rfl
@[simp] theorem exec_redl (w : BitVec 1) (d : BitVec 6) (a : BitVec 8) (b : BitVec 8) : exec (.redl w d a b) s = execRedl w d a b s := rfl
@[simp] theorem exec_srdl (d : BitVec 6) (a : BitVec 8) (b : BitVec 8) : exec (.srdl d a b) s = execSrdl d a b s := rfl
@[simp] theorem exec_fadd (w : BitVec 1) (d : BitVec 7) (a : BitVec 8) (b : BitVec 8) : exec (.fadd w d a b) s = execFadd w d a b s := rfl
@[simp] theorem exec_fsub (w : BitVec 1) (d : BitVec 7) (a : BitVec 8) (b : BitVec 8) : exec (.fsub w d a b) s = execFsub w d a b s := rfl
@[simp] theorem exec_fmul (w : BitVec 1) (d : BitVec 7) (a : BitVec 8) (b : BitVec 8) : exec (.fmul w d a b) s = execFmul w d a b s := rfl
@[simp] theorem exec_ffma (w : BitVec 1) (d : BitVec 7) (a : BitVec 8) (b : BitVec 8) : exec (.ffma w d a b) s = execFfma w d a b s := rfl
@[simp] theorem exec_fmin (w : BitVec 1) (d : BitVec 7) (a : BitVec 8) (b : BitVec 8) : exec (.fmin w d a b) s = execFmin w d a b s := rfl
@[simp] theorem exec_fmax (w : BitVec 1) (d : BitVec 7) (a : BitVec 8) (b : BitVec 8) : exec (.fmax w d a b) s = execFmax w d a b s := rfl
@[simp] theorem exec_fabs (w : BitVec 1) (d : BitVec 7) (a : BitVec 8) : exec (.fabs w d a) s = execFabs w d a s := rfl
@[simp] theorem exec_fneg (w : BitVec 1) (d : BitVec 7) (a : BitVec 8) : exec (.fneg w d a) s = execFneg w d a s := rfl
@[simp] theorem exec_fclamp (w : BitVec 1) (d : BitVec 7) (a : BitVec 8) (b : BitVec 8) : exec (.fclamp w d a b) s = execFclamp w d a b s := rfl
@[simp] theorem exec_fcmp (c : BitVec 4) (p : BitVec 3) (m : BitVec 1) (a : BitVec 8) (b : BitVec 8) : exec (.fcmp c p m a b) s = execFcmp c p m a b s := rfl
@[simp] theorem exec_fexp2 (w : BitVec 1) (d : BitVec 7) (a : BitVec 8) : exec (.fexp2 w d a) s = execFexp2 w d a s := rfl
@[simp] theorem exec_flog2 (w : BitVec 1) (d : BitVec 7) (a : BitVec 8) : exec (.flog2 w d a) s = execFlog2 w d a s := rfl
@[simp] theorem exec_frcp (w : BitVec 1) (d : BitVec 7) (a : BitVec 8) : exec (.frcp w d a) s = execFrcp w d a s := rfl
@[simp] theorem exec_frsq (w : BitVec 1) (d : BitVec 7) (a : BitVec 8) : exec (.frsq w d a) s = execFrsq w d a s := rfl
@[simp] theorem exec_fsqrt (w : BitVec 1) (d : BitVec 7) (a : BitVec 8) : exec (.fsqrt w d a) s = execFsqrt w d a s := rfl
@[simp] theorem exec_ftanh (w : BitVec 1) (d : BitVec 7) (a : BitVec 8) : exec (.ftanh w d a) s = execFtanh w d a s := rfl
@[simp] theorem exec_hadd2F16 (w : BitVec 1) (d : BitVec 7) (a : BitVec 8) (b : BitVec 8) : exec (.hadd2F16 w d a b) s = execHadd2F16 w d a b s := rfl
@[simp] theorem exec_hadd2Bf16 (w : BitVec 1) (d : BitVec 7) (a : BitVec 8) (b : BitVec 8) : exec (.hadd2Bf16 w d a b) s = execHadd2Bf16 w d a b s := rfl
@[simp] theorem exec_hmul2F16 (w : BitVec 1) (d : BitVec 7) (a : BitVec 8) (b : BitVec 8) : exec (.hmul2F16 w d a b) s = execHmul2F16 w d a b s := rfl
@[simp] theorem exec_hmul2Bf16 (w : BitVec 1) (d : BitVec 7) (a : BitVec 8) (b : BitVec 8) : exec (.hmul2Bf16 w d a b) s = execHmul2Bf16 w d a b s := rfl
@[simp] theorem exec_hfma2F16 (w : BitVec 1) (d : BitVec 7) (a : BitVec 8) (b : BitVec 8) : exec (.hfma2F16 w d a b) s = execHfma2F16 w d a b s := rfl
@[simp] theorem exec_hfma2Bf16 (w : BitVec 1) (d : BitVec 7) (a : BitVec 8) (b : BitVec 8) : exec (.hfma2Bf16 w d a b) s = execHfma2Bf16 w d a b s := rfl
@[simp] theorem exec_cvt (w : BitVec 1) (d : BitVec 7) (a : BitVec 8) (r : BitVec 4) (st : BitVec 4) : exec (.cvt w d a r st) s = execCvt w d a r st s := rfl
@[simp] theorem exec_qcvt (w : BitVec 1) (d : BitVec 7) (a : BitVec 8) (r : BitVec 4) (st : BitVec 4) : exec (.qcvt w d a r st) s = execQcvt w d a r st s := rfl
@[simp] theorem exec_qunp (w : BitVec 1) (d : BitVec 7) (a : BitVec 8) (r : BitVec 4) (st : BitVec 4) : exec (.qunp w d a r st) s = execQunp w d a r st s := rfl
@[simp] theorem exec_ldB32 (d : BitVec 7) (a : BitVec 7) (m : BitVec 1) (st : BitVec 4) (c : BitVec 3) (o : BitVec 2) : exec (.ldB32 d a m st c o) s = execLdB32 d a m st c o s := rfl
@[simp] theorem exec_ldF32 (d : BitVec 7) (a : BitVec 7) (m : BitVec 1) (st : BitVec 4) (c : BitVec 3) (o : BitVec 2) : exec (.ldF32 d a m st c o) s = execLdF32 d a m st c o s := rfl
@[simp] theorem exec_ldI32 (d : BitVec 7) (a : BitVec 7) (m : BitVec 1) (st : BitVec 4) (c : BitVec 3) (o : BitVec 2) : exec (.ldI32 d a m st c o) s = execLdI32 d a m st c o s := rfl
@[simp] theorem exec_ldN32 (d : BitVec 7) (a : BitVec 7) (m : BitVec 1) (st : BitVec 4) (c : BitVec 3) (o : BitVec 2) : exec (.ldN32 d a m st c o) s = execLdN32 d a m st c o s := rfl
@[simp] theorem exec_ldF16 (d : BitVec 7) (a : BitVec 7) (m : BitVec 1) (st : BitVec 4) (c : BitVec 3) (o : BitVec 2) : exec (.ldF16 d a m st c o) s = execLdF16 d a m st c o s := rfl
@[simp] theorem exec_ldBf16 (d : BitVec 7) (a : BitVec 7) (m : BitVec 1) (st : BitVec 4) (c : BitVec 3) (o : BitVec 2) : exec (.ldBf16 d a m st c o) s = execLdBf16 d a m st c o s := rfl
@[simp] theorem exec_ldE4m3 (d : BitVec 7) (a : BitVec 7) (m : BitVec 1) (st : BitVec 4) (c : BitVec 3) (o : BitVec 2) : exec (.ldE4m3 d a m st c o) s = execLdE4m3 d a m st c o s := rfl
@[simp] theorem exec_ldI64 (d : BitVec 7) (a : BitVec 7) (m : BitVec 1) (st : BitVec 4) (c : BitVec 3) (o : BitVec 2) : exec (.ldI64 d a m st c o) s = execLdI64 d a m st c o s := rfl
@[simp] theorem exec_loadReturn (load : Nat) (lanes : Vector Dword 32) (poison : Bool) : exec (.loadReturn load lanes poison) s = execLoadReturn load lanes poison s := rfl
@[simp] theorem exec_stB32 (d : BitVec 7) (a : BitVec 7) (m : BitVec 1) (st : BitVec 4) (c : BitVec 3) (o : BitVec 2) : exec (.stB32 d a m st c o) s = execStB32 d a m st c o s := rfl
@[simp] theorem exec_stI64 (d : BitVec 7) (a : BitVec 7) (m : BitVec 1) (st : BitVec 4) (c : BitVec 3) (o : BitVec 2) : exec (.stI64 d a m st c o) s = execStI64 d a m st c o s := rfl
@[simp] theorem exec_fence (u : BitVec 1) (c : BitVec 3) (k : BitVec 16) : exec (.fence u c k) s = execFence u c k s := rfl
@[simp] theorem exec_wldN32 (d : BitVec 7) (a : BitVec 7) (m : BitVec 1) (st : BitVec 4) (o : BitVec 2) : exec (.wldN32 d a m st o) s = execWldN32 d a m st o s := rfl
@[simp] theorem exec_wldN64 (d : BitVec 7) (a : BitVec 7) (m : BitVec 1) (st : BitVec 4) (o : BitVec 2) : exec (.wldN64 d a m st o) s = execWldN64 d a m st o s := rfl
@[simp] theorem exec_pref (a : BitVec 7) (m : BitVec 1) (st : BitVec 4) (c : BitVec 3) : exec (.pref a m st c) s = execPref a m st c s := rfl
@[simp] theorem exec_atomAdd (d : BitVec 7) (a : BitVec 7) (m : BitVec 1) (st : BitVec 4) (c : BitVec 3) (o : BitVec 2) : exec (.atomAdd d a m st c o) s = execAtomAdd d a m st c o s := rfl
@[simp] theorem exec_atomSmin (d : BitVec 7) (a : BitVec 7) (m : BitVec 1) (st : BitVec 4) (c : BitVec 3) (o : BitVec 2) : exec (.atomSmin d a m st c o) s = execAtomSmin d a m st c o s := rfl
@[simp] theorem exec_atomSmax (d : BitVec 7) (a : BitVec 7) (m : BitVec 1) (st : BitVec 4) (c : BitVec 3) (o : BitVec 2) : exec (.atomSmax d a m st c o) s = execAtomSmax d a m st c o s := rfl
@[simp] theorem exec_atomUmin (d : BitVec 7) (a : BitVec 7) (m : BitVec 1) (st : BitVec 4) (c : BitVec 3) (o : BitVec 2) : exec (.atomUmin d a m st c o) s = execAtomUmin d a m st c o s := rfl
@[simp] theorem exec_atomUmax (d : BitVec 7) (a : BitVec 7) (m : BitVec 1) (st : BitVec 4) (c : BitVec 3) (o : BitVec 2) : exec (.atomUmax d a m st c o) s = execAtomUmax d a m st c o s := rfl
@[simp] theorem exec_atomAnd (d : BitVec 7) (a : BitVec 7) (m : BitVec 1) (st : BitVec 4) (c : BitVec 3) (o : BitVec 2) : exec (.atomAnd d a m st c o) s = execAtomAnd d a m st c o s := rfl
@[simp] theorem exec_atomOr (d : BitVec 7) (a : BitVec 7) (m : BitVec 1) (st : BitVec 4) (c : BitVec 3) (o : BitVec 2) : exec (.atomOr d a m st c o) s = execAtomOr d a m st c o s := rfl
@[simp] theorem exec_atomXor (d : BitVec 7) (a : BitVec 7) (m : BitVec 1) (st : BitVec 4) (c : BitVec 3) (o : BitVec 2) : exec (.atomXor d a m st c o) s = execAtomXor d a m st c o s := rfl
@[simp] theorem exec_atomExch (d : BitVec 7) (a : BitVec 7) (m : BitVec 1) (st : BitVec 4) (c : BitVec 3) (o : BitVec 2) : exec (.atomExch d a m st c o) s = execAtomExch d a m st c o s := rfl
@[simp] theorem exec_atomCas (d : BitVec 7) (a : BitVec 7) (m : BitVec 1) (st : BitVec 4) (c : BitVec 3) (o : BitVec 2) : exec (.atomCas d a m st c o) s = execAtomCas d a m st c o s := rfl
@[simp] theorem exec_redAdd (d : BitVec 7) (a : BitVec 7) (m : BitVec 1) (st : BitVec 4) (c : BitVec 3) (o : BitVec 2) : exec (.redAdd d a m st c o) s = execRedAdd d a m st c o s := rfl
@[simp] theorem exec_redSmin (d : BitVec 7) (a : BitVec 7) (m : BitVec 1) (st : BitVec 4) (c : BitVec 3) (o : BitVec 2) : exec (.redSmin d a m st c o) s = execRedSmin d a m st c o s := rfl
@[simp] theorem exec_redSmax (d : BitVec 7) (a : BitVec 7) (m : BitVec 1) (st : BitVec 4) (c : BitVec 3) (o : BitVec 2) : exec (.redSmax d a m st c o) s = execRedSmax d a m st c o s := rfl
@[simp] theorem exec_redUmin (d : BitVec 7) (a : BitVec 7) (m : BitVec 1) (st : BitVec 4) (c : BitVec 3) (o : BitVec 2) : exec (.redUmin d a m st c o) s = execRedUmin d a m st c o s := rfl
@[simp] theorem exec_redUmax (d : BitVec 7) (a : BitVec 7) (m : BitVec 1) (st : BitVec 4) (c : BitVec 3) (o : BitVec 2) : exec (.redUmax d a m st c o) s = execRedUmax d a m st c o s := rfl
@[simp] theorem exec_redAnd (d : BitVec 7) (a : BitVec 7) (m : BitVec 1) (st : BitVec 4) (c : BitVec 3) (o : BitVec 2) : exec (.redAnd d a m st c o) s = execRedAnd d a m st c o s := rfl
@[simp] theorem exec_redOr (d : BitVec 7) (a : BitVec 7) (m : BitVec 1) (st : BitVec 4) (c : BitVec 3) (o : BitVec 2) : exec (.redOr d a m st c o) s = execRedOr d a m st c o s := rfl
@[simp] theorem exec_redXor (d : BitVec 7) (a : BitVec 7) (m : BitVec 1) (st : BitVec 4) (c : BitVec 3) (o : BitVec 2) : exec (.redXor d a m st c o) s = execRedXor d a m st c o s := rfl
@[simp] theorem exec_mma (t : BitVec 4) (f : BitVec 4) (g : BitVec 4) (a : BitVec 6) (b : BitVec 6) : exec (.mma t f g a b) s = execMma t f g a b s := rfl
@[simp] theorem exec_mmas (t : BitVec 4) (f : BitVec 4) (g : BitVec 4) (a : BitVec 6) (b : BitVec 6) : exec (.mmas t f g a b) s = execMmas t f g a b s := rfl
@[simp] theorem exec_mmag (t : BitVec 4) (g : BitVec 4) (a : BitVec 6) (b : BitVec 6) : exec (.mmag t g a b) s = execMmag t g a b s := rfl
@[simp] theorem exec_mmaG (t : BitVec 4) (f : BitVec 4) (g : BitVec 4) (a : BitVec 6) (b : BitVec 6) : exec (.mmaG t f g a b) s = execMmaG t f g a b s := rfl
@[simp] theorem exec_mmasG (t : BitVec 4) (f : BitVec 4) (g : BitVec 4) (a : BitVec 6) (b : BitVec 6) : exec (.mmasG t f g a b) s = execMmasG t f g a b s := rfl
@[simp] theorem exec_mmagG (t : BitVec 4) (g : BitVec 4) (a : BitVec 6) (b : BitVec 6) : exec (.mmagG t g a b) s = execMmagG t g a b s := rfl
@[simp] theorem exec_tld (t : BitVec 4) (f : BitVec 4) (st : BitVec 4) (a : BitVec 6) (b : BitVec 6) : exec (.tld t f st a b) s = execTld t f st a b s := rfl
@[simp] theorem exec_tst (t : BitVec 4) (f : BitVec 4) (st : BitVec 4) (a : BitVec 6) (b : BitVec 6) : exec (.tst t f st a b) s = execTst t f st a b s := rfl
@[simp] theorem exec_tzero (t : BitVec 4) (f : BitVec 4) : exec (.tzero t f) s = execTzero t f s := rfl
@[simp] theorem exec_opfence : exec .opfence s = execOpfence s := rfl
@[simp] theorem exec_mwait (n : BitVec 4) : exec (.mwait n) s = execMwait n s := rfl
@[simp] theorem exec_cpy (a : BitVec 6) (c : BitVec 3) (st : BitVec 4) (d : BitVec 6) : exec (.cpy a c st d) s = execCpy a c st d s := rfl
@[simp] theorem exec_cpym (a : BitVec 6) (c : BitVec 3) (st : BitVec 4) (d : BitVec 6) : exec (.cpym a c st d) s = execCpym a c st d s := rfl
@[simp] theorem exec_coll (a : BitVec 6) (st : BitVec 4) (g : BitVec 4) : exec (.coll a st g) s = execColl a st g s := rfl
@[simp] theorem exec_msfence (k : BitVec 16) : exec (.msfence k) s = execMsfence k s := rfl
@[simp] theorem exec_mswait (m : BitVec 6) (k : BitVec 16) : exec (.mswait m k) s = execMswait m k s := rfl
@[simp] theorem exec_rway (a : BitVec 6) (c : BitVec 2) (k : BitVec 4) : exec (.rway a c k) s = execRway a c k s := rfl
@[simp] theorem exec_vopen (a : BitVec 6) (d : BitVec 6) : exec (.vopen a d) s = execVopen a d s := rfl
@[simp] theorem exec_vsend (a : BitVec 6) (h : BitVec 6) (st : BitVec 6) : exec (.vsend a h st) s = execVsend a h st s := rfl
@[simp] theorem exec_jpost (a : BitVec 6) (p : BitVec 3) (d : BitVec 6) : exec (.jpost a p d) s = execJpost a p d s := rfl
@[simp] theorem exec_vdrop (h : BitVec 6) (d : BitVec 6) : exec (.vdrop h d) s = execVdrop h d s := rfl
@[simp] theorem exec_gjoin (g : BitVec 4) : exec (.gjoin g) s = execGjoin g s := rfl
@[simp] theorem exec_gleave (g : BitVec 4) : exec (.gleave g) s = execGleave g s := rfl
@[simp] theorem exec_garrive (g : BitVec 1) (v : BitVec 1) (b : BitVec 6) (n : BitVec 4) (st : BitVec 4) (d : BitVec 6) : exec (.garrive g v b n st d) s = execGarrive g v b n st d s := rfl
@[simp] theorem exec_gridarr (n : BitVec 5) (e : BitVec 6) (d : BitVec 6) : exec (.gridarr n e d) s = execGridarr n e d s := rfl
@[simp] theorem exec_racq (d : BitVec 3) : exec (.racq d) s = execRacq d s := rfl
@[simp] theorem exec_rrel : exec .rrel s = execRrel s := rfl
@[simp] theorem exec_qpush (d : BitVec 3) (q : BitVec 6) (v : BitVec 6) : exec (.qpush d q v) s = execQpush d q v s := rfl
@[simp] theorem exec_qpop (d : BitVec 3) (q : BitVec 6) (v : BitVec 6) : exec (.qpop d q v) s = execQpop d q v s := rfl
@[simp] theorem exec_tbegin (o : BitVec 16) : exec (.tbegin o) s = execTbegin o s := rfl
@[simp] theorem exec_tcommit : exec .tcommit s = execTcommit s := rfl
@[simp] theorem exec_tabort (c : BitVec 8) : exec (.tabort c) s = execTabort c s := rfl
@[simp] theorem exec_tretry : exec .tretry s = execTretry s := rfl
@[simp] theorem exec_telse (o : BitVec 16) : exec (.telse o) s = execTelse o s := rfl
@[simp] theorem exec_tstat (d : BitVec 6) : exec (.tstat d) s = execTstat d s := rfl
@[simp] theorem exec_sread (r : BitVec 8) (d : BitVec 6) : exec (.sread r d) s = execSread r d s := rfl
@[simp] theorem exec_swrite (r : BitVec 8) (a : BitVec 6) : exec (.swrite r a) s = execSwrite r a s := rfl
@[simp] theorem exec_cflush (a : BitVec 7) (m : BitVec 1) (st : BitVec 4) (c : BitVec 3) : exec (.cflush a m st c) s = execCflush a m st c s := rfl
@[simp] theorem exec_pathrd (st : BitVec 8) (im : BitVec 8) (d : BitVec 6) : exec (.pathrd st im d) s = execPathrd st im d s := rfl
@[simp] theorem exec_pathwr (st : BitVec 8) (im : BitVec 8) (a : BitVec 6) : exec (.pathwr st im a) s = execPathwr st im a s := rfl
@[simp] theorem exec_eret : exec .eret s = execEret s := rfl
@[simp] theorem exec_ext (k : BitVec 4) (p : BitVec 20) : exec (.ext k p) s = execExt k p s := rfl
@[simp] theorem exec_asyncTrapEntry (wave : Nat) : exec (.asyncTrapEntry wave) s = execAsyncTrapEntry wave s := rfl
@[simp] theorem exec_siblingHalt (wave skid : Nat) : exec (.siblingHalt wave skid) s = execSiblingHalt wave skid s := rfl
@[simp] theorem exec_asyncReport : exec .asyncReport s = execAsyncReport s := rfl
@[simp] theorem exec_convoyRetire : exec .convoyRetire s = execConvoyRetire s := rfl
@[simp] theorem exec_matrixStart (core : Nat) : exec (.matrixStart core) s = execMatrixStart core s := rfl
@[simp] theorem exec_matrixComplete (core : Nat) : exec (.matrixComplete core) s = execMatrixComplete core s := rfl
@[simp] theorem exec_tldComplete (wave tile : Nat) (data : List Word) : exec (.tldComplete wave tile data) s = execTldComplete wave tile data s := rfl
@[simp] theorem exec_copyCommandStart (core : Nat) (data : List Byte) : exec (.copyCommandStart core data) s = execCopyCommandStart core data s := rfl
@[simp] theorem exec_copyCompletion (core code : Nat) : exec (.copyCompletion core code) s = execCopyCompletion core code s := rfl
@[simp] theorem exec_wake (wave : Nat) : exec (.wake wave) s = execWake wave s := rfl
@[simp] theorem exec_timedWake : exec .timedWake s = execTimedWake s := rfl
@[simp] theorem exec_scratchAccessArrival (access : Nat) : exec (.scratchAccessArrival access) s = execScratchAccessArrival access s := rfl
@[simp] theorem exec_remoteStoreAck : exec .remoteStoreAck s = execRemoteStoreAck s := rfl
@[simp] theorem exec_secondLevelTlbMiss (stack context : Nat) (va : Dword) (kind : Nat) (waiter : Option Nat) : exec (.secondLevelTlbMiss stack context va kind waiter) s = execSecondLevelTlbMiss stack context va kind waiter s := rfl
@[simp] theorem exec_remoteLoadBlocking : exec .remoteLoadBlocking s = execRemoteLoadBlocking s := rfl
@[simp] theorem exec_rds (line : Nat) (req : Requester) : exec (.rds line req) s = execRds line req s := rfl
@[simp] theorem exec_rdx (line : Nat) (req : Requester) : exec (.rdx line req) s = execRdx line req s := rfl
@[simp] theorem exec_upg (line : Nat) (req : Requester) : exec (.upg line req) s = execUpg line req s := rfl
@[simp] theorem exec_fwds (line stack : Nat) : exec (.fwds line stack) s = execFwds line stack s := rfl
@[simp] theorem exec_fwdx (line stack : Nat) : exec (.fwdx line stack) s = execFwdx line stack s := rfl
@[simp] theorem exec_inv (line stack : Nat) : exec (.inv line stack) s = execInv line stack s := rfl
@[simp] theorem exec_binv (line stack : Nat) : exec (.binv line stack) s = execBinv line stack s := rfl
@[simp] theorem exec_data (line : Nat) (req : Requester) (lease : Option (Bool × Nat × List Byte)) : exec (.data line req lease) s = execData line req lease s := rfl
@[simp] theorem exec_wb (line stack : Nat) : exec (.wb line stack) s = execWb line stack s := rfl
@[simp] theorem exec_ack (line stack : Nat) : exec (.ack line stack) s = execAck line stack s := rfl
@[simp] theorem exec_cmp (line : Nat) (req : Requester) : exec (.cmp line req) s = execCmp line req s := rfl
@[simp] theorem exec_leaseRenewal (incoming : Option (Nat × List Nat)) : exec (.leaseRenewal incoming) s = execLeaseRenewal s incoming := rfl
@[simp] theorem exec_leaseHolderExpiry : exec .leaseHolderExpiry s = execLeaseHolderExpiry s := rfl
@[simp] theorem exec_leaseHomeExpiry : exec .leaseHomeExpiry s = execLeaseHomeExpiry s := rfl
@[simp] theorem exec_leaseRecall (stack line : Nat) : exec (.leaseRecall stack line) s = execRecall stack line s := rfl
@[simp] theorem exec_leaseRelease (line package : Nat) (dirty : List (Nat × Byte)) (poison : Bool) :
    exec (.leaseRelease line package dirty poison) s = execLeaseRelease line package dirty s poison := rfl
@[simp] theorem exec_regionWriteback (region source : Nat) (milestone : Dword) (dirty : List (Nat × Byte)) (last : Bool) : exec (.regionWriteback region source milestone dirty last) s = execRegionWriteback region source milestone dirty last s := rfl
@[simp] theorem exec_flitRoute (flit : Flit) (inPort : Nat) (free : BitVec 24) (others : List (Flit × Nat)) :
    exec (.flitRoute flit inPort free others) s = execFlitRoute flit inPort free s others := rfl
@[simp] theorem exec_packetArrival (packet : Packet) : exec (.packetArrival packet) s = execPacketArrival packet s := rfl
@[simp] theorem exec_packetAck (tag : Nat) : exec (.packetAck tag) s = execPacketAck tag s := rfl
@[simp] theorem exec_packetNack (tag : Nat) (bufferFull : Bool) : exec (.packetNack tag bufferFull) s = execPacketNack tag bufferFull s := rfl
@[simp] theorem exec_resendTimeout (tag : Nat) : exec (.resendTimeout tag) s = execResendTimeout tag s := rfl
@[simp] theorem exec_packetCommit (src tag : Nat) : exec (.packetCommit src tag) s = execPacketCommit src tag s := rfl
@[simp] theorem exec_tokenArrival (last : Dword) (epoch : BitVec 16) : exec (.tokenArrival last epoch) s = execTokenArrival last epoch s := rfl
@[simp] theorem exec_recordReceive (record : Record) : exec (.recordReceive record) s = execRecordReceive record s := rfl
@[simp] theorem exec_recordGapFetch (fetch : GapFetch) : exec (.recordGapFetch fetch) s = execRecordGapFetch fetch s := rfl
@[simp] theorem exec_tokenwaitExpiry : exec .tokenwaitExpiry s = execTokenwaitExpiry s := rfl
@[simp] theorem exec_tokenStop : exec .tokenStop s = execTokenStop s := rfl
@[simp] theorem exec_tokenRecovery (seen applied : List (Nat × Dword)) : exec (.tokenRecovery seen applied) s = execTokenRecovery seen applied s := rfl
@[simp] theorem exec_masterTimeout : exec .masterTimeout s = execMasterTimeout s := rfl
@[simp] theorem exec_lostLimitExpiry (package : Nat) (passing : Option Nat) : exec (.lostLimitExpiry package passing) s = execLostLimitExpiry package s passing := rfl
@[simp] theorem exec_recordWrite : exec .recordWrite s = execRecordWrite s := rfl
@[simp] theorem exec_recordAdd : exec .recordAdd s = execRecordAdd s := rfl
@[simp] theorem exec_recordCas : exec .recordCas s = execRecordCas s := rfl
@[simp] theorem exec_recordMax : exec .recordMax s = execRecordMax s := rfl
@[simp] theorem exec_recordBitset : exec .recordBitset s = execRecordBitset s := rfl
@[simp] theorem exec_recordLaunch (descriptor : List Byte) : exec (.recordLaunch descriptor) s = execRecordLaunch descriptor s := rfl
@[simp] theorem exec_recordPte : exec .recordPte s = execRecordPte s := rfl
@[simp] theorem exec_recordRegion : exec .recordRegion s = execRecordRegion s := rfl
@[simp] theorem exec_recordTrigger : exec .recordTrigger s = execRecordTrigger s := rfl
@[simp] theorem exec_recordSnap : exec .recordSnap s = execRecordSnap s := rfl
@[simp] theorem exec_ringLost : exec .ringLost s = execRingLost s := rfl
@[simp] theorem exec_ringJoin : exec .ringJoin s = execRingJoin s := rfl
@[simp] theorem exec_ringDone : exec .ringDone s = execRingDone s := rfl
@[simp] theorem exec_combineChunk (session index port : Nat) (elems : List Word) : exec (.combineChunk session index port elems) s = execCombineChunk session index port elems s := rfl
@[simp] theorem exec_sessionInputTimeout (session port index : Nat) :
    exec (.sessionInputTimeout session port index) s = execSessionInputTimeout session port index s := rfl
@[simp] theorem exec_memberOverdue (collective package index : Nat) :
    exec (.memberOverdue collective package index) s = execMemberOverdue collective package index s := rfl
@[simp] theorem exec_collectiveCompletion (collective : Nat) (result : List Byte) : exec (.collectiveCompletion collective result) s = execCollectiveCompletion collective result s := rfl
@[simp] theorem exec_vatArrival (row : VatRow) : exec (.vatArrival row) s = execVatArrival row s := rfl
@[simp] theorem exec_vatRowComplete (src row : Nat) : exec (.vatRowComplete src row) s = execVatRowComplete src row s := rfl
@[simp] theorem exec_vatDeadline (slot : Nat) : exec (.vatDeadline slot) s = execVatDeadline slot s := rfl
@[simp] theorem exec_vatReleaseDone : exec .vatReleaseDone s = execVatReleaseDone s := rfl
@[simp] theorem exec_cardConditionPoll (words : List (Nat × Nat × Word)) : exec (.cardConditionPoll words) s = execCardConditionPoll words s := rfl
@[simp] theorem exec_convoyPlacement : exec .convoyPlacement s = execConvoyPlacement s := rfl
@[simp] theorem exec_quadModeChangeDone : exec .quadModeChangeDone s = execQuadModeChangeDone s := rfl
@[simp] theorem exec_placementReservation : exec .placementReservation s = execPlacementReservation s := rfl
@[simp] theorem exec_preemptwaitExpiry : exec .preemptwaitExpiry s = execPreemptwaitExpiry s := rfl
@[simp] theorem exec_evictionSave : exec .evictionSave s = execEvictionSave s := rfl
@[simp] theorem exec_convoyRestore : exec .convoyRestore s = execConvoyRestore s := rfl
@[simp] theorem exec_watchdogExpiry : exec .watchdogExpiry s = execWatchdogExpiry s := rfl
@[simp] theorem exec_cardCompletion : exec .cardCompletion s = execCardCompletion s := rfl
@[simp] theorem exec_selfTestInjection (core : Nat) (mismatch : Option (Nat × Bool)) : exec (.selfTestInjection core mismatch) s = execSelfTestInjection core mismatch s := rfl
@[simp] theorem exec_matrixHang (core : Nat) : exec (.matrixHang core) s = execMatrixHang core s := rfl
@[simp] theorem exec_slabResetDone (core : Nat) (found : List (Nat × Nat × Bool)) : exec (.slabResetDone core found) s = execSlabResetDone core found s := rfl
@[simp] theorem exec_eccError (unit stack inst : Nat) (loc : Dword) (uncorrectable : Bool) : exec (.eccError unit stack inst loc uncorrectable) s = execEccError unit stack inst loc uncorrectable s := rfl
@[simp] theorem exec_pcSample (core sched : Nat) : exec (.pcSample core sched) s = execPcSample core sched s := rfl
@[simp] theorem exec_checkpointGranuleWrite : exec .checkpointGranuleWrite s = execCheckpointGranuleWrite s := rfl
@[simp] theorem exec_waysideImageLoad : exec .waysideImageLoad s = execWaysideImageLoad s := rfl
@[simp] theorem exec_linkLoss (port : Nat) : exec (.linkLoss port) s = execLinkLoss port s := rfl
@[simp] theorem exec_packageReset (boot : BootReport) : exec (.packageReset boot) s = execPackageReset boot s := rfl
@[simp] theorem exec_packagePowerLoss : exec .packagePowerLoss s = execPackagePowerLoss s := rfl
@[simp] theorem exec_junctionTemperature (celsius : Nat) : exec (.junctionTemperature celsius) s = execJunctionTemperature celsius s := rfl
@[simp] theorem exec_powerMeasurement (watts : Nat) : exec (.powerMeasurement watts) s = execPowerMeasurement watts s := rfl
@[simp] theorem exec_dvfsPointSelect (point : Nat) : exec (.dvfsPointSelect point) s = execDvfsPointSelect point s := rfl
@[simp] theorem exec_debugResume (wave path : Nat) : exec (.debugResume wave path) s = execDebugResume wave path s := rfl
@[simp] theorem exec_debugStep (wave path : Nat) : exec (.debugStep wave path) s = execDebugStep wave path s := rfl
@[simp] theorem exec_debugEdit (wave : Nat) (change : DebugChange) : exec (.debugEdit wave change) s = execDebugEdit wave change s := rfl
@[simp] theorem exec_rightsRevoke (context : Nat) : exec (.rightsRevoke context) s = execRightsRevoke context s := rfl
@[simp] theorem exec_triggerWrite (tag : Dword) : exec (.triggerWrite tag) s = execTriggerWrite tag s := rfl
@[simp] theorem exec_injectCorrected (unit stack inst : Nat) : exec (.injectCorrected unit stack inst) s = execInjectCorrected unit stack inst s := rfl
@[simp] theorem exec_injectUncorrectable (unit stack inst : Nat) : exec (.injectUncorrectable unit stack inst) s = execInjectUncorrectable unit stack inst s := rfl
@[simp] theorem exec_injectSelfTest (stack inst : Nat) : exec (.injectSelfTest stack inst) s = execInjectSelfTest stack inst s := rfl
@[simp] theorem exec_doorbellWrite (value : Dword) : exec (.doorbellWrite value) s = execDoorbellWrite value s := rfl
@[simp] theorem exec_commandAccept : exec .commandAccept s = execCommandAccept s := rfl
@[simp] theorem exec_launch : exec .launch s = execLaunch s := rfl
@[simp] theorem exec_inval : exec .inval s = execInval s := rfl
@[simp] theorem exec_replay : exec .replay s = execReplay s := rfl
@[simp] theorem exec_evict : exec .evict s = execEvict s := rfl
@[simp] theorem exec_ringpost : exec .ringpost s = execRingpost s := rfl
@[simp] theorem exec_fwload : exec .fwload s = execFwload s := rfl
@[simp] theorem exec_attest : exec .attest s = execAttest s := rfl
@[simp] theorem exec_restore : exec .restore s = execRestore s := rfl
@[simp] theorem exec_resetcore : exec .resetcore s = execResetcore s := rfl
@[simp] theorem exec_gapClear : exec .gapClear s = execGapClear s := rfl
@[simp] theorem exec_dqheadWrite (value : Dword) : exec (.dqheadWrite value) s = execDqheadWrite value s := rfl
@[simp] theorem exec_dqreplayWrite (value : Dword) : exec (.dqreplayWrite value) s = execDqreplayWrite value s := rfl
@[simp] theorem exec_fqrdWrite (context : Nat) (value : Dword) : exec (.fqrdWrite context value) s = execFqrdWrite context value s := rfl
@[simp] theorem exec_contextDescriptorWrite (context : Nat) (bytes : List Byte) : exec (.contextDescriptorWrite context bytes) s = execContextDescriptorWrite context bytes s := rfl
@[simp] theorem exec_ringBlockBaseWrite (context : Nat) (field : RingField) (value : Dword) : exec (.ringBlockBaseWrite context field value) s = execRingBlockBaseWrite context field value s := rfl
@[simp] theorem exec_regionStatusClear (region : Nat) (bits : Word) : exec (.regionStatusClear region bits) s = execRegionStatusClear region bits s := rfl
@[simp] theorem exec_ringctlWrite (value : Dword) (package : Option Nat) : exec (.ringctlWrite value package) s = execRingctlWrite value s package := rfl
@[simp] theorem exec_boundTableWrite (index : Nat) (value : BitVec 128) : exec (.boundTableWrite index value) s = execBoundTableWrite index value s := rfl
@[simp] theorem exec_msiXMessage (vector : Nat) : exec (.msiXMessage vector) s = execMsiXMessage vector s := rfl
@[simp] theorem exec_registerWrite (offset size : Nat) (value : Dword) : exec (.registerWrite offset size value) s = execRegisterWrite offset size value s := rfl
@[simp] theorem exec_illegalOp (w : Word) : exec (.illegalOp w) s = execIllegalOp w s := rfl
@[simp] theorem exec_illegalField (w : Word) : exec (.illegalField w) s = execIllegalField w s := rfl
@[simp] theorem exec_outOfStepRecovery (milestone : Dword) (image : List (Nat × Byte)) : exec (.outOfStepRecovery milestone image) s = execOutOfStepRecovery milestone image s := rfl
@[simp] theorem exec_contextTeardown (context : Nat) : exec (.contextTeardown context) s = execContextTeardown context s := rfl
@[simp] theorem exec_dvfsPauseEnd : exec .dvfsPauseEnd s = execDvfsPauseEnd s := rfl
@[simp] theorem exec_hostLinkError (wave : Nat) (pc addr : Dword) (lanes : Word) : exec (.hostLinkError wave pc addr lanes) s = execHostLinkError wave pc addr lanes s := rfl

end Sys2Proof.Machine
end

