-- ==== Sys2Proof/Laws/State.lean ====
section
/-! SUPPORT. What each named update of the state does to each field, so that no proof unfolds a record update. -/

namespace Sys2Proof.Machine

variable (s : State)

/-! ### setCore -/

@[simp] theorem setCore_cur (c : Nat) (x : Core) : (s.setCore c x).cur = s.cur := rfl
@[simp] theorem setCore_agenda (c : Nat) (x : Core) : (s.setCore c x).agenda = s.agenda := rfl
@[simp] theorem setCore_draws (c : Nat) (x : Core) : (s.setCore c x).draws = s.draws := rfl
@[simp] theorem setCore_epoch (c : Nat) (x : Core) : (s.setCore c x).epoch = s.epoch := rfl
@[simp] theorem setCore_nextUid (c : Nat) (x : Core) : (s.setCore c x).nextUid = s.nextUid := rfl
@[simp] theorem setCore_nextId (c : Nat) (x : Core) : (s.setCore c x).nextId = s.nextId := rfl
@[simp] theorem setCore_clock (c : Nat) (x : Core) : (s.setCore c x).clock = s.clock := rfl
@[simp] theorem setCore_pkg (c : Nat) (x : Core) : (s.setCore c x).pkg = s.pkg := rfl
@[simp] theorem setCore_bootState (c : Nat) (x : Core) : (s.setCore c x).bootState = s.bootState := rfl
@[simp] theorem setCore_failStage (c : Nat) (x : Core) : (s.setCore c x).failStage = s.failStage := rfl
@[simp] theorem setCore_fuses (c : Nat) (x : Core) : (s.setCore c x).fuses = s.fuses := rfl
@[simp] theorem setCore_binding (c : Nat) (x : Core) : (s.setCore c x).binding = s.binding := rfl
@[simp] theorem setCore_waysides (c : Nat) (x : Core) : (s.setCore c x).waysides = s.waysides := rfl
@[simp] theorem setCore_settings (c : Nat) (x : Core) : (s.setCore c x).settings = s.settings := rfl
@[simp] theorem setCore_power (c : Nat) (x : Core) : (s.setCore c x).power = s.power := rfl
@[simp] theorem setCore_mem (c : Nat) (x : Core) : (s.setCore c x).mem = s.mem := rfl
@[simp] theorem setCore_waymark (c : Nat) (x : Core) : (s.setCore c x).waymark = s.waymark := rfl
@[simp] theorem setCore_poisoned (c : Nat) (x : Core) : (s.setCore c x).poisoned = s.poisoned := rfl
@[simp] theorem setCore_l1 (c : Nat) (x : Core) : (s.setCore c x).l1 = s.l1 := rfl
@[simp] theorem setCore_copies (c : Nat) (x : Core) : (s.setCore c x).copies = s.copies := rfl
@[simp] theorem setCore_filters (c : Nat) (x : Core) : (s.setCore c x).filters = s.filters := rfl
@[simp] theorem setCore_home (c : Nat) (x : Core) : (s.setCore c x).home = s.home := rfl
@[simp] theorem setCore_leases (c : Nat) (x : Core) : (s.setCore c x).leases = s.leases := rfl
@[simp] theorem setCore_regions (c : Nat) (x : Core) : (s.setCore c x).regions = s.regions := rfl
@[simp] theorem setCore_switches (c : Nat) (x : Core) : (s.setCore c x).switches = s.switches := rfl
@[simp] theorem setCore_perStack (c : Nat) (x : Core) : (s.setCore c x).perStack = s.perStack := rfl
@[simp] theorem setCore_contexts (c : Nat) (x : Core) : (s.setCore c x).contexts = s.contexts := rfl
@[simp] theorem setCore_convoys (c : Nat) (x : Core) : (s.setCore c x).convoys = s.convoys := rfl
@[simp] theorem setCore_crews (c : Nat) (x : Core) : (s.setCore c x).crews = s.crews := rfl
@[simp] theorem setCore_waves (c : Nat) (x : Core) : (s.setCore c x).waves = s.waves := rfl
@[simp] theorem setCore_cores (c : Nat) (x : Core) : (s.setCore c x).cores = tset Core.initial s.cores c x := rfl
@[simp] theorem setCore_quads (c : Nat) (x : Core) : (s.setCore c x).quads = s.quads := rfl
@[simp] theorem setCore_loads (c : Nat) (x : Core) : (s.setCore c x).loads = s.loads := rfl
@[simp] theorem setCore_scratchOps (c : Nat) (x : Core) : (s.setCore c x).scratchOps = s.scratchOps := rfl
@[simp] theorem setCore_bound (c : Nat) (x : Core) : (s.setCore c x).bound = s.bound := rfl
@[simp] theorem setCore_inject (c : Nat) (x : Core) : (s.setCore c x).inject = s.inject := rfl
@[simp] theorem setCore_fabric (c : Nat) (x : Core) : (s.setCore c x).fabric = s.fabric := rfl
@[simp] theorem setCore_ring (c : Nat) (x : Core) : (s.setCore c x).ring = s.ring := rfl
@[simp] theorem setCore_sessions (c : Nat) (x : Core) : (s.setCore c x).sessions = s.sessions := rfl
@[simp] theorem setCore_collectives (c : Nat) (x : Core) : (s.setCore c x).collectives = s.collectives := rfl
@[simp] theorem setCore_vat (c : Nat) (x : Core) : (s.setCore c x).vat = s.vat := rfl
@[simp] theorem setCore_disp (c : Nat) (x : Core) : (s.setCore c x).disp = s.disp := rfl
@[simp] theorem setCore_hostq (c : Nat) (x : Core) : (s.setCore c x).hostq = s.hostq := rfl
@[simp] theorem setCore_msi (c : Nat) (x : Core) : (s.setCore c x).msi = s.msi := rfl
@[simp] theorem setCore_logs (c : Nat) (x : Core) : (s.setCore c x).logs = s.logs := rfl
@[simp] theorem setCore_snapshot (c : Nat) (x : Core) : (s.setCore c x).snapshot = s.snapshot := rfl
@[simp] theorem setCore_ckpt (c : Nat) (x : Core) : (s.setCore c x).ckpt = s.ckpt := rfl

/-! ### setContext -/

@[simp] theorem setContext_cur (c : Nat) (x : Context) : (s.setContext c x).cur = s.cur := rfl
@[simp] theorem setContext_agenda (c : Nat) (x : Context) : (s.setContext c x).agenda = s.agenda := rfl
@[simp] theorem setContext_draws (c : Nat) (x : Context) : (s.setContext c x).draws = s.draws := rfl
@[simp] theorem setContext_epoch (c : Nat) (x : Context) : (s.setContext c x).epoch = s.epoch := rfl
@[simp] theorem setContext_nextUid (c : Nat) (x : Context) : (s.setContext c x).nextUid = s.nextUid := rfl
@[simp] theorem setContext_nextId (c : Nat) (x : Context) : (s.setContext c x).nextId = s.nextId := rfl
@[simp] theorem setContext_clock (c : Nat) (x : Context) : (s.setContext c x).clock = s.clock := rfl
@[simp] theorem setContext_pkg (c : Nat) (x : Context) : (s.setContext c x).pkg = s.pkg := rfl
@[simp] theorem setContext_bootState (c : Nat) (x : Context) : (s.setContext c x).bootState = s.bootState := rfl
@[simp] theorem setContext_failStage (c : Nat) (x : Context) : (s.setContext c x).failStage = s.failStage := rfl
@[simp] theorem setContext_fuses (c : Nat) (x : Context) : (s.setContext c x).fuses = s.fuses := rfl
@[simp] theorem setContext_binding (c : Nat) (x : Context) : (s.setContext c x).binding = s.binding := rfl
@[simp] theorem setContext_waysides (c : Nat) (x : Context) : (s.setContext c x).waysides = s.waysides := rfl
@[simp] theorem setContext_settings (c : Nat) (x : Context) : (s.setContext c x).settings = s.settings := rfl
@[simp] theorem setContext_power (c : Nat) (x : Context) : (s.setContext c x).power = s.power := rfl
@[simp] theorem setContext_mem (c : Nat) (x : Context) : (s.setContext c x).mem = s.mem := rfl
@[simp] theorem setContext_waymark (c : Nat) (x : Context) : (s.setContext c x).waymark = s.waymark := rfl
@[simp] theorem setContext_poisoned (c : Nat) (x : Context) : (s.setContext c x).poisoned = s.poisoned := rfl
@[simp] theorem setContext_l1 (c : Nat) (x : Context) : (s.setContext c x).l1 = s.l1 := rfl
@[simp] theorem setContext_copies (c : Nat) (x : Context) : (s.setContext c x).copies = s.copies := rfl
@[simp] theorem setContext_filters (c : Nat) (x : Context) : (s.setContext c x).filters = s.filters := rfl
@[simp] theorem setContext_home (c : Nat) (x : Context) : (s.setContext c x).home = s.home := rfl
@[simp] theorem setContext_leases (c : Nat) (x : Context) : (s.setContext c x).leases = s.leases := rfl
@[simp] theorem setContext_regions (c : Nat) (x : Context) : (s.setContext c x).regions = s.regions := rfl
@[simp] theorem setContext_switches (c : Nat) (x : Context) : (s.setContext c x).switches = s.switches := rfl
@[simp] theorem setContext_perStack (c : Nat) (x : Context) : (s.setContext c x).perStack = s.perStack := rfl
@[simp] theorem setContext_contexts (c : Nat) (x : Context) : (s.setContext c x).contexts = tset Context.initial s.contexts c x := rfl
@[simp] theorem setContext_convoys (c : Nat) (x : Context) : (s.setContext c x).convoys = s.convoys := rfl
@[simp] theorem setContext_crews (c : Nat) (x : Context) : (s.setContext c x).crews = s.crews := rfl
@[simp] theorem setContext_waves (c : Nat) (x : Context) : (s.setContext c x).waves = s.waves := rfl
@[simp] theorem setContext_cores (c : Nat) (x : Context) : (s.setContext c x).cores = s.cores := rfl
@[simp] theorem setContext_quads (c : Nat) (x : Context) : (s.setContext c x).quads = s.quads := rfl
@[simp] theorem setContext_loads (c : Nat) (x : Context) : (s.setContext c x).loads = s.loads := rfl
@[simp] theorem setContext_scratchOps (c : Nat) (x : Context) : (s.setContext c x).scratchOps = s.scratchOps := rfl
@[simp] theorem setContext_bound (c : Nat) (x : Context) : (s.setContext c x).bound = s.bound := rfl
@[simp] theorem setContext_inject (c : Nat) (x : Context) : (s.setContext c x).inject = s.inject := rfl
@[simp] theorem setContext_fabric (c : Nat) (x : Context) : (s.setContext c x).fabric = s.fabric := rfl
@[simp] theorem setContext_ring (c : Nat) (x : Context) : (s.setContext c x).ring = s.ring := rfl
@[simp] theorem setContext_sessions (c : Nat) (x : Context) : (s.setContext c x).sessions = s.sessions := rfl
@[simp] theorem setContext_collectives (c : Nat) (x : Context) : (s.setContext c x).collectives = s.collectives := rfl
@[simp] theorem setContext_vat (c : Nat) (x : Context) : (s.setContext c x).vat = s.vat := rfl
@[simp] theorem setContext_disp (c : Nat) (x : Context) : (s.setContext c x).disp = s.disp := rfl
@[simp] theorem setContext_hostq (c : Nat) (x : Context) : (s.setContext c x).hostq = s.hostq := rfl
@[simp] theorem setContext_msi (c : Nat) (x : Context) : (s.setContext c x).msi = s.msi := rfl
@[simp] theorem setContext_logs (c : Nat) (x : Context) : (s.setContext c x).logs = s.logs := rfl
@[simp] theorem setContext_snapshot (c : Nat) (x : Context) : (s.setContext c x).snapshot = s.snapshot := rfl
@[simp] theorem setContext_ckpt (c : Nat) (x : Context) : (s.setContext c x).ckpt = s.ckpt := rfl

/-! ### setWave -/

@[simp] theorem setWave_cur (k : Nat) (w : Wave) : (s.setWave k w).cur = s.cur := rfl
@[simp] theorem setWave_agenda (k : Nat) (w : Wave) : (s.setWave k w).agenda = s.agenda := rfl
@[simp] theorem setWave_draws (k : Nat) (w : Wave) : (s.setWave k w).draws = s.draws := rfl
@[simp] theorem setWave_epoch (k : Nat) (w : Wave) : (s.setWave k w).epoch = s.epoch := rfl
@[simp] theorem setWave_nextUid (k : Nat) (w : Wave) : (s.setWave k w).nextUid = s.nextUid := rfl
@[simp] theorem setWave_nextId (k : Nat) (w : Wave) : (s.setWave k w).nextId = s.nextId := rfl
@[simp] theorem setWave_clock (k : Nat) (w : Wave) : (s.setWave k w).clock = s.clock := rfl
@[simp] theorem setWave_pkg (k : Nat) (w : Wave) : (s.setWave k w).pkg = s.pkg := rfl
@[simp] theorem setWave_bootState (k : Nat) (w : Wave) : (s.setWave k w).bootState = s.bootState := rfl
@[simp] theorem setWave_failStage (k : Nat) (w : Wave) : (s.setWave k w).failStage = s.failStage := rfl
@[simp] theorem setWave_fuses (k : Nat) (w : Wave) : (s.setWave k w).fuses = s.fuses := rfl
@[simp] theorem setWave_binding (k : Nat) (w : Wave) : (s.setWave k w).binding = s.binding := rfl
@[simp] theorem setWave_waysides (k : Nat) (w : Wave) : (s.setWave k w).waysides = s.waysides := rfl
@[simp] theorem setWave_settings (k : Nat) (w : Wave) : (s.setWave k w).settings = s.settings := rfl
@[simp] theorem setWave_power (k : Nat) (w : Wave) : (s.setWave k w).power = s.power := rfl
@[simp] theorem setWave_mem (k : Nat) (w : Wave) : (s.setWave k w).mem = s.mem := rfl
@[simp] theorem setWave_waymark (k : Nat) (w : Wave) : (s.setWave k w).waymark = s.waymark := rfl
@[simp] theorem setWave_poisoned (k : Nat) (w : Wave) : (s.setWave k w).poisoned = s.poisoned := rfl
@[simp] theorem setWave_l1 (k : Nat) (w : Wave) : (s.setWave k w).l1 = s.l1 := rfl
@[simp] theorem setWave_copies (k : Nat) (w : Wave) : (s.setWave k w).copies = s.copies := rfl
@[simp] theorem setWave_filters (k : Nat) (w : Wave) : (s.setWave k w).filters = s.filters := rfl
@[simp] theorem setWave_home (k : Nat) (w : Wave) : (s.setWave k w).home = s.home := rfl
@[simp] theorem setWave_leases (k : Nat) (w : Wave) : (s.setWave k w).leases = s.leases := rfl
@[simp] theorem setWave_regions (k : Nat) (w : Wave) : (s.setWave k w).regions = s.regions := rfl
@[simp] theorem setWave_switches (k : Nat) (w : Wave) : (s.setWave k w).switches = s.switches := rfl
@[simp] theorem setWave_perStack (k : Nat) (w : Wave) : (s.setWave k w).perStack = s.perStack := rfl
@[simp] theorem setWave_contexts (k : Nat) (w : Wave) : (s.setWave k w).contexts = s.contexts := rfl
@[simp] theorem setWave_convoys (k : Nat) (w : Wave) : (s.setWave k w).convoys = s.convoys := rfl
@[simp] theorem setWave_crews (k : Nat) (w : Wave) : (s.setWave k w).crews = s.crews := rfl
@[simp] theorem setWave_waves (k : Nat) (w : Wave) : (s.setWave k w).waves = tput s.waves k w := rfl
@[simp] theorem setWave_cores (k : Nat) (w : Wave) : (s.setWave k w).cores = s.cores := rfl
@[simp] theorem setWave_quads (k : Nat) (w : Wave) : (s.setWave k w).quads = s.quads := rfl
@[simp] theorem setWave_loads (k : Nat) (w : Wave) : (s.setWave k w).loads = s.loads := rfl
@[simp] theorem setWave_scratchOps (k : Nat) (w : Wave) : (s.setWave k w).scratchOps = s.scratchOps := rfl
@[simp] theorem setWave_bound (k : Nat) (w : Wave) : (s.setWave k w).bound = s.bound := rfl
@[simp] theorem setWave_inject (k : Nat) (w : Wave) : (s.setWave k w).inject = s.inject := rfl
@[simp] theorem setWave_fabric (k : Nat) (w : Wave) : (s.setWave k w).fabric = s.fabric := rfl
@[simp] theorem setWave_ring (k : Nat) (w : Wave) : (s.setWave k w).ring = s.ring := rfl
@[simp] theorem setWave_sessions (k : Nat) (w : Wave) : (s.setWave k w).sessions = s.sessions := rfl
@[simp] theorem setWave_collectives (k : Nat) (w : Wave) : (s.setWave k w).collectives = s.collectives := rfl
@[simp] theorem setWave_vat (k : Nat) (w : Wave) : (s.setWave k w).vat = s.vat := rfl
@[simp] theorem setWave_disp (k : Nat) (w : Wave) : (s.setWave k w).disp = s.disp := rfl
@[simp] theorem setWave_hostq (k : Nat) (w : Wave) : (s.setWave k w).hostq = s.hostq := rfl
@[simp] theorem setWave_msi (k : Nat) (w : Wave) : (s.setWave k w).msi = s.msi := rfl
@[simp] theorem setWave_logs (k : Nat) (w : Wave) : (s.setWave k w).logs = s.logs := rfl
@[simp] theorem setWave_snapshot (k : Nat) (w : Wave) : (s.setWave k w).snapshot = s.snapshot := rfl
@[simp] theorem setWave_ckpt (k : Nat) (w : Wave) : (s.setWave k w).ckpt = s.ckpt := rfl

/-! ### modWave -/

@[simp] theorem modWave_cur (k : Nat) (f : Wave → Wave) : (s.modWave k f).cur = s.cur := rfl
@[simp] theorem modWave_agenda (k : Nat) (f : Wave → Wave) : (s.modWave k f).agenda = s.agenda := rfl
@[simp] theorem modWave_draws (k : Nat) (f : Wave → Wave) : (s.modWave k f).draws = s.draws := rfl
@[simp] theorem modWave_epoch (k : Nat) (f : Wave → Wave) : (s.modWave k f).epoch = s.epoch := rfl
@[simp] theorem modWave_nextUid (k : Nat) (f : Wave → Wave) : (s.modWave k f).nextUid = s.nextUid := rfl
@[simp] theorem modWave_nextId (k : Nat) (f : Wave → Wave) : (s.modWave k f).nextId = s.nextId := rfl
@[simp] theorem modWave_clock (k : Nat) (f : Wave → Wave) : (s.modWave k f).clock = s.clock := rfl
@[simp] theorem modWave_pkg (k : Nat) (f : Wave → Wave) : (s.modWave k f).pkg = s.pkg := rfl
@[simp] theorem modWave_bootState (k : Nat) (f : Wave → Wave) : (s.modWave k f).bootState = s.bootState := rfl
@[simp] theorem modWave_failStage (k : Nat) (f : Wave → Wave) : (s.modWave k f).failStage = s.failStage := rfl
@[simp] theorem modWave_fuses (k : Nat) (f : Wave → Wave) : (s.modWave k f).fuses = s.fuses := rfl
@[simp] theorem modWave_binding (k : Nat) (f : Wave → Wave) : (s.modWave k f).binding = s.binding := rfl
@[simp] theorem modWave_waysides (k : Nat) (f : Wave → Wave) : (s.modWave k f).waysides = s.waysides := rfl
@[simp] theorem modWave_settings (k : Nat) (f : Wave → Wave) : (s.modWave k f).settings = s.settings := rfl
@[simp] theorem modWave_power (k : Nat) (f : Wave → Wave) : (s.modWave k f).power = s.power := rfl
@[simp] theorem modWave_mem (k : Nat) (f : Wave → Wave) : (s.modWave k f).mem = s.mem := rfl
@[simp] theorem modWave_waymark (k : Nat) (f : Wave → Wave) : (s.modWave k f).waymark = s.waymark := rfl
@[simp] theorem modWave_poisoned (k : Nat) (f : Wave → Wave) : (s.modWave k f).poisoned = s.poisoned := rfl
@[simp] theorem modWave_l1 (k : Nat) (f : Wave → Wave) : (s.modWave k f).l1 = s.l1 := rfl
@[simp] theorem modWave_copies (k : Nat) (f : Wave → Wave) : (s.modWave k f).copies = s.copies := rfl
@[simp] theorem modWave_filters (k : Nat) (f : Wave → Wave) : (s.modWave k f).filters = s.filters := rfl
@[simp] theorem modWave_home (k : Nat) (f : Wave → Wave) : (s.modWave k f).home = s.home := rfl
@[simp] theorem modWave_leases (k : Nat) (f : Wave → Wave) : (s.modWave k f).leases = s.leases := rfl
@[simp] theorem modWave_regions (k : Nat) (f : Wave → Wave) : (s.modWave k f).regions = s.regions := rfl
@[simp] theorem modWave_switches (k : Nat) (f : Wave → Wave) : (s.modWave k f).switches = s.switches := rfl
@[simp] theorem modWave_perStack (k : Nat) (f : Wave → Wave) : (s.modWave k f).perStack = s.perStack := rfl
@[simp] theorem modWave_contexts (k : Nat) (f : Wave → Wave) : (s.modWave k f).contexts = s.contexts := rfl
@[simp] theorem modWave_convoys (k : Nat) (f : Wave → Wave) : (s.modWave k f).convoys = s.convoys := rfl
@[simp] theorem modWave_crews (k : Nat) (f : Wave → Wave) : (s.modWave k f).crews = s.crews := rfl
@[simp] theorem modWave_waves (k : Nat) (f : Wave → Wave) : (s.modWave k f).waves = tmod s.waves k f := rfl
@[simp] theorem modWave_cores (k : Nat) (f : Wave → Wave) : (s.modWave k f).cores = s.cores := rfl
@[simp] theorem modWave_quads (k : Nat) (f : Wave → Wave) : (s.modWave k f).quads = s.quads := rfl
@[simp] theorem modWave_loads (k : Nat) (f : Wave → Wave) : (s.modWave k f).loads = s.loads := rfl
@[simp] theorem modWave_scratchOps (k : Nat) (f : Wave → Wave) : (s.modWave k f).scratchOps = s.scratchOps := rfl
@[simp] theorem modWave_bound (k : Nat) (f : Wave → Wave) : (s.modWave k f).bound = s.bound := rfl
@[simp] theorem modWave_inject (k : Nat) (f : Wave → Wave) : (s.modWave k f).inject = s.inject := rfl
@[simp] theorem modWave_fabric (k : Nat) (f : Wave → Wave) : (s.modWave k f).fabric = s.fabric := rfl
@[simp] theorem modWave_ring (k : Nat) (f : Wave → Wave) : (s.modWave k f).ring = s.ring := rfl
@[simp] theorem modWave_sessions (k : Nat) (f : Wave → Wave) : (s.modWave k f).sessions = s.sessions := rfl
@[simp] theorem modWave_collectives (k : Nat) (f : Wave → Wave) : (s.modWave k f).collectives = s.collectives := rfl
@[simp] theorem modWave_vat (k : Nat) (f : Wave → Wave) : (s.modWave k f).vat = s.vat := rfl
@[simp] theorem modWave_disp (k : Nat) (f : Wave → Wave) : (s.modWave k f).disp = s.disp := rfl
@[simp] theorem modWave_hostq (k : Nat) (f : Wave → Wave) : (s.modWave k f).hostq = s.hostq := rfl
@[simp] theorem modWave_msi (k : Nat) (f : Wave → Wave) : (s.modWave k f).msi = s.msi := rfl
@[simp] theorem modWave_logs (k : Nat) (f : Wave → Wave) : (s.modWave k f).logs = s.logs := rfl
@[simp] theorem modWave_snapshot (k : Nat) (f : Wave → Wave) : (s.modWave k f).snapshot = s.snapshot := rfl
@[simp] theorem modWave_ckpt (k : Nat) (f : Wave → Wave) : (s.modWave k f).ckpt = s.ckpt := rfl

/-! ### setCrew -/

@[simp] theorem setCrew_cur (k : Nat) (x : Crew) : (s.setCrew k x).cur = s.cur := rfl
@[simp] theorem setCrew_agenda (k : Nat) (x : Crew) : (s.setCrew k x).agenda = s.agenda := rfl
@[simp] theorem setCrew_draws (k : Nat) (x : Crew) : (s.setCrew k x).draws = s.draws := rfl
@[simp] theorem setCrew_epoch (k : Nat) (x : Crew) : (s.setCrew k x).epoch = s.epoch := rfl
@[simp] theorem setCrew_nextUid (k : Nat) (x : Crew) : (s.setCrew k x).nextUid = s.nextUid := rfl
@[simp] theorem setCrew_nextId (k : Nat) (x : Crew) : (s.setCrew k x).nextId = s.nextId := rfl
@[simp] theorem setCrew_clock (k : Nat) (x : Crew) : (s.setCrew k x).clock = s.clock := rfl
@[simp] theorem setCrew_pkg (k : Nat) (x : Crew) : (s.setCrew k x).pkg = s.pkg := rfl
@[simp] theorem setCrew_bootState (k : Nat) (x : Crew) : (s.setCrew k x).bootState = s.bootState := rfl
@[simp] theorem setCrew_failStage (k : Nat) (x : Crew) : (s.setCrew k x).failStage = s.failStage := rfl
@[simp] theorem setCrew_fuses (k : Nat) (x : Crew) : (s.setCrew k x).fuses = s.fuses := rfl
@[simp] theorem setCrew_binding (k : Nat) (x : Crew) : (s.setCrew k x).binding = s.binding := rfl
@[simp] theorem setCrew_waysides (k : Nat) (x : Crew) : (s.setCrew k x).waysides = s.waysides := rfl
@[simp] theorem setCrew_settings (k : Nat) (x : Crew) : (s.setCrew k x).settings = s.settings := rfl
@[simp] theorem setCrew_power (k : Nat) (x : Crew) : (s.setCrew k x).power = s.power := rfl
@[simp] theorem setCrew_mem (k : Nat) (x : Crew) : (s.setCrew k x).mem = s.mem := rfl
@[simp] theorem setCrew_waymark (k : Nat) (x : Crew) : (s.setCrew k x).waymark = s.waymark := rfl
@[simp] theorem setCrew_poisoned (k : Nat) (x : Crew) : (s.setCrew k x).poisoned = s.poisoned := rfl
@[simp] theorem setCrew_l1 (k : Nat) (x : Crew) : (s.setCrew k x).l1 = s.l1 := rfl
@[simp] theorem setCrew_copies (k : Nat) (x : Crew) : (s.setCrew k x).copies = s.copies := rfl
@[simp] theorem setCrew_filters (k : Nat) (x : Crew) : (s.setCrew k x).filters = s.filters := rfl
@[simp] theorem setCrew_home (k : Nat) (x : Crew) : (s.setCrew k x).home = s.home := rfl
@[simp] theorem setCrew_leases (k : Nat) (x : Crew) : (s.setCrew k x).leases = s.leases := rfl
@[simp] theorem setCrew_regions (k : Nat) (x : Crew) : (s.setCrew k x).regions = s.regions := rfl
@[simp] theorem setCrew_switches (k : Nat) (x : Crew) : (s.setCrew k x).switches = s.switches := rfl
@[simp] theorem setCrew_perStack (k : Nat) (x : Crew) : (s.setCrew k x).perStack = s.perStack := rfl
@[simp] theorem setCrew_contexts (k : Nat) (x : Crew) : (s.setCrew k x).contexts = s.contexts := rfl
@[simp] theorem setCrew_convoys (k : Nat) (x : Crew) : (s.setCrew k x).convoys = s.convoys := rfl
@[simp] theorem setCrew_crews (k : Nat) (x : Crew) : (s.setCrew k x).crews = tput s.crews k x := rfl
@[simp] theorem setCrew_waves (k : Nat) (x : Crew) : (s.setCrew k x).waves = s.waves := rfl
@[simp] theorem setCrew_cores (k : Nat) (x : Crew) : (s.setCrew k x).cores = s.cores := rfl
@[simp] theorem setCrew_quads (k : Nat) (x : Crew) : (s.setCrew k x).quads = s.quads := rfl
@[simp] theorem setCrew_loads (k : Nat) (x : Crew) : (s.setCrew k x).loads = s.loads := rfl
@[simp] theorem setCrew_scratchOps (k : Nat) (x : Crew) : (s.setCrew k x).scratchOps = s.scratchOps := rfl
@[simp] theorem setCrew_bound (k : Nat) (x : Crew) : (s.setCrew k x).bound = s.bound := rfl
@[simp] theorem setCrew_inject (k : Nat) (x : Crew) : (s.setCrew k x).inject = s.inject := rfl
@[simp] theorem setCrew_fabric (k : Nat) (x : Crew) : (s.setCrew k x).fabric = s.fabric := rfl
@[simp] theorem setCrew_ring (k : Nat) (x : Crew) : (s.setCrew k x).ring = s.ring := rfl
@[simp] theorem setCrew_sessions (k : Nat) (x : Crew) : (s.setCrew k x).sessions = s.sessions := rfl
@[simp] theorem setCrew_collectives (k : Nat) (x : Crew) : (s.setCrew k x).collectives = s.collectives := rfl
@[simp] theorem setCrew_vat (k : Nat) (x : Crew) : (s.setCrew k x).vat = s.vat := rfl
@[simp] theorem setCrew_disp (k : Nat) (x : Crew) : (s.setCrew k x).disp = s.disp := rfl
@[simp] theorem setCrew_hostq (k : Nat) (x : Crew) : (s.setCrew k x).hostq = s.hostq := rfl
@[simp] theorem setCrew_msi (k : Nat) (x : Crew) : (s.setCrew k x).msi = s.msi := rfl
@[simp] theorem setCrew_logs (k : Nat) (x : Crew) : (s.setCrew k x).logs = s.logs := rfl
@[simp] theorem setCrew_snapshot (k : Nat) (x : Crew) : (s.setCrew k x).snapshot = s.snapshot := rfl
@[simp] theorem setCrew_ckpt (k : Nat) (x : Crew) : (s.setCrew k x).ckpt = s.ckpt := rfl

/-! ### setConvoy -/

@[simp] theorem setConvoy_cur (k : Nat) (x : Convoy) : (s.setConvoy k x).cur = s.cur := rfl
@[simp] theorem setConvoy_agenda (k : Nat) (x : Convoy) : (s.setConvoy k x).agenda = s.agenda := rfl
@[simp] theorem setConvoy_draws (k : Nat) (x : Convoy) : (s.setConvoy k x).draws = s.draws := rfl
@[simp] theorem setConvoy_epoch (k : Nat) (x : Convoy) : (s.setConvoy k x).epoch = s.epoch := rfl
@[simp] theorem setConvoy_nextUid (k : Nat) (x : Convoy) : (s.setConvoy k x).nextUid = s.nextUid := rfl
@[simp] theorem setConvoy_nextId (k : Nat) (x : Convoy) : (s.setConvoy k x).nextId = s.nextId := rfl
@[simp] theorem setConvoy_clock (k : Nat) (x : Convoy) : (s.setConvoy k x).clock = s.clock := rfl
@[simp] theorem setConvoy_pkg (k : Nat) (x : Convoy) : (s.setConvoy k x).pkg = s.pkg := rfl
@[simp] theorem setConvoy_bootState (k : Nat) (x : Convoy) : (s.setConvoy k x).bootState = s.bootState := rfl
@[simp] theorem setConvoy_failStage (k : Nat) (x : Convoy) : (s.setConvoy k x).failStage = s.failStage := rfl
@[simp] theorem setConvoy_fuses (k : Nat) (x : Convoy) : (s.setConvoy k x).fuses = s.fuses := rfl
@[simp] theorem setConvoy_binding (k : Nat) (x : Convoy) : (s.setConvoy k x).binding = s.binding := rfl
@[simp] theorem setConvoy_waysides (k : Nat) (x : Convoy) : (s.setConvoy k x).waysides = s.waysides := rfl
@[simp] theorem setConvoy_settings (k : Nat) (x : Convoy) : (s.setConvoy k x).settings = s.settings := rfl
@[simp] theorem setConvoy_power (k : Nat) (x : Convoy) : (s.setConvoy k x).power = s.power := rfl
@[simp] theorem setConvoy_mem (k : Nat) (x : Convoy) : (s.setConvoy k x).mem = s.mem := rfl
@[simp] theorem setConvoy_waymark (k : Nat) (x : Convoy) : (s.setConvoy k x).waymark = s.waymark := rfl
@[simp] theorem setConvoy_poisoned (k : Nat) (x : Convoy) : (s.setConvoy k x).poisoned = s.poisoned := rfl
@[simp] theorem setConvoy_l1 (k : Nat) (x : Convoy) : (s.setConvoy k x).l1 = s.l1 := rfl
@[simp] theorem setConvoy_copies (k : Nat) (x : Convoy) : (s.setConvoy k x).copies = s.copies := rfl
@[simp] theorem setConvoy_filters (k : Nat) (x : Convoy) : (s.setConvoy k x).filters = s.filters := rfl
@[simp] theorem setConvoy_home (k : Nat) (x : Convoy) : (s.setConvoy k x).home = s.home := rfl
@[simp] theorem setConvoy_leases (k : Nat) (x : Convoy) : (s.setConvoy k x).leases = s.leases := rfl
@[simp] theorem setConvoy_regions (k : Nat) (x : Convoy) : (s.setConvoy k x).regions = s.regions := rfl
@[simp] theorem setConvoy_switches (k : Nat) (x : Convoy) : (s.setConvoy k x).switches = s.switches := rfl
@[simp] theorem setConvoy_perStack (k : Nat) (x : Convoy) : (s.setConvoy k x).perStack = s.perStack := rfl
@[simp] theorem setConvoy_contexts (k : Nat) (x : Convoy) : (s.setConvoy k x).contexts = s.contexts := rfl
@[simp] theorem setConvoy_convoys (k : Nat) (x : Convoy) : (s.setConvoy k x).convoys = tput s.convoys k x := rfl
@[simp] theorem setConvoy_crews (k : Nat) (x : Convoy) : (s.setConvoy k x).crews = s.crews := rfl
@[simp] theorem setConvoy_waves (k : Nat) (x : Convoy) : (s.setConvoy k x).waves = s.waves := rfl
@[simp] theorem setConvoy_cores (k : Nat) (x : Convoy) : (s.setConvoy k x).cores = s.cores := rfl
@[simp] theorem setConvoy_quads (k : Nat) (x : Convoy) : (s.setConvoy k x).quads = s.quads := rfl
@[simp] theorem setConvoy_loads (k : Nat) (x : Convoy) : (s.setConvoy k x).loads = s.loads := rfl
@[simp] theorem setConvoy_scratchOps (k : Nat) (x : Convoy) : (s.setConvoy k x).scratchOps = s.scratchOps := rfl
@[simp] theorem setConvoy_bound (k : Nat) (x : Convoy) : (s.setConvoy k x).bound = s.bound := rfl
@[simp] theorem setConvoy_inject (k : Nat) (x : Convoy) : (s.setConvoy k x).inject = s.inject := rfl
@[simp] theorem setConvoy_fabric (k : Nat) (x : Convoy) : (s.setConvoy k x).fabric = s.fabric := rfl
@[simp] theorem setConvoy_ring (k : Nat) (x : Convoy) : (s.setConvoy k x).ring = s.ring := rfl
@[simp] theorem setConvoy_sessions (k : Nat) (x : Convoy) : (s.setConvoy k x).sessions = s.sessions := rfl
@[simp] theorem setConvoy_collectives (k : Nat) (x : Convoy) : (s.setConvoy k x).collectives = s.collectives := rfl
@[simp] theorem setConvoy_vat (k : Nat) (x : Convoy) : (s.setConvoy k x).vat = s.vat := rfl
@[simp] theorem setConvoy_disp (k : Nat) (x : Convoy) : (s.setConvoy k x).disp = s.disp := rfl
@[simp] theorem setConvoy_hostq (k : Nat) (x : Convoy) : (s.setConvoy k x).hostq = s.hostq := rfl
@[simp] theorem setConvoy_msi (k : Nat) (x : Convoy) : (s.setConvoy k x).msi = s.msi := rfl
@[simp] theorem setConvoy_logs (k : Nat) (x : Convoy) : (s.setConvoy k x).logs = s.logs := rfl
@[simp] theorem setConvoy_snapshot (k : Nat) (x : Convoy) : (s.setConvoy k x).snapshot = s.snapshot := rfl
@[simp] theorem setConvoy_ckpt (k : Nat) (x : Convoy) : (s.setConvoy k x).ckpt = s.ckpt := rfl

/-! ### setStack -/

@[simp] theorem setStack_cur (k : Nat) (x : Stack) : (s.setStack k x).cur = s.cur := rfl
@[simp] theorem setStack_agenda (k : Nat) (x : Stack) : (s.setStack k x).agenda = s.agenda := rfl
@[simp] theorem setStack_draws (k : Nat) (x : Stack) : (s.setStack k x).draws = s.draws := rfl
@[simp] theorem setStack_epoch (k : Nat) (x : Stack) : (s.setStack k x).epoch = s.epoch := rfl
@[simp] theorem setStack_nextUid (k : Nat) (x : Stack) : (s.setStack k x).nextUid = s.nextUid := rfl
@[simp] theorem setStack_nextId (k : Nat) (x : Stack) : (s.setStack k x).nextId = s.nextId := rfl
@[simp] theorem setStack_clock (k : Nat) (x : Stack) : (s.setStack k x).clock = s.clock := rfl
@[simp] theorem setStack_pkg (k : Nat) (x : Stack) : (s.setStack k x).pkg = s.pkg := rfl
@[simp] theorem setStack_bootState (k : Nat) (x : Stack) : (s.setStack k x).bootState = s.bootState := rfl
@[simp] theorem setStack_failStage (k : Nat) (x : Stack) : (s.setStack k x).failStage = s.failStage := rfl
@[simp] theorem setStack_fuses (k : Nat) (x : Stack) : (s.setStack k x).fuses = s.fuses := rfl
@[simp] theorem setStack_binding (k : Nat) (x : Stack) : (s.setStack k x).binding = s.binding := rfl
@[simp] theorem setStack_waysides (k : Nat) (x : Stack) : (s.setStack k x).waysides = s.waysides := rfl
@[simp] theorem setStack_settings (k : Nat) (x : Stack) : (s.setStack k x).settings = s.settings := rfl
@[simp] theorem setStack_power (k : Nat) (x : Stack) : (s.setStack k x).power = s.power := rfl
@[simp] theorem setStack_mem (k : Nat) (x : Stack) : (s.setStack k x).mem = s.mem := rfl
@[simp] theorem setStack_waymark (k : Nat) (x : Stack) : (s.setStack k x).waymark = s.waymark := rfl
@[simp] theorem setStack_poisoned (k : Nat) (x : Stack) : (s.setStack k x).poisoned = s.poisoned := rfl
@[simp] theorem setStack_l1 (k : Nat) (x : Stack) : (s.setStack k x).l1 = s.l1 := rfl
@[simp] theorem setStack_copies (k : Nat) (x : Stack) : (s.setStack k x).copies = s.copies := rfl
@[simp] theorem setStack_filters (k : Nat) (x : Stack) : (s.setStack k x).filters = s.filters := rfl
@[simp] theorem setStack_home (k : Nat) (x : Stack) : (s.setStack k x).home = s.home := rfl
@[simp] theorem setStack_leases (k : Nat) (x : Stack) : (s.setStack k x).leases = s.leases := rfl
@[simp] theorem setStack_regions (k : Nat) (x : Stack) : (s.setStack k x).regions = s.regions := rfl
@[simp] theorem setStack_switches (k : Nat) (x : Stack) : (s.setStack k x).switches = s.switches := rfl
@[simp] theorem setStack_perStack (k : Nat) (x : Stack) : (s.setStack k x).perStack = s.perStack.setIfInBounds k x := rfl
@[simp] theorem setStack_contexts (k : Nat) (x : Stack) : (s.setStack k x).contexts = s.contexts := rfl
@[simp] theorem setStack_convoys (k : Nat) (x : Stack) : (s.setStack k x).convoys = s.convoys := rfl
@[simp] theorem setStack_crews (k : Nat) (x : Stack) : (s.setStack k x).crews = s.crews := rfl
@[simp] theorem setStack_waves (k : Nat) (x : Stack) : (s.setStack k x).waves = s.waves := rfl
@[simp] theorem setStack_cores (k : Nat) (x : Stack) : (s.setStack k x).cores = s.cores := rfl
@[simp] theorem setStack_quads (k : Nat) (x : Stack) : (s.setStack k x).quads = s.quads := rfl
@[simp] theorem setStack_loads (k : Nat) (x : Stack) : (s.setStack k x).loads = s.loads := rfl
@[simp] theorem setStack_scratchOps (k : Nat) (x : Stack) : (s.setStack k x).scratchOps = s.scratchOps := rfl
@[simp] theorem setStack_bound (k : Nat) (x : Stack) : (s.setStack k x).bound = s.bound := rfl
@[simp] theorem setStack_inject (k : Nat) (x : Stack) : (s.setStack k x).inject = s.inject := rfl
@[simp] theorem setStack_fabric (k : Nat) (x : Stack) : (s.setStack k x).fabric = s.fabric := rfl
@[simp] theorem setStack_ring (k : Nat) (x : Stack) : (s.setStack k x).ring = s.ring := rfl
@[simp] theorem setStack_sessions (k : Nat) (x : Stack) : (s.setStack k x).sessions = s.sessions := rfl
@[simp] theorem setStack_collectives (k : Nat) (x : Stack) : (s.setStack k x).collectives = s.collectives := rfl
@[simp] theorem setStack_vat (k : Nat) (x : Stack) : (s.setStack k x).vat = s.vat := rfl
@[simp] theorem setStack_disp (k : Nat) (x : Stack) : (s.setStack k x).disp = s.disp := rfl
@[simp] theorem setStack_hostq (k : Nat) (x : Stack) : (s.setStack k x).hostq = s.hostq := rfl
@[simp] theorem setStack_msi (k : Nat) (x : Stack) : (s.setStack k x).msi = s.msi := rfl
@[simp] theorem setStack_logs (k : Nat) (x : Stack) : (s.setStack k x).logs = s.logs := rfl
@[simp] theorem setStack_snapshot (k : Nat) (x : Stack) : (s.setStack k x).snapshot = s.snapshot := rfl
@[simp] theorem setStack_ckpt (k : Nat) (x : Stack) : (s.setStack k x).ckpt = s.ckpt := rfl

/-! ### setHome -/

@[simp] theorem setHome_cur (l : Nat) (h : HomeLine) : (s.setHome l h).cur = s.cur := rfl
@[simp] theorem setHome_agenda (l : Nat) (h : HomeLine) : (s.setHome l h).agenda = s.agenda := rfl
@[simp] theorem setHome_draws (l : Nat) (h : HomeLine) : (s.setHome l h).draws = s.draws := rfl
@[simp] theorem setHome_epoch (l : Nat) (h : HomeLine) : (s.setHome l h).epoch = s.epoch := rfl
@[simp] theorem setHome_nextUid (l : Nat) (h : HomeLine) : (s.setHome l h).nextUid = s.nextUid := rfl
@[simp] theorem setHome_nextId (l : Nat) (h : HomeLine) : (s.setHome l h).nextId = s.nextId := rfl
@[simp] theorem setHome_clock (l : Nat) (h : HomeLine) : (s.setHome l h).clock = s.clock := rfl
@[simp] theorem setHome_pkg (l : Nat) (h : HomeLine) : (s.setHome l h).pkg = s.pkg := rfl
@[simp] theorem setHome_bootState (l : Nat) (h : HomeLine) : (s.setHome l h).bootState = s.bootState := rfl
@[simp] theorem setHome_failStage (l : Nat) (h : HomeLine) : (s.setHome l h).failStage = s.failStage := rfl
@[simp] theorem setHome_fuses (l : Nat) (h : HomeLine) : (s.setHome l h).fuses = s.fuses := rfl
@[simp] theorem setHome_binding (l : Nat) (h : HomeLine) : (s.setHome l h).binding = s.binding := rfl
@[simp] theorem setHome_waysides (l : Nat) (h : HomeLine) : (s.setHome l h).waysides = s.waysides := rfl
@[simp] theorem setHome_settings (l : Nat) (h : HomeLine) : (s.setHome l h).settings = s.settings := rfl
@[simp] theorem setHome_power (l : Nat) (h : HomeLine) : (s.setHome l h).power = s.power := rfl
@[simp] theorem setHome_mem (l : Nat) (h : HomeLine) : (s.setHome l h).mem = s.mem := rfl
@[simp] theorem setHome_waymark (l : Nat) (h : HomeLine) : (s.setHome l h).waymark = s.waymark := rfl
@[simp] theorem setHome_poisoned (l : Nat) (h : HomeLine) : (s.setHome l h).poisoned = s.poisoned := rfl
@[simp] theorem setHome_l1 (l : Nat) (h : HomeLine) : (s.setHome l h).l1 = s.l1 := rfl
@[simp] theorem setHome_copies (l : Nat) (h : HomeLine) : (s.setHome l h).copies = s.copies := rfl
@[simp] theorem setHome_filters (l : Nat) (h : HomeLine) : (s.setHome l h).filters = s.filters := rfl
@[simp] theorem setHome_home (l : Nat) (h : HomeLine) : (s.setHome l h).home = tset HomeLine.idle s.home l h := rfl
@[simp] theorem setHome_leases (l : Nat) (h : HomeLine) : (s.setHome l h).leases = s.leases := rfl
@[simp] theorem setHome_regions (l : Nat) (h : HomeLine) : (s.setHome l h).regions = s.regions := rfl
@[simp] theorem setHome_switches (l : Nat) (h : HomeLine) : (s.setHome l h).switches = s.switches := rfl
@[simp] theorem setHome_perStack (l : Nat) (h : HomeLine) : (s.setHome l h).perStack = s.perStack := rfl
@[simp] theorem setHome_contexts (l : Nat) (h : HomeLine) : (s.setHome l h).contexts = s.contexts := rfl
@[simp] theorem setHome_convoys (l : Nat) (h : HomeLine) : (s.setHome l h).convoys = s.convoys := rfl
@[simp] theorem setHome_crews (l : Nat) (h : HomeLine) : (s.setHome l h).crews = s.crews := rfl
@[simp] theorem setHome_waves (l : Nat) (h : HomeLine) : (s.setHome l h).waves = s.waves := rfl
@[simp] theorem setHome_cores (l : Nat) (h : HomeLine) : (s.setHome l h).cores = s.cores := rfl
@[simp] theorem setHome_quads (l : Nat) (h : HomeLine) : (s.setHome l h).quads = s.quads := rfl
@[simp] theorem setHome_loads (l : Nat) (h : HomeLine) : (s.setHome l h).loads = s.loads := rfl
@[simp] theorem setHome_scratchOps (l : Nat) (h : HomeLine) : (s.setHome l h).scratchOps = s.scratchOps := rfl
@[simp] theorem setHome_bound (l : Nat) (h : HomeLine) : (s.setHome l h).bound = s.bound := rfl
@[simp] theorem setHome_inject (l : Nat) (h : HomeLine) : (s.setHome l h).inject = s.inject := rfl
@[simp] theorem setHome_fabric (l : Nat) (h : HomeLine) : (s.setHome l h).fabric = s.fabric := rfl
@[simp] theorem setHome_ring (l : Nat) (h : HomeLine) : (s.setHome l h).ring = s.ring := rfl
@[simp] theorem setHome_sessions (l : Nat) (h : HomeLine) : (s.setHome l h).sessions = s.sessions := rfl
@[simp] theorem setHome_collectives (l : Nat) (h : HomeLine) : (s.setHome l h).collectives = s.collectives := rfl
@[simp] theorem setHome_vat (l : Nat) (h : HomeLine) : (s.setHome l h).vat = s.vat := rfl
@[simp] theorem setHome_disp (l : Nat) (h : HomeLine) : (s.setHome l h).disp = s.disp := rfl
@[simp] theorem setHome_hostq (l : Nat) (h : HomeLine) : (s.setHome l h).hostq = s.hostq := rfl
@[simp] theorem setHome_msi (l : Nat) (h : HomeLine) : (s.setHome l h).msi = s.msi := rfl
@[simp] theorem setHome_logs (l : Nat) (h : HomeLine) : (s.setHome l h).logs = s.logs := rfl
@[simp] theorem setHome_snapshot (l : Nat) (h : HomeLine) : (s.setHome l h).snapshot = s.snapshot := rfl
@[simp] theorem setHome_ckpt (l : Nat) (h : HomeLine) : (s.setHome l h).ckpt = s.ckpt := rfl

/-! ### tick -/

@[simp] theorem tick_cur : s.tick.cur = s.cur := rfl
@[simp] theorem tick_agenda : s.tick.agenda = s.agenda := rfl
@[simp] theorem tick_draws : s.tick.draws = s.draws + 1 := rfl
@[simp] theorem tick_epoch : s.tick.epoch = s.epoch + 1 := rfl
@[simp] theorem tick_nextUid : s.tick.nextUid = s.nextUid := rfl
@[simp] theorem tick_nextId : s.tick.nextId = s.nextId := rfl
@[simp] theorem tick_clock : s.tick.clock = s.clock := rfl
@[simp] theorem tick_pkg : s.tick.pkg = s.pkg := rfl
@[simp] theorem tick_bootState : s.tick.bootState = s.bootState := rfl
@[simp] theorem tick_failStage : s.tick.failStage = s.failStage := rfl
@[simp] theorem tick_fuses : s.tick.fuses = s.fuses := rfl
@[simp] theorem tick_binding : s.tick.binding = s.binding := rfl
@[simp] theorem tick_waysides : s.tick.waysides = s.waysides := rfl
@[simp] theorem tick_settings : s.tick.settings = s.settings := rfl
@[simp] theorem tick_power : s.tick.power = s.power := rfl
@[simp] theorem tick_mem : s.tick.mem = s.mem := rfl
@[simp] theorem tick_waymark : s.tick.waymark = s.waymark := rfl
@[simp] theorem tick_poisoned : s.tick.poisoned = s.poisoned := rfl
@[simp] theorem tick_l1 : s.tick.l1 = s.l1 := rfl
@[simp] theorem tick_copies : s.tick.copies = s.copies := rfl
@[simp] theorem tick_filters : s.tick.filters = s.filters := rfl
@[simp] theorem tick_home : s.tick.home = s.home := rfl
@[simp] theorem tick_leases : s.tick.leases = s.leases := rfl
@[simp] theorem tick_regions : s.tick.regions = s.regions := rfl
@[simp] theorem tick_switches : s.tick.switches = s.switches := rfl
@[simp] theorem tick_perStack : s.tick.perStack = s.perStack := rfl
@[simp] theorem tick_contexts : s.tick.contexts = s.contexts := rfl
@[simp] theorem tick_convoys : s.tick.convoys = s.convoys := rfl
@[simp] theorem tick_crews : s.tick.crews = s.crews := rfl
@[simp] theorem tick_waves : s.tick.waves = s.waves := rfl
@[simp] theorem tick_cores : s.tick.cores = s.cores := rfl
@[simp] theorem tick_quads : s.tick.quads = s.quads := rfl
@[simp] theorem tick_loads : s.tick.loads = s.loads := rfl
@[simp] theorem tick_scratchOps : s.tick.scratchOps = s.scratchOps := rfl
@[simp] theorem tick_bound : s.tick.bound = s.bound := rfl
@[simp] theorem tick_inject : s.tick.inject = s.inject := rfl
@[simp] theorem tick_fabric : s.tick.fabric = s.fabric := rfl
@[simp] theorem tick_ring : s.tick.ring = s.ring := rfl
@[simp] theorem tick_sessions : s.tick.sessions = s.sessions := rfl
@[simp] theorem tick_collectives : s.tick.collectives = s.collectives := rfl
@[simp] theorem tick_vat : s.tick.vat = s.vat := rfl
@[simp] theorem tick_disp : s.tick.disp = s.disp := rfl
@[simp] theorem tick_hostq : s.tick.hostq = s.hostq := rfl
@[simp] theorem tick_msi : s.tick.msi = s.msi := rfl
@[simp] theorem tick_logs : s.tick.logs = s.logs := rfl
@[simp] theorem tick_snapshot : s.tick.snapshot = s.snapshot := rfl
@[simp] theorem tick_ckpt : s.tick.ckpt = s.ckpt := rfl

/-! ### dropL1 -/

@[simp] theorem dropL1_cur (l : Nat) (p : Nat → Bool) : (dropL1 s l p).cur = s.cur := rfl
@[simp] theorem dropL1_agenda (l : Nat) (p : Nat → Bool) : (dropL1 s l p).agenda = s.agenda := rfl
@[simp] theorem dropL1_draws (l : Nat) (p : Nat → Bool) : (dropL1 s l p).draws = s.draws := rfl
@[simp] theorem dropL1_epoch (l : Nat) (p : Nat → Bool) : (dropL1 s l p).epoch = s.epoch := rfl
@[simp] theorem dropL1_nextUid (l : Nat) (p : Nat → Bool) : (dropL1 s l p).nextUid = s.nextUid := rfl
@[simp] theorem dropL1_nextId (l : Nat) (p : Nat → Bool) : (dropL1 s l p).nextId = s.nextId := rfl
@[simp] theorem dropL1_clock (l : Nat) (p : Nat → Bool) : (dropL1 s l p).clock = s.clock := rfl
@[simp] theorem dropL1_pkg (l : Nat) (p : Nat → Bool) : (dropL1 s l p).pkg = s.pkg := rfl
@[simp] theorem dropL1_bootState (l : Nat) (p : Nat → Bool) : (dropL1 s l p).bootState = s.bootState := rfl
@[simp] theorem dropL1_failStage (l : Nat) (p : Nat → Bool) : (dropL1 s l p).failStage = s.failStage := rfl
@[simp] theorem dropL1_fuses (l : Nat) (p : Nat → Bool) : (dropL1 s l p).fuses = s.fuses := rfl
@[simp] theorem dropL1_binding (l : Nat) (p : Nat → Bool) : (dropL1 s l p).binding = s.binding := rfl
@[simp] theorem dropL1_waysides (l : Nat) (p : Nat → Bool) : (dropL1 s l p).waysides = s.waysides := rfl
@[simp] theorem dropL1_settings (l : Nat) (p : Nat → Bool) : (dropL1 s l p).settings = s.settings := rfl
@[simp] theorem dropL1_power (l : Nat) (p : Nat → Bool) : (dropL1 s l p).power = s.power := rfl
@[simp] theorem dropL1_mem (l : Nat) (p : Nat → Bool) : (dropL1 s l p).mem = s.mem := rfl
@[simp] theorem dropL1_waymark (l : Nat) (p : Nat → Bool) : (dropL1 s l p).waymark = s.waymark := rfl
@[simp] theorem dropL1_poisoned (l : Nat) (p : Nat → Bool) : (dropL1 s l p).poisoned = s.poisoned := rfl
@[simp] theorem dropL1_copies (l : Nat) (p : Nat → Bool) : (dropL1 s l p).copies = s.copies := rfl
@[simp] theorem dropL1_filters (l : Nat) (p : Nat → Bool) : (dropL1 s l p).filters = s.filters := rfl
@[simp] theorem dropL1_home (l : Nat) (p : Nat → Bool) : (dropL1 s l p).home = s.home := rfl
@[simp] theorem dropL1_leases (l : Nat) (p : Nat → Bool) : (dropL1 s l p).leases = s.leases := rfl
@[simp] theorem dropL1_regions (l : Nat) (p : Nat → Bool) : (dropL1 s l p).regions = s.regions := rfl
@[simp] theorem dropL1_switches (l : Nat) (p : Nat → Bool) : (dropL1 s l p).switches = s.switches := rfl
@[simp] theorem dropL1_perStack (l : Nat) (p : Nat → Bool) : (dropL1 s l p).perStack = s.perStack := rfl
@[simp] theorem dropL1_contexts (l : Nat) (p : Nat → Bool) : (dropL1 s l p).contexts = s.contexts := rfl
@[simp] theorem dropL1_convoys (l : Nat) (p : Nat → Bool) : (dropL1 s l p).convoys = s.convoys := rfl
@[simp] theorem dropL1_crews (l : Nat) (p : Nat → Bool) : (dropL1 s l p).crews = s.crews := rfl
@[simp] theorem dropL1_waves (l : Nat) (p : Nat → Bool) : (dropL1 s l p).waves = s.waves := rfl
@[simp] theorem dropL1_cores (l : Nat) (p : Nat → Bool) : (dropL1 s l p).cores = s.cores := rfl
@[simp] theorem dropL1_quads (l : Nat) (p : Nat → Bool) : (dropL1 s l p).quads = s.quads := rfl
@[simp] theorem dropL1_loads (l : Nat) (p : Nat → Bool) : (dropL1 s l p).loads = s.loads := rfl
@[simp] theorem dropL1_scratchOps (l : Nat) (p : Nat → Bool) : (dropL1 s l p).scratchOps = s.scratchOps := rfl
@[simp] theorem dropL1_bound (l : Nat) (p : Nat → Bool) : (dropL1 s l p).bound = s.bound := rfl
@[simp] theorem dropL1_inject (l : Nat) (p : Nat → Bool) : (dropL1 s l p).inject = s.inject := rfl
@[simp] theorem dropL1_fabric (l : Nat) (p : Nat → Bool) : (dropL1 s l p).fabric = s.fabric := rfl
@[simp] theorem dropL1_ring (l : Nat) (p : Nat → Bool) : (dropL1 s l p).ring = s.ring := rfl
@[simp] theorem dropL1_sessions (l : Nat) (p : Nat → Bool) : (dropL1 s l p).sessions = s.sessions := rfl
@[simp] theorem dropL1_collectives (l : Nat) (p : Nat → Bool) : (dropL1 s l p).collectives = s.collectives := rfl
@[simp] theorem dropL1_vat (l : Nat) (p : Nat → Bool) : (dropL1 s l p).vat = s.vat := rfl
@[simp] theorem dropL1_disp (l : Nat) (p : Nat → Bool) : (dropL1 s l p).disp = s.disp := rfl
@[simp] theorem dropL1_hostq (l : Nat) (p : Nat → Bool) : (dropL1 s l p).hostq = s.hostq := rfl
@[simp] theorem dropL1_msi (l : Nat) (p : Nat → Bool) : (dropL1 s l p).msi = s.msi := rfl
@[simp] theorem dropL1_logs (l : Nat) (p : Nat → Bool) : (dropL1 s l p).logs = s.logs := rfl
@[simp] theorem dropL1_snapshot (l : Nat) (p : Nat → Bool) : (dropL1 s l p).snapshot = s.snapshot := rfl
@[simp] theorem dropL1_ckpt (l : Nat) (p : Nat → Bool) : (dropL1 s l p).ckpt = s.ckpt := rfl

/-! ### setCopy -/

@[simp] theorem setCopy_cur (l k : Nat) (c : Copy) : (setCopy s l k c).cur = s.cur := rfl
@[simp] theorem setCopy_agenda (l k : Nat) (c : Copy) : (setCopy s l k c).agenda = s.agenda := rfl
@[simp] theorem setCopy_draws (l k : Nat) (c : Copy) : (setCopy s l k c).draws = s.draws := rfl
@[simp] theorem setCopy_epoch (l k : Nat) (c : Copy) : (setCopy s l k c).epoch = s.epoch := rfl
@[simp] theorem setCopy_nextUid (l k : Nat) (c : Copy) : (setCopy s l k c).nextUid = s.nextUid := rfl
@[simp] theorem setCopy_nextId (l k : Nat) (c : Copy) : (setCopy s l k c).nextId = s.nextId := rfl
@[simp] theorem setCopy_clock (l k : Nat) (c : Copy) : (setCopy s l k c).clock = s.clock := rfl
@[simp] theorem setCopy_pkg (l k : Nat) (c : Copy) : (setCopy s l k c).pkg = s.pkg := rfl
@[simp] theorem setCopy_bootState (l k : Nat) (c : Copy) : (setCopy s l k c).bootState = s.bootState := rfl
@[simp] theorem setCopy_failStage (l k : Nat) (c : Copy) : (setCopy s l k c).failStage = s.failStage := rfl
@[simp] theorem setCopy_fuses (l k : Nat) (c : Copy) : (setCopy s l k c).fuses = s.fuses := rfl
@[simp] theorem setCopy_binding (l k : Nat) (c : Copy) : (setCopy s l k c).binding = s.binding := rfl
@[simp] theorem setCopy_waysides (l k : Nat) (c : Copy) : (setCopy s l k c).waysides = s.waysides := rfl
@[simp] theorem setCopy_settings (l k : Nat) (c : Copy) : (setCopy s l k c).settings = s.settings := rfl
@[simp] theorem setCopy_power (l k : Nat) (c : Copy) : (setCopy s l k c).power = s.power := rfl
@[simp] theorem setCopy_mem (l k : Nat) (c : Copy) : (setCopy s l k c).mem = s.mem := rfl
@[simp] theorem setCopy_waymark (l k : Nat) (c : Copy) : (setCopy s l k c).waymark = s.waymark := rfl
@[simp] theorem setCopy_poisoned (l k : Nat) (c : Copy) : (setCopy s l k c).poisoned = s.poisoned := rfl
@[simp] theorem setCopy_l1 (l k : Nat) (c : Copy) : (setCopy s l k c).l1 = s.l1 := rfl
@[simp] theorem setCopy_filters (l k : Nat) (c : Copy) : (setCopy s l k c).filters = s.filters := rfl
@[simp] theorem setCopy_home (l k : Nat) (c : Copy) : (setCopy s l k c).home = s.home := rfl
@[simp] theorem setCopy_leases (l k : Nat) (c : Copy) : (setCopy s l k c).leases = s.leases := rfl
@[simp] theorem setCopy_regions (l k : Nat) (c : Copy) : (setCopy s l k c).regions = s.regions := rfl
@[simp] theorem setCopy_switches (l k : Nat) (c : Copy) : (setCopy s l k c).switches = s.switches := rfl
@[simp] theorem setCopy_perStack (l k : Nat) (c : Copy) : (setCopy s l k c).perStack = s.perStack := rfl
@[simp] theorem setCopy_contexts (l k : Nat) (c : Copy) : (setCopy s l k c).contexts = s.contexts := rfl
@[simp] theorem setCopy_convoys (l k : Nat) (c : Copy) : (setCopy s l k c).convoys = s.convoys := rfl
@[simp] theorem setCopy_crews (l k : Nat) (c : Copy) : (setCopy s l k c).crews = s.crews := rfl
@[simp] theorem setCopy_waves (l k : Nat) (c : Copy) : (setCopy s l k c).waves = s.waves := rfl
@[simp] theorem setCopy_cores (l k : Nat) (c : Copy) : (setCopy s l k c).cores = s.cores := rfl
@[simp] theorem setCopy_quads (l k : Nat) (c : Copy) : (setCopy s l k c).quads = s.quads := rfl
@[simp] theorem setCopy_loads (l k : Nat) (c : Copy) : (setCopy s l k c).loads = s.loads := rfl
@[simp] theorem setCopy_scratchOps (l k : Nat) (c : Copy) : (setCopy s l k c).scratchOps = s.scratchOps := rfl
@[simp] theorem setCopy_bound (l k : Nat) (c : Copy) : (setCopy s l k c).bound = s.bound := rfl
@[simp] theorem setCopy_inject (l k : Nat) (c : Copy) : (setCopy s l k c).inject = s.inject := rfl
@[simp] theorem setCopy_fabric (l k : Nat) (c : Copy) : (setCopy s l k c).fabric = s.fabric := rfl
@[simp] theorem setCopy_ring (l k : Nat) (c : Copy) : (setCopy s l k c).ring = s.ring := rfl
@[simp] theorem setCopy_sessions (l k : Nat) (c : Copy) : (setCopy s l k c).sessions = s.sessions := rfl
@[simp] theorem setCopy_collectives (l k : Nat) (c : Copy) : (setCopy s l k c).collectives = s.collectives := rfl
@[simp] theorem setCopy_vat (l k : Nat) (c : Copy) : (setCopy s l k c).vat = s.vat := rfl
@[simp] theorem setCopy_disp (l k : Nat) (c : Copy) : (setCopy s l k c).disp = s.disp := rfl
@[simp] theorem setCopy_hostq (l k : Nat) (c : Copy) : (setCopy s l k c).hostq = s.hostq := rfl
@[simp] theorem setCopy_msi (l k : Nat) (c : Copy) : (setCopy s l k c).msi = s.msi := rfl
@[simp] theorem setCopy_logs (l k : Nat) (c : Copy) : (setCopy s l k c).logs = s.logs := rfl
@[simp] theorem setCopy_snapshot (l k : Nat) (c : Copy) : (setCopy s l k c).snapshot = s.snapshot := rfl
@[simp] theorem setCopy_ckpt (l k : Nat) (c : Copy) : (setCopy s l k c).ckpt = s.ckpt := rfl

/-! ### dropCopy -/

@[simp] theorem dropCopy_cur (l k : Nat) : (dropCopy s l k).cur = s.cur := rfl
@[simp] theorem dropCopy_agenda (l k : Nat) : (dropCopy s l k).agenda = s.agenda := rfl
@[simp] theorem dropCopy_draws (l k : Nat) : (dropCopy s l k).draws = s.draws := rfl
@[simp] theorem dropCopy_epoch (l k : Nat) : (dropCopy s l k).epoch = s.epoch := rfl
@[simp] theorem dropCopy_nextUid (l k : Nat) : (dropCopy s l k).nextUid = s.nextUid := rfl
@[simp] theorem dropCopy_nextId (l k : Nat) : (dropCopy s l k).nextId = s.nextId := rfl
@[simp] theorem dropCopy_clock (l k : Nat) : (dropCopy s l k).clock = s.clock := rfl
@[simp] theorem dropCopy_pkg (l k : Nat) : (dropCopy s l k).pkg = s.pkg := rfl
@[simp] theorem dropCopy_bootState (l k : Nat) : (dropCopy s l k).bootState = s.bootState := rfl
@[simp] theorem dropCopy_failStage (l k : Nat) : (dropCopy s l k).failStage = s.failStage := rfl
@[simp] theorem dropCopy_fuses (l k : Nat) : (dropCopy s l k).fuses = s.fuses := rfl
@[simp] theorem dropCopy_binding (l k : Nat) : (dropCopy s l k).binding = s.binding := rfl
@[simp] theorem dropCopy_waysides (l k : Nat) : (dropCopy s l k).waysides = s.waysides := rfl
@[simp] theorem dropCopy_settings (l k : Nat) : (dropCopy s l k).settings = s.settings := rfl
@[simp] theorem dropCopy_power (l k : Nat) : (dropCopy s l k).power = s.power := rfl
@[simp] theorem dropCopy_mem (l k : Nat) : (dropCopy s l k).mem = s.mem := rfl
@[simp] theorem dropCopy_waymark (l k : Nat) : (dropCopy s l k).waymark = s.waymark := rfl
@[simp] theorem dropCopy_poisoned (l k : Nat) : (dropCopy s l k).poisoned = s.poisoned := rfl
@[simp] theorem dropCopy_filters (l k : Nat) : (dropCopy s l k).filters = s.filters := rfl
@[simp] theorem dropCopy_home (l k : Nat) : (dropCopy s l k).home = s.home := rfl
@[simp] theorem dropCopy_leases (l k : Nat) : (dropCopy s l k).leases = s.leases := rfl
@[simp] theorem dropCopy_regions (l k : Nat) : (dropCopy s l k).regions = s.regions := rfl
@[simp] theorem dropCopy_switches (l k : Nat) : (dropCopy s l k).switches = s.switches := rfl
@[simp] theorem dropCopy_perStack (l k : Nat) : (dropCopy s l k).perStack = s.perStack := rfl
@[simp] theorem dropCopy_contexts (l k : Nat) : (dropCopy s l k).contexts = s.contexts := rfl
@[simp] theorem dropCopy_convoys (l k : Nat) : (dropCopy s l k).convoys = s.convoys := rfl
@[simp] theorem dropCopy_crews (l k : Nat) : (dropCopy s l k).crews = s.crews := rfl
@[simp] theorem dropCopy_waves (l k : Nat) : (dropCopy s l k).waves = s.waves := rfl
@[simp] theorem dropCopy_cores (l k : Nat) : (dropCopy s l k).cores = s.cores := rfl
@[simp] theorem dropCopy_quads (l k : Nat) : (dropCopy s l k).quads = s.quads := rfl
@[simp] theorem dropCopy_loads (l k : Nat) : (dropCopy s l k).loads = s.loads := rfl
@[simp] theorem dropCopy_scratchOps (l k : Nat) : (dropCopy s l k).scratchOps = s.scratchOps := rfl
@[simp] theorem dropCopy_bound (l k : Nat) : (dropCopy s l k).bound = s.bound := rfl
@[simp] theorem dropCopy_inject (l k : Nat) : (dropCopy s l k).inject = s.inject := rfl
@[simp] theorem dropCopy_fabric (l k : Nat) : (dropCopy s l k).fabric = s.fabric := rfl
@[simp] theorem dropCopy_ring (l k : Nat) : (dropCopy s l k).ring = s.ring := rfl
@[simp] theorem dropCopy_sessions (l k : Nat) : (dropCopy s l k).sessions = s.sessions := rfl
@[simp] theorem dropCopy_collectives (l k : Nat) : (dropCopy s l k).collectives = s.collectives := rfl
@[simp] theorem dropCopy_vat (l k : Nat) : (dropCopy s l k).vat = s.vat := rfl
@[simp] theorem dropCopy_disp (l k : Nat) : (dropCopy s l k).disp = s.disp := rfl
@[simp] theorem dropCopy_hostq (l k : Nat) : (dropCopy s l k).hostq = s.hostq := rfl
@[simp] theorem dropCopy_msi (l k : Nat) : (dropCopy s l k).msi = s.msi := rfl
@[simp] theorem dropCopy_logs (l k : Nat) : (dropCopy s l k).logs = s.logs := rfl
@[simp] theorem dropCopy_snapshot (l k : Nat) : (dropCopy s l k).snapshot = s.snapshot := rfl
@[simp] theorem dropCopy_ckpt (l k : Nat) : (dropCopy s l k).ckpt = s.ckpt := rfl

/-! ### signal -/

@[simp] theorem signal_cur (v : Nat) : (signal s v).cur = s.cur := rfl
@[simp] theorem signal_agenda (v : Nat) : (signal s v).agenda = s.agenda := rfl
@[simp] theorem signal_draws (v : Nat) : (signal s v).draws = s.draws := rfl
@[simp] theorem signal_epoch (v : Nat) : (signal s v).epoch = s.epoch := rfl
@[simp] theorem signal_nextUid (v : Nat) : (signal s v).nextUid = s.nextUid := rfl
@[simp] theorem signal_nextId (v : Nat) : (signal s v).nextId = s.nextId := rfl
@[simp] theorem signal_clock (v : Nat) : (signal s v).clock = s.clock := rfl
@[simp] theorem signal_pkg (v : Nat) : (signal s v).pkg = s.pkg := rfl
@[simp] theorem signal_bootState (v : Nat) : (signal s v).bootState = s.bootState := rfl
@[simp] theorem signal_failStage (v : Nat) : (signal s v).failStage = s.failStage := rfl
@[simp] theorem signal_fuses (v : Nat) : (signal s v).fuses = s.fuses := rfl
@[simp] theorem signal_binding (v : Nat) : (signal s v).binding = s.binding := rfl
@[simp] theorem signal_waysides (v : Nat) : (signal s v).waysides = s.waysides := rfl
@[simp] theorem signal_settings (v : Nat) : (signal s v).settings = s.settings := rfl
@[simp] theorem signal_power (v : Nat) : (signal s v).power = s.power := rfl
@[simp] theorem signal_mem (v : Nat) : (signal s v).mem = s.mem := rfl
@[simp] theorem signal_waymark (v : Nat) : (signal s v).waymark = s.waymark := rfl
@[simp] theorem signal_poisoned (v : Nat) : (signal s v).poisoned = s.poisoned := rfl
@[simp] theorem signal_l1 (v : Nat) : (signal s v).l1 = s.l1 := rfl
@[simp] theorem signal_copies (v : Nat) : (signal s v).copies = s.copies := rfl
@[simp] theorem signal_filters (v : Nat) : (signal s v).filters = s.filters := rfl
@[simp] theorem signal_home (v : Nat) : (signal s v).home = s.home := rfl
@[simp] theorem signal_leases (v : Nat) : (signal s v).leases = s.leases := rfl
@[simp] theorem signal_regions (v : Nat) : (signal s v).regions = s.regions := rfl
@[simp] theorem signal_switches (v : Nat) : (signal s v).switches = s.switches := rfl
@[simp] theorem signal_perStack (v : Nat) : (signal s v).perStack = s.perStack := rfl
@[simp] theorem signal_contexts (v : Nat) : (signal s v).contexts = s.contexts := rfl
@[simp] theorem signal_convoys (v : Nat) : (signal s v).convoys = s.convoys := rfl
@[simp] theorem signal_crews (v : Nat) : (signal s v).crews = s.crews := rfl
@[simp] theorem signal_waves (v : Nat) : (signal s v).waves = s.waves := rfl
@[simp] theorem signal_cores (v : Nat) : (signal s v).cores = s.cores := rfl
@[simp] theorem signal_quads (v : Nat) : (signal s v).quads = s.quads := rfl
@[simp] theorem signal_loads (v : Nat) : (signal s v).loads = s.loads := rfl
@[simp] theorem signal_scratchOps (v : Nat) : (signal s v).scratchOps = s.scratchOps := rfl
@[simp] theorem signal_bound (v : Nat) : (signal s v).bound = s.bound := rfl
@[simp] theorem signal_inject (v : Nat) : (signal s v).inject = s.inject := rfl
@[simp] theorem signal_fabric (v : Nat) : (signal s v).fabric = s.fabric := rfl
@[simp] theorem signal_ring (v : Nat) : (signal s v).ring = s.ring := rfl
@[simp] theorem signal_sessions (v : Nat) : (signal s v).sessions = s.sessions := rfl
@[simp] theorem signal_collectives (v : Nat) : (signal s v).collectives = s.collectives := rfl
@[simp] theorem signal_vat (v : Nat) : (signal s v).vat = s.vat := rfl
@[simp] theorem signal_disp (v : Nat) : (signal s v).disp = s.disp := rfl
@[simp] theorem signal_hostq (v : Nat) : (signal s v).hostq = s.hostq := rfl
@[simp] theorem signal_logs (v : Nat) : (signal s v).logs = s.logs := rfl
@[simp] theorem signal_snapshot (v : Nat) : (signal s v).snapshot = s.snapshot := rfl
@[simp] theorem signal_ckpt (v : Nat) : (signal s v).ckpt = s.ckpt := rfl

/-! ### markChanged -/

@[simp] theorem markChanged_cur (w : Option Nat) (p : Place) : (markChanged s w p).cur = s.cur := rfl
@[simp] theorem markChanged_agenda (w : Option Nat) (p : Place) : (markChanged s w p).agenda = s.agenda := rfl
@[simp] theorem markChanged_draws (w : Option Nat) (p : Place) : (markChanged s w p).draws = s.draws := rfl
@[simp] theorem markChanged_epoch (w : Option Nat) (p : Place) : (markChanged s w p).epoch = s.epoch := rfl
@[simp] theorem markChanged_nextUid (w : Option Nat) (p : Place) : (markChanged s w p).nextUid = s.nextUid := rfl
@[simp] theorem markChanged_nextId (w : Option Nat) (p : Place) : (markChanged s w p).nextId = s.nextId := rfl
@[simp] theorem markChanged_clock (w : Option Nat) (p : Place) : (markChanged s w p).clock = s.clock := rfl
@[simp] theorem markChanged_pkg (w : Option Nat) (p : Place) : (markChanged s w p).pkg = s.pkg := rfl
@[simp] theorem markChanged_bootState (w : Option Nat) (p : Place) : (markChanged s w p).bootState = s.bootState := rfl
@[simp] theorem markChanged_failStage (w : Option Nat) (p : Place) : (markChanged s w p).failStage = s.failStage := rfl
@[simp] theorem markChanged_fuses (w : Option Nat) (p : Place) : (markChanged s w p).fuses = s.fuses := rfl
@[simp] theorem markChanged_binding (w : Option Nat) (p : Place) : (markChanged s w p).binding = s.binding := rfl
@[simp] theorem markChanged_waysides (w : Option Nat) (p : Place) : (markChanged s w p).waysides = s.waysides := rfl
@[simp] theorem markChanged_settings (w : Option Nat) (p : Place) : (markChanged s w p).settings = s.settings := rfl
@[simp] theorem markChanged_power (w : Option Nat) (p : Place) : (markChanged s w p).power = s.power := rfl
@[simp] theorem markChanged_mem (w : Option Nat) (p : Place) : (markChanged s w p).mem = s.mem := rfl
@[simp] theorem markChanged_waymark (w : Option Nat) (p : Place) : (markChanged s w p).waymark = s.waymark := rfl
@[simp] theorem markChanged_poisoned (w : Option Nat) (p : Place) : (markChanged s w p).poisoned = s.poisoned := rfl
@[simp] theorem markChanged_l1 (w : Option Nat) (p : Place) : (markChanged s w p).l1 = s.l1 := rfl
@[simp] theorem markChanged_copies (w : Option Nat) (p : Place) : (markChanged s w p).copies = s.copies := rfl
@[simp] theorem markChanged_filters (w : Option Nat) (p : Place) : (markChanged s w p).filters = s.filters := rfl
@[simp] theorem markChanged_home (w : Option Nat) (p : Place) : (markChanged s w p).home = s.home := rfl
@[simp] theorem markChanged_leases (w : Option Nat) (p : Place) : (markChanged s w p).leases = s.leases := rfl
@[simp] theorem markChanged_regions (w : Option Nat) (p : Place) : (markChanged s w p).regions = s.regions := rfl
@[simp] theorem markChanged_switches (w : Option Nat) (p : Place) : (markChanged s w p).switches = s.switches := rfl
@[simp] theorem markChanged_perStack (w : Option Nat) (p : Place) : (markChanged s w p).perStack = s.perStack := rfl
@[simp] theorem markChanged_contexts (w : Option Nat) (p : Place) : (markChanged s w p).contexts = s.contexts := rfl
@[simp] theorem markChanged_convoys (w : Option Nat) (p : Place) : (markChanged s w p).convoys = s.convoys := rfl
@[simp] theorem markChanged_crews (w : Option Nat) (p : Place) : (markChanged s w p).crews = s.crews := rfl
@[simp] theorem markChanged_cores (w : Option Nat) (p : Place) : (markChanged s w p).cores = s.cores := rfl
@[simp] theorem markChanged_quads (w : Option Nat) (p : Place) : (markChanged s w p).quads = s.quads := rfl
@[simp] theorem markChanged_loads (w : Option Nat) (p : Place) : (markChanged s w p).loads = s.loads := rfl
@[simp] theorem markChanged_scratchOps (w : Option Nat) (p : Place) : (markChanged s w p).scratchOps = s.scratchOps := rfl
@[simp] theorem markChanged_bound (w : Option Nat) (p : Place) : (markChanged s w p).bound = s.bound := rfl
@[simp] theorem markChanged_inject (w : Option Nat) (p : Place) : (markChanged s w p).inject = s.inject := rfl
@[simp] theorem markChanged_fabric (w : Option Nat) (p : Place) : (markChanged s w p).fabric = s.fabric := rfl
@[simp] theorem markChanged_ring (w : Option Nat) (p : Place) : (markChanged s w p).ring = s.ring := rfl
@[simp] theorem markChanged_sessions (w : Option Nat) (p : Place) : (markChanged s w p).sessions = s.sessions := rfl
@[simp] theorem markChanged_collectives (w : Option Nat) (p : Place) : (markChanged s w p).collectives = s.collectives := rfl
@[simp] theorem markChanged_vat (w : Option Nat) (p : Place) : (markChanged s w p).vat = s.vat := rfl
@[simp] theorem markChanged_disp (w : Option Nat) (p : Place) : (markChanged s w p).disp = s.disp := rfl
@[simp] theorem markChanged_hostq (w : Option Nat) (p : Place) : (markChanged s w p).hostq = s.hostq := rfl
@[simp] theorem markChanged_msi (w : Option Nat) (p : Place) : (markChanged s w p).msi = s.msi := rfl
@[simp] theorem markChanged_logs (w : Option Nat) (p : Place) : (markChanged s w p).logs = s.logs := rfl
@[simp] theorem markChanged_snapshot (w : Option Nat) (p : Place) : (markChanged s w p).snapshot = s.snapshot := rfl
@[simp] theorem markChanged_ckpt (w : Option Nat) (p : Place) : (markChanged s w p).ckpt = s.ckpt := rfl

/-! ### advance -/

@[simp] theorem advance_cur (c : Ctx) (pc : Dword) : (advance s c pc).cur = s.cur := rfl
@[simp] theorem advance_agenda (c : Ctx) (pc : Dword) : (advance s c pc).agenda = s.agenda := rfl
@[simp] theorem advance_nextUid (c : Ctx) (pc : Dword) : (advance s c pc).nextUid = s.nextUid := rfl
@[simp] theorem advance_nextId (c : Ctx) (pc : Dword) : (advance s c pc).nextId = s.nextId := rfl
@[simp] theorem advance_clock (c : Ctx) (pc : Dword) : (advance s c pc).clock = s.clock := rfl
@[simp] theorem advance_pkg (c : Ctx) (pc : Dword) : (advance s c pc).pkg = s.pkg := rfl
@[simp] theorem advance_bootState (c : Ctx) (pc : Dword) : (advance s c pc).bootState = s.bootState := rfl
@[simp] theorem advance_failStage (c : Ctx) (pc : Dword) : (advance s c pc).failStage = s.failStage := rfl
@[simp] theorem advance_fuses (c : Ctx) (pc : Dword) : (advance s c pc).fuses = s.fuses := rfl
@[simp] theorem advance_binding (c : Ctx) (pc : Dword) : (advance s c pc).binding = s.binding := rfl
@[simp] theorem advance_waysides (c : Ctx) (pc : Dword) : (advance s c pc).waysides = s.waysides := rfl
@[simp] theorem advance_settings (c : Ctx) (pc : Dword) : (advance s c pc).settings = s.settings := rfl
@[simp] theorem advance_power (c : Ctx) (pc : Dword) : (advance s c pc).power = s.power := rfl
@[simp] theorem advance_mem (c : Ctx) (pc : Dword) : (advance s c pc).mem = s.mem := rfl
@[simp] theorem advance_waymark (c : Ctx) (pc : Dword) : (advance s c pc).waymark = s.waymark := rfl
@[simp] theorem advance_poisoned (c : Ctx) (pc : Dword) : (advance s c pc).poisoned = s.poisoned := rfl
@[simp] theorem advance_l1 (c : Ctx) (pc : Dword) : (advance s c pc).l1 = s.l1 := rfl
@[simp] theorem advance_copies (c : Ctx) (pc : Dword) : (advance s c pc).copies = s.copies := rfl
@[simp] theorem advance_filters (c : Ctx) (pc : Dword) : (advance s c pc).filters = s.filters := rfl
@[simp] theorem advance_home (c : Ctx) (pc : Dword) : (advance s c pc).home = s.home := rfl
@[simp] theorem advance_leases (c : Ctx) (pc : Dword) : (advance s c pc).leases = s.leases := rfl
@[simp] theorem advance_regions (c : Ctx) (pc : Dword) : (advance s c pc).regions = s.regions := rfl
@[simp] theorem advance_switches (c : Ctx) (pc : Dword) : (advance s c pc).switches = s.switches := rfl
@[simp] theorem advance_perStack (c : Ctx) (pc : Dword) : (advance s c pc).perStack = s.perStack := rfl
@[simp] theorem advance_contexts (c : Ctx) (pc : Dword) : (advance s c pc).contexts = s.contexts := rfl
@[simp] theorem advance_convoys (c : Ctx) (pc : Dword) : (advance s c pc).convoys = s.convoys := rfl
@[simp] theorem advance_crews (c : Ctx) (pc : Dword) : (advance s c pc).crews = s.crews := rfl
@[simp] theorem advance_cores (c : Ctx) (pc : Dword) : (advance s c pc).cores = s.cores := rfl
@[simp] theorem advance_quads (c : Ctx) (pc : Dword) : (advance s c pc).quads = s.quads := rfl
@[simp] theorem advance_loads (c : Ctx) (pc : Dword) : (advance s c pc).loads = s.loads := rfl
@[simp] theorem advance_scratchOps (c : Ctx) (pc : Dword) : (advance s c pc).scratchOps = s.scratchOps := rfl
@[simp] theorem advance_bound (c : Ctx) (pc : Dword) : (advance s c pc).bound = s.bound := rfl
@[simp] theorem advance_inject (c : Ctx) (pc : Dword) : (advance s c pc).inject = s.inject := rfl
@[simp] theorem advance_fabric (c : Ctx) (pc : Dword) : (advance s c pc).fabric = s.fabric := rfl
@[simp] theorem advance_ring (c : Ctx) (pc : Dword) : (advance s c pc).ring = s.ring := rfl
@[simp] theorem advance_sessions (c : Ctx) (pc : Dword) : (advance s c pc).sessions = s.sessions := rfl
@[simp] theorem advance_collectives (c : Ctx) (pc : Dword) : (advance s c pc).collectives = s.collectives := rfl
@[simp] theorem advance_vat (c : Ctx) (pc : Dword) : (advance s c pc).vat = s.vat := rfl
@[simp] theorem advance_disp (c : Ctx) (pc : Dword) : (advance s c pc).disp = s.disp := rfl
@[simp] theorem advance_hostq (c : Ctx) (pc : Dword) : (advance s c pc).hostq = s.hostq := rfl
@[simp] theorem advance_msi (c : Ctx) (pc : Dword) : (advance s c pc).msi = s.msi := rfl
@[simp] theorem advance_logs (c : Ctx) (pc : Dword) : (advance s c pc).logs = s.logs := rfl
@[simp] theorem advance_snapshot (c : Ctx) (pc : Dword) : (advance s c pc).snapshot = s.snapshot := rfl
@[simp] theorem advance_ckpt (c : Ctx) (pc : Dword) : (advance s c pc).ckpt = s.ckpt := rfl

end Sys2Proof.Machine
end

