-- ==== Sys2Proof/Laws/Memory.lean ====
section
/-! SUPPORT. The operations over memory keep its canonical form, and so does reset: what each operation does to the two stores is said once. -/

namespace Sys2Proof.Machine

/-- The memory and the waymark store after reset are in their canonical form. -/
theorem memInv_reset : MemInv State.reset := ⟨rfl, rfl⟩

/-- A fold keeps what its steps keep. -/
theorem foldl_keeps {β : Type} {P : State → Prop} {f : State → β → State} (hf : ∀ s x, P s → P (f s x)) :
    ∀ (l : List β) (s : State), P s → P (l.foldl f s) := by
  intro l
  induction l with
  | nil => exact fun s h => h
  | cons x l ih => exact fun s h => ih _ (hf s x h)

/-- Telling the watchers of a line changes neither store. -/

theorem memInv_noteWrite {s : State} (k : Option Nat) (line : Nat) (h : MemInv s) : MemInv (noteWrite s k line) := by
  unfold noteWrite
  split
  · exact h
  · exact h

/-- A byte written at its home sets that byte of memory, and no byte of the waymark store. -/
theorem pokeByte_stores (s : State) (a : Nat) (b : Byte) : (pokeByte s a b).mem = setByte s.mem a b ∧ (pokeByte s a b).waymark = s.waymark := by
  unfold pokeByte
  dsimp only
  split
  · exact ⟨rfl, rfl⟩
  · split <;> exact ⟨rfl, rfl⟩

theorem memInv_pokeByte {s : State} (a : Nat) (b : Byte) (h : MemInv s) : MemInv (pokeByte s a b) := by
  obtain ⟨hm, hw⟩ := pokeByte_stores s a b
  exact ⟨hm ▸ wf_setByte a b h.1, hw ▸ h.2⟩

/-- Bytes written at their homes are a run of memory. -/
theorem pokeBytes_stores (s : State) (a : Nat) (bs : List Byte) :
    (pokeBytes s a bs).mem = writeRun s.mem a bs ∧ (pokeBytes s a bs).waymark = s.waymark := by
  unfold pokeBytes
  have h : ∀ (bs : List Byte) (n : Nat) (s : State),
      let t := (bs.mapIdx fun i b => (i + n, b)).foldl (fun s e => pokeByte s (a + e.1) e.2) s
      t.mem = writeRun s.mem (a + n) bs ∧ t.waymark = s.waymark := by
    intro bs
    induction bs with
    | nil => exact fun _ _ => ⟨rfl, rfl⟩
    | cons b bs ih =>
      intro n s
      have := ih (n + 1) (pokeByte s (a + n) b)
      simp only [List.mapIdx_cons, List.foldl_cons, Nat.zero_add] at this ⊢
      obtain ⟨hm, hw⟩ := pokeByte_stores s (a + n) b
      rw [hm, hw] at this
      simpa [writeRun, Nat.add_assoc, Nat.add_comm, Nat.add_left_comm] using this
  simpa using h bs 0 s

theorem memInv_pokeBytes {s : State} (a : Nat) (bs : List Byte) (h : MemInv s) : MemInv (pokeBytes s a bs) := by
  obtain ⟨hm, hw⟩ := pokeBytes_stores s a bs
  exact ⟨hm ▸ wf_writeRun a bs h.1, hw ▸ h.2⟩

theorem memInv_agentWrite {s : State} (k : Option Nat) (a : Nat) (bs : List Byte) (h : MemInv s) : MemInv (agentWrite s k a bs) :=
  foldl_keeps (P := MemInv) (fun _ l h => memInv_noteWrite k l h) _ _ (memInv_pokeBytes a bs h)

theorem memInv_logFault {s : State} (i : FaultInfo) (h : MemInv s) : MemInv (logFault s i) := by
  unfold logFault
  split <;> exact h

theorem memInv_mergeHome {s : State} (line : Nat) (cells : List (Nat × Byte)) (h : MemInv s) : MemInv (mergeHome s line cells) := by
  unfold mergeHome
  split
  · exact h
  · have hs : MemInv (noteWrite (cells.foldl (fun s (e : Nat × Byte) => pokeByte s (128 * line + e.1) e.2) s) none line) :=
      memInv_noteWrite none line (foldl_keeps (P := MemInv) (fun _ (e : Nat × Byte) h => memInv_pokeByte _ e.2 h) _ _ h)
    dsimp only
    split
    · exact memInv_logFault _ hs
    · exact hs

theorem memInv_backSend {s : State} (line stack : Nat) (cells : List (Nat × Byte)) (h : MemInv s) : MemInv (backSend s line stack cells) := by
  unfold backSend
  dsimp only
  split <;> exact h

theorem memInv_cleanCopy {s : State} (line stack : Nat) (h : MemInv s) : MemInv (cleanCopy s line stack) := by
  unfold cleanCopy
  split
  · exact h
  · split
    · exact h
    · dsimp only
      split
      · exact memInv_mergeHome line _ h
      · exact memInv_backSend line stack _ h

theorem memInv_cleanStack {s : State} (stack scope : Nat) (h : MemInv s) : MemInv (cleanStack s stack scope) :=
  foldl_keeps (P := MemInv) (fun t l ht => by
    split
    · exact memInv_cleanCopy l stack ht
    · exact ht) _ _ h

theorem memInv_flushHome {s : State} (line : Nat) (h : MemInv s) : MemInv (flushHome s line) := by
  unfold flushHome
  split
  · exact h
  · next c _ =>
    refine ⟨?_, h.2⟩
    show Memory.wf (if _ then _ else _) = true
    split
    · have : ∀ (l : List Nat) (m : Table Byte), Memory.wf m = true →
          Memory.wf (l.foldl (fun m i => setByte m (128 * line + i) (byteAt c.bytes i)) m) = true := by
        intro l
        induction l with
        | nil => exact fun _ h => h
        | cons i l ih => exact fun m hm => ih _ (wf_setByte _ _ hm)
      exact this _ _ h.1
    · exact h.1

theorem memInv_storeByte {s : State} (core a cache : Nat) (b : Byte) (h : MemInv s) : MemInv (storeByte s core a cache b) := by
  have key : ∀ t : State, MemInv t → MemInv (match (if cache == 0 then copyOf t (lineOf a) (coreStack core) else none) with
      | some c =>
        let u := setCopy t (lineOf a) (coreStack core) { c with bytes := setByte c.bytes (a % 128) b, dirty := c.dirty ||| (1#128 <<< (a % 128)) }
        if isHome u (coreStack core) a && !coherentHere u a then { u with mem := setByte u.mem a b } else u
      | none => pokeByte t a b) := by
    intro t ht
    split
    · dsimp only
      split
      · exact ⟨wf_setByte a b ht.1, ht.2⟩
      · exact ht
    · exact memInv_pokeByte a b ht
  unfold storeByte
  refine key _ ?_
  split
  · exact h
  · exact h

theorem memInv_writeWaymark {s : State} (a : Nat) (bs : List Byte) (h : MemInv s) : MemInv (writeWaymark s a bs) :=
  foldl_keeps (P := MemInv) (fun t l h => show MemInv (markChanged t none (waymarkPlace l)) from h) _ { s with waymark := writeRun s.waymark a bs } ⟨h.1, wf_writeRun a bs h.2⟩

/-- What a reset keeps of memory is in canonical form. -/
theorem memInv_afterReset {s : State} (pkg : Nat) (h : MemInv s) : MemInv (afterReset s pkg) := by
  refine ⟨?_, rfl⟩
  have keys : ∀ (m : Table Byte) (lo : Nat), keysFrom lo m = true → ∀ p : Nat × Byte → Bool, keysFrom lo (m.filter p) = true := by
    intro m
    induction m with
    | nil => exact fun _ _ _ => rfl
    | cons e m ih =>
      intro lo hk p
      simp only [keysFrom, Bool.and_eq_true, decide_eq_true_eq] at hk
      rw [List.filter_cons]
      split
      · simp only [keysFrom, Bool.and_eq_true, decide_eq_true_eq]
        exact ⟨hk.1, ih _ hk.2 p⟩
      · exact keysFrom_mono (by omega) (ih _ hk.2 p)
  have hm := h.1
  simp only [canonical, Bool.and_eq_true] at hm
  show canonical 0 (List.filter _ _) = true
  simp only [canonical, Bool.and_eq_true]
  refine ⟨keys _ _ hm.1 _, ?_⟩
  rw [List.all_eq_true]
  exact fun e he => (List.all_eq_true.mp hm.2) e (List.mem_filter.mp he).1

end Sys2Proof.Machine
end

