-- ==== Sys2Proof/Laws/PerInstr.lean ====
section
/-! SUPPORT. Decoding the word of an instruction gives the instruction back, one lemma for each constructor. -/

namespace Sys2Proof.Laws.RoundTrip

/-- Decoding the word that encodes an instruction gives that instruction. The two constructors that stand for words no instruction
has are left out. -/
def Statement (i : Instr) : Prop :=
  (∀ v, i ≠ .illegalOp v) → (∀ v, i ≠ .illegalField v) → ∀ w, encode i = some w → decode w = i

/-- A field is the value that stands at its place. -/
theorem field_of {x lo len : Nat} {v : BitVec len} (h : x / 2 ^ lo % 2 ^ len = v.toNat) : field x lo len = v :=
  BitVec.eq_of_toNat_eq (by simpa [field] using h)

/-- The number of a word. -/
theorem word_nat {n : Nat} {w : Word} (h : BitVec.ofNat 32 n = w) (hn : n < 2 ^ 32) : w.toNat = n := by
  rw [← h, BitVec.toNat_ofNat, Nat.mod_eq_of_lt hn]

/-- An event has no word. -/
theorem of_none {i : Instr} (h : encode i = none) : Statement i := fun _ _ w e => by rw [h] at e; cases e

/-- A word of opcodes 0x00 to 0x0F. -/
theorem at0 {x : Word} (h : bits x.toNat 28 4 = 0) : decode x = decode0 x x.toNat := by
  rw [decode, h]; rfl

/-- A word of opcodes 0x10 to 0x1F. -/
theorem at1 {x : Word} (h : bits x.toNat 28 4 = 1) : decode x = decode1 x x.toNat := by
  rw [decode, h]; rfl

/-- A word of opcodes 0x20 to 0x2F. -/
theorem at2 {x : Word} (h : bits x.toNat 28 4 = 2) : decode x = decode2 x x.toNat := by
  rw [decode, h]; rfl

/-- A word of opcodes 0x30 to 0x3F. -/
theorem at3 {x : Word} (h : bits x.toNat 28 4 = 3) : decode x = decode3 x x.toNat := by
  rw [decode, h]; rfl

/-- A word of opcodes 0x40 to 0x4F. -/
theorem at4 {x : Word} (h : bits x.toNat 28 4 = 4) : decode x = decode4 x x.toNat := by
  rw [decode, h]; rfl

/-- A word of opcodes 0x50 to 0x5F. -/
theorem at5 {x : Word} (h : bits x.toNat 28 4 = 5) : decode x = decode5 x x.toNat := by
  rw [decode, h]; rfl

/-- A word of opcodes 0x60 to 0x6F. -/
theorem at6 {x : Word} (h : bits x.toNat 28 4 = 6) : decode x = decode6 x x.toNat := by
  rw [decode, h]; rfl

/-- A word of opcodes 0x70 to 0x7F. -/
theorem at7 {x : Word} (h : bits x.toNat 28 4 = 7) : decode x = decode7 x x.toNat := by
  rw [decode, h]; rfl

/-- A word of opcodes 0x90 to 0x9F. -/
theorem at9 {x : Word} (h : bits x.toNat 28 4 = 9) : decode x = decode9 x x.toNat := by
  rw [decode, h]; rfl

/-- A word of opcodes 0xA0 to 0xAF. -/
theorem atA {x : Word} (h : bits x.toNat 28 4 = 10) : decode x = decodeA x x.toNat := by
  rw [decode, h]; rfl

/-- A word of opcodes 0xB0 to 0xBF. -/
theorem atB {x : Word} (h : bits x.toNat 28 4 = 11) : decode x = decodeB x x.toNat := by
  rw [decode, h]; rfl

/-- A word of opcodes 0xC0 to 0xCF. -/
theorem atC {x : Word} (h : bits x.toNat 28 4 = 12) : decode x = decodeC x x.toNat := by
  rw [decode, h]; rfl

/-- A word of opcodes 0xD0 to 0xDF. -/
theorem atD {x : Word} (h : bits x.toNat 28 4 = 13) : decode x = decodeD x x.toNat := by
  rw [decode, h]; rfl

/-- A word of opcodes 0xE0 to 0xEF. -/
theorem atE {x : Word} (h : bits x.toNat 28 4 = 14) : decode x = decodeE x x.toNat := by
  rw [decode, h]; rfl

/-- A word of opcodes 0xF0 to 0xFF. -/
theorem atF {x : Word} (h : bits x.toNat 28 4 = 15) : decode x = decodeF x x.toNat := by
  rw [decode, h]; rfl

/-- The fields of a word in format A with two sources. -/
theorem fieldsA {k : Nat} {x : Word} (hk : k < 256) (w : BitVec 1) (d : BitVec 7) (a : BitVec 8) (b : BitVec 8) (hx : BitVec.ofNat 32 (wordA (k * 2 ^ 24 + 0) w d a b) = x) :
    bits x.toNat 28 4 = k / 16 ∧ bits x.toNat 24 4 = k % 16 ∧
    field x.toNat 23 1 = w ∧ field x.toNat 16 7 = d ∧ field x.toNat 8 8 = a ∧ field x.toNat 0 8 = b := by
  have hw := w.isLt
  have hd := d.isLt
  have ha := a.isLt
  have hb := b.isLt
  have ex := word_nat hx (by simp only [wordA, at_]; omega)
  simp only [wordA, at_] at ex
  rw [ex]
  simp only [bits]
  refine ⟨by omega, by omega, field_of (by omega), field_of (by omega), field_of (by omega), field_of (by omega)⟩

/-- The fields of a word in format A with one source. -/
theorem fieldsA1 {k : Nat} {x : Word} (hk : k < 256) (w : BitVec 1) (d : BitVec 7) (a : BitVec 8) (hx : BitVec.ofNat 32 (wordA1 (k * 2 ^ 24 + 192) w d a) = x) :
    bits x.toNat 28 4 = k / 16 ∧ bits x.toNat 24 4 = k % 16 ∧ bits x.toNat 0 8 = 192 ∧
    field x.toNat 23 1 = w ∧ field x.toNat 16 7 = d ∧ field x.toNat 8 8 = a := by
  have hw := w.isLt
  have hd := d.isLt
  have ha := a.isLt
  have ex := word_nat hx (by simp only [wordA1, at_]; omega)
  simp only [wordA1, at_] at ex
  rw [ex]
  simp only [bits]
  refine ⟨by omega, by omega, by omega, field_of (by omega), field_of (by omega), field_of (by omega)⟩

/-- The fields of a word in format S. -/
theorem fieldsS {k : Nat} {x : Word} (hk : k < 256) (d : BitVec 6) (a : BitVec 8) (b : BitVec 8) (hx : BitVec.ofNat 32 (wordS (k * 2 ^ 24 + 0) d a b) = x) :
    bits x.toNat 28 4 = k / 16 ∧ bits x.toNat 24 4 = k % 16 ∧ bits x.toNat 22 2 = 0 ∧
    field x.toNat 16 6 = d ∧ field x.toNat 8 8 = a ∧ field x.toNat 0 8 = b := by
  have hd := d.isLt
  have ha := a.isLt
  have hb := b.isLt
  have ex := word_nat hx (by simp only [wordS, at_]; omega)
  simp only [wordS, at_] at ex
  rw [ex]
  simp only [bits]
  refine ⟨by omega, by omega, by omega, field_of (by omega), field_of (by omega), field_of (by omega)⟩

/-- The fields of a word in format P. -/
theorem fieldsP {k : Nat} {x : Word} (hk : k < 256) (c : BitVec 4) (p : BitVec 3) (m : BitVec 1) (a : BitVec 8) (b : BitVec 8) (hx : BitVec.ofNat 32 (wordP (k * 2 ^ 24 + 0) c p m a b) = x) :
    bits x.toNat 28 4 = k / 16 ∧ bits x.toNat 24 4 = k % 16 ∧
    field x.toNat 20 4 = c ∧ field x.toNat 17 3 = p ∧ field x.toNat 16 1 = m ∧ field x.toNat 8 8 = a ∧ field x.toNat 0 8 = b := by
  have hc := c.isLt
  have hp := p.isLt
  have hm := m.isLt
  have ha := a.isLt
  have hb := b.isLt
  have ex := word_nat hx (by simp only [wordP, at_]; omega)
  simp only [wordP, at_] at ex
  rw [ex]
  simp only [bits]
  refine ⟨by omega, by omega, field_of (by omega), field_of (by omega), field_of (by omega), field_of (by omega), field_of (by omega)⟩

/-- The fields of a word in format M, scalar memory. -/
theorem fieldsSM {k : Nat} {x : Word} (hk : k < 256) (d : BitVec 6) (a : BitVec 6) (s : BitVec 4) (c : BitVec 3) (o : BitVec 2) (hx : BitVec.ofNat 32 (wordSM (k * 2 ^ 24 + 512) d a s c o) = x) :
    bits x.toNat 28 4 = k / 16 ∧ bits x.toNat 24 4 = k % 16 ∧ bits x.toNat 23 1 = 0 ∧ bits x.toNat 16 1 = 0 ∧ bits x.toNat 9 1 = 1 ∧
    field x.toNat 17 6 = d ∧ field x.toNat 10 6 = a ∧ field x.toNat 5 4 = s ∧ field x.toNat 2 3 = c ∧ field x.toNat 0 2 = o := by
  have hd := d.isLt
  have ha := a.isLt
  have hs := s.isLt
  have hc := c.isLt
  have ho := o.isLt
  have ex := word_nat hx (by simp only [wordSM, at_]; omega)
  simp only [wordSM, at_] at ex
  rw [ex]
  simp only [bits]
  refine ⟨by omega, by omega, by omega, by omega, by omega, field_of (by omega), field_of (by omega), field_of (by omega), field_of (by omega), field_of (by omega)⟩

/-- The fields of a word in format M. -/
theorem fieldsM {k : Nat} {x : Word} (hk : k < 256) (d : BitVec 7) (a : BitVec 7) (m : BitVec 1) (s : BitVec 4) (c : BitVec 3) (o : BitVec 2) (hx : BitVec.ofNat 32 (wordM (k * 2 ^ 24 + 0) d a m s c o) = x) :
    bits x.toNat 28 4 = k / 16 ∧ bits x.toNat 24 4 = k % 16 ∧
    field x.toNat 17 7 = d ∧ field x.toNat 10 7 = a ∧ field x.toNat 9 1 = m ∧ field x.toNat 5 4 = s ∧ field x.toNat 2 3 = c ∧ field x.toNat 0 2 = o := by
  have hd := d.isLt
  have ha := a.isLt
  have hm := m.isLt
  have hs := s.isLt
  have hc := c.isLt
  have ho := o.isLt
  have ex := word_nat hx (by simp only [wordM, at_]; omega)
  simp only [wordM, at_] at ex
  rw [ex]
  simp only [bits]
  refine ⟨by omega, by omega, field_of (by omega), field_of (by omega), field_of (by omega), field_of (by omega), field_of (by omega), field_of (by omega)⟩

/-- The fields of a word in format T. -/
theorem fieldsT {k : Nat} {x : Word} (hk : k < 256) (t : BitVec 4) (f : BitVec 4) (g : BitVec 4) (a : BitVec 6) (b : BitVec 6) (hx : BitVec.ofNat 32 (wordT (k * 2 ^ 24 + 0) t f g a b) = x) :
    bits x.toNat 28 4 = k / 16 ∧ bits x.toNat 24 4 = k % 16 ∧
    field x.toNat 20 4 = t ∧ field x.toNat 16 4 = f ∧ field x.toNat 12 4 = g ∧ field x.toNat 6 6 = a ∧ field x.toNat 0 6 = b := by
  have ht := t.isLt
  have hf := f.isLt
  have hg := g.isLt
  have ha := a.isLt
  have hb := b.isLt
  have ex := word_nat hx (by simp only [wordT, at_]; omega)
  simp only [wordT, at_] at ex
  rw [ex]
  simp only [bits]
  refine ⟨by omega, by omega, field_of (by omega), field_of (by omega), field_of (by omega), field_of (by omega), field_of (by omega)⟩

theorem nop : Statement .nop := fun _ _ _ h => Option.some.inj h ▸ rfl

theorem br (o : BitVec 18) : Statement (.br o) := by
  intro _ _ x hx
  have ho := o.isLt
  have ex := word_nat (n := 0x01000000 + o.toNat * 2 ^ 0) (Option.some.inj hx) (by omega)
  have f0 : bits x.toNat 28 4 = 0 := by rw [ex]; simp only [bits]; omega
  have f1 : bits x.toNat 24 4 = 1 := by rw [ex]; simp only [bits]; omega
  have f2 : bits x.toNat 18 6 = 0 := by rw [ex]; simp only [bits]; omega
  rw [at0 f0, decode0, f1]
  refine (if_pos (by rw [f2]; rfl)).trans ?_
  show Instr.br (field x.toNat 0 18) = _
  rw [field_of (v := o) (lo := 0) (by rw [ex]; omega)]

theorem brc (p : BitVec 3) (m : BitVec 3) (o : BitVec 18) : Statement (.brc p m o) := by
  intro _ _ x hx
  have hp := p.isLt
  have hm := m.isLt
  have ho := o.isLt
  have ex := word_nat (n := 0x02000000 + p.toNat * 2 ^ 21 + m.toNat * 2 ^ 18 + o.toNat * 2 ^ 0) (Option.some.inj hx) (by omega)
  have f0 : bits x.toNat 28 4 = 0 := by rw [ex]; simp only [bits]; omega
  have f1 : bits x.toNat 24 4 = 2 := by rw [ex]; simp only [bits]; omega
  rw [at0 f0, decode0, f1]
  show Instr.brc (field x.toNat 21 3) (field x.toNat 18 3) (field x.toNat 0 18) = _
  rw [field_of (v := p) (lo := 21) (by rw [ex]; omega), field_of (v := m) (lo := 18) (by rw [ex]; omega), field_of (v := o) (lo := 0) (by rw [ex]; omega)]

theorem brd (p : BitVec 3) (o : BitVec 18) : Statement (.brd p o) := by
  intro _ _ x hx
  have hp := p.isLt
  have ho := o.isLt
  have ex := word_nat (n := 0x03000000 + p.toNat * 2 ^ 21 + o.toNat * 2 ^ 0) (Option.some.inj hx) (by omega)
  have f0 : bits x.toNat 28 4 = 0 := by rw [ex]; simp only [bits]; omega
  have f1 : bits x.toNat 24 4 = 3 := by rw [ex]; simp only [bits]; omega
  have f2 : bits x.toNat 18 3 = 0 := by rw [ex]; simp only [bits]; omega
  rw [at0 f0, decode0, f1]
  refine (if_pos (by rw [f2]; rfl)).trans ?_
  show Instr.brd (field x.toNat 21 3) (field x.toNat 0 18) = _
  rw [field_of (v := p) (lo := 21) (by rw [ex]; omega), field_of (v := o) (lo := 0) (by rw [ex]; omega)]

theorem brdNot (p : BitVec 3) (o : BitVec 18) : Statement (.brdNot p o) := by
  intro _ _ x hx
  have hp := p.isLt
  have ho := o.isLt
  have ex := word_nat (n := 0x030C0000 + p.toNat * 2 ^ 21 + o.toNat * 2 ^ 0) (Option.some.inj hx) (by omega)
  have f0 : bits x.toNat 28 4 = 0 := by rw [ex]; simp only [bits]; omega
  have f1 : bits x.toNat 24 4 = 3 := by rw [ex]; simp only [bits]; omega
  have f2 : bits x.toNat 18 3 = 3 := by rw [ex]; simp only [bits]; omega
  rw [at0 f0, decode0, f1]
  refine (if_neg (by rw [f2]; decide)).trans ((if_pos (by rw [f2]; rfl)).trans ?_)
  show Instr.brdNot (field x.toNat 21 3) (field x.toNat 0 18) = _
  rw [field_of (v := p) (lo := 21) (by rw [ex]; omega), field_of (v := o) (lo := 0) (by rw [ex]; omega)]

theorem brx (a : BitVec 6) : Statement (.brx a) := by
  intro _ _ x hx
  have ha := a.isLt
  have ex := word_nat (n := 0x04000000 + a.toNat * 2 ^ 16) (Option.some.inj hx) (by omega)
  have f0 : bits x.toNat 28 4 = 0 := by rw [ex]; simp only [bits]; omega
  have f1 : bits x.toNat 24 4 = 4 := by rw [ex]; simp only [bits]; omega
  have f2 : bits x.toNat 22 2 = 0 := by rw [ex]; simp only [bits]; omega
  have f3 : bits x.toNat 0 16 = 0 := by rw [ex]; simp only [bits]; omega
  rw [at0 f0, decode0, f1]
  refine (if_pos (by rw [f2, f3]; rfl)).trans ?_
  show Instr.brx (field x.toNat 16 6) = _
  rw [field_of (v := a) (lo := 16) (by rw [ex]; omega)]

theorem call (o : BitVec 18) : Statement (.call o) := by
  intro _ _ x hx
  have ho := o.isLt
  have ex := word_nat (n := 0x05000000 + o.toNat * 2 ^ 0) (Option.some.inj hx) (by omega)
  have f0 : bits x.toNat 28 4 = 0 := by rw [ex]; simp only [bits]; omega
  have f1 : bits x.toNat 24 4 = 5 := by rw [ex]; simp only [bits]; omega
  have f2 : bits x.toNat 18 6 = 0 := by rw [ex]; simp only [bits]; omega
  rw [at0 f0, decode0, f1]
  refine (if_pos (by rw [f2]; rfl)).trans ?_
  show Instr.call (field x.toNat 0 18) = _
  rw [field_of (v := o) (lo := 0) (by rw [ex]; omega)]

theorem callIndirect (a : BitVec 6) : Statement (.callIndirect a) := by
  intro _ _ x hx
  have ha := a.isLt
  have ex := word_nat (n := 0x08000000 + a.toNat * 2 ^ 16) (Option.some.inj hx) (by omega)
  have f0 : bits x.toNat 28 4 = 0 := by rw [ex]; simp only [bits]; omega
  have f1 : bits x.toNat 24 4 = 8 := by rw [ex]; simp only [bits]; omega
  have f2 : bits x.toNat 22 2 = 0 := by rw [ex]; simp only [bits]; omega
  have f3 : bits x.toNat 0 16 = 0 := by rw [ex]; simp only [bits]; omega
  rw [at0 f0, decode0, f1]
  refine (if_pos (by rw [f2, f3]; rfl)).trans ?_
  show Instr.callIndirect (field x.toNat 16 6) = _
  rw [field_of (v := a) (lo := 16) (by rw [ex]; omega)]

theorem rejoin (o : BitVec 18) : Statement (.rejoin o) := by
  intro _ _ x hx
  have ho := o.isLt
  have ex := word_nat (n := 0x06000000 + o.toNat * 2 ^ 0) (Option.some.inj hx) (by omega)
  have f0 : bits x.toNat 28 4 = 0 := by rw [ex]; simp only [bits]; omega
  have f1 : bits x.toNat 24 4 = 6 := by rw [ex]; simp only [bits]; omega
  have f2 : bits x.toNat 18 6 = 0 := by rw [ex]; simp only [bits]; omega
  rw [at0 f0, decode0, f1]
  refine (if_pos (by rw [f2]; rfl)).trans ?_
  show Instr.rejoin (field x.toNat 0 18) = _
  rw [field_of (v := o) (lo := 0) (by rw [ex]; omega)]

theorem regang : Statement .regang := fun _ _ _ h => Option.some.inj h ▸ rfl

theorem ret : Statement .ret := fun _ _ _ h => Option.some.inj h ▸ rfl

theorem exit : Statement .exit := fun _ _ _ h => Option.some.inj h ▸ rfl

theorem trap (n : BitVec 24) : Statement (.trap n) := by
  intro _ _ x hx
  have hn := n.isLt
  have ex := word_nat (n := 0x0B000000 + n.toNat * 2 ^ 0) (Option.some.inj hx) (by omega)
  have f0 : bits x.toNat 28 4 = 0 := by rw [ex]; simp only [bits]; omega
  have f1 : bits x.toNat 24 4 = 11 := by rw [ex]; simp only [bits]; omega
  rw [at0 f0, decode0, f1]
  show Instr.trap (field x.toNat 0 24) = _
  rw [field_of (v := n) (lo := 0) (by rw [ex]; omega)]

theorem bkpt : Statement .bkpt := fun _ _ _ h => Option.some.inj h ▸ rfl

theorem yield : Statement .yield := fun _ _ _ h => Option.some.inj h ▸ rfl

theorem tramp (n : BitVec 20) : Statement (.tramp n) := by
  intro _ _ x hx
  have hn := n.isLt
  have ex := word_nat (n := 0x1C000000 + n.toNat * 2 ^ 0) (Option.some.inj hx) (by omega)
  have f0 : bits x.toNat 28 4 = 1 := by rw [ex]; simp only [bits]; omega
  have f1 : bits x.toNat 24 4 = 12 := by rw [ex]; simp only [bits]; omega
  have f2 : bits x.toNat 20 4 = 0 := by rw [ex]; simp only [bits]; omega
  rw [at1 f0, decode1, f1]
  refine (if_pos (by rw [f2]; rfl)).trans ?_
  show Instr.tramp (field x.toNat 0 20) = _
  rw [field_of (v := n) (lo := 0) (by rw [ex]; omega)]

theorem tool0 (n : BitVec 24) : Statement (.tool0 n) := by
  intro _ _ x hx
  have hn := n.isLt
  have ex := word_nat (n := 0x1D000000 + n.toNat * 2 ^ 0) (Option.some.inj hx) (by omega)
  have f0 : bits x.toNat 28 4 = 1 := by rw [ex]; simp only [bits]; omega
  have f1 : bits x.toNat 24 4 = 13 := by rw [ex]; simp only [bits]; omega
  rw [at1 f0, decode1, f1]
  show Instr.tool0 (field x.toNat 0 24) = _
  rw [field_of (v := n) (lo := 0) (by rw [ex]; omega)]

theorem tool1 (n : BitVec 24) : Statement (.tool1 n) := by
  intro _ _ x hx
  have hn := n.isLt
  have ex := word_nat (n := 0x1E000000 + n.toNat * 2 ^ 0) (Option.some.inj hx) (by omega)
  have f0 : bits x.toNat 28 4 = 1 := by rw [ex]; simp only [bits]; omega
  have f1 : bits x.toNat 24 4 = 14 := by rw [ex]; simp only [bits]; omega
  rw [at1 f0, decode1, f1]
  show Instr.tool1 (field x.toNat 0 24) = _
  rw [field_of (v := n) (lo := 0) (by rw [ex]; omega)]

theorem tool2 (n : BitVec 24) : Statement (.tool2 n) := by
  intro _ _ x hx
  have hn := n.isLt
  have ex := word_nat (n := 0x1F000000 + n.toNat * 2 ^ 0) (Option.some.inj hx) (by omega)
  have f0 : bits x.toNat 28 4 = 1 := by rw [ex]; simp only [bits]; omega
  have f1 : bits x.toNat 24 4 = 15 := by rw [ex]; simp only [bits]; omega
  rw [at1 f0, decode1, f1]
  show Instr.tool2 (field x.toNat 0 24) = _
  rw [field_of (v := n) (lo := 0) (by rw [ex]; omega)]

theorem sadd (d : BitVec 6) (a : BitVec 8) (b : BitVec 8) : Statement (.sadd d a b) := by
  intro _ _ x hx
  obtain ⟨h0, h1, g0, r0, r1, r2⟩ := fieldsS (k := 0x20) (by decide) d a b (Option.some.inj hx)
  rw [at2 h0, decode2, h1]
  refine (if_pos (by rw [g0]; rfl)).trans ?_
  show Instr.sadd (field x.toNat 16 6) (field x.toNat 8 8) (field x.toNat 0 8) = _
  rw [r0, r1, r2]

theorem ssub (d : BitVec 6) (a : BitVec 8) (b : BitVec 8) : Statement (.ssub d a b) := by
  intro _ _ x hx
  obtain ⟨h0, h1, g0, r0, r1, r2⟩ := fieldsS (k := 0x21) (by decide) d a b (Option.some.inj hx)
  rw [at2 h0, decode2, h1]
  refine (if_pos (by rw [g0]; rfl)).trans ?_
  show Instr.ssub (field x.toNat 16 6) (field x.toNat 8 8) (field x.toNat 0 8) = _
  rw [r0, r1, r2]

theorem smul (d : BitVec 6) (a : BitVec 8) (b : BitVec 8) : Statement (.smul d a b) := by
  intro _ _ x hx
  obtain ⟨h0, h1, g0, r0, r1, r2⟩ := fieldsS (k := 0x22) (by decide) d a b (Option.some.inj hx)
  rw [at2 h0, decode2, h1]
  refine (if_pos (by rw [g0]; rfl)).trans ?_
  show Instr.smul (field x.toNat 16 6) (field x.toNat 8 8) (field x.toNat 0 8) = _
  rw [r0, r1, r2]

theorem sand (d : BitVec 6) (a : BitVec 8) (b : BitVec 8) : Statement (.sand d a b) := by
  intro _ _ x hx
  obtain ⟨h0, h1, g0, r0, r1, r2⟩ := fieldsS (k := 0x23) (by decide) d a b (Option.some.inj hx)
  rw [at2 h0, decode2, h1]
  refine (if_pos (by rw [g0]; rfl)).trans ?_
  show Instr.sand (field x.toNat 16 6) (field x.toNat 8 8) (field x.toNat 0 8) = _
  rw [r0, r1, r2]

theorem sor (d : BitVec 6) (a : BitVec 8) (b : BitVec 8) : Statement (.sor d a b) := by
  intro _ _ x hx
  obtain ⟨h0, h1, g0, r0, r1, r2⟩ := fieldsS (k := 0x24) (by decide) d a b (Option.some.inj hx)
  rw [at2 h0, decode2, h1]
  refine (if_pos (by rw [g0]; rfl)).trans ?_
  show Instr.sor (field x.toNat 16 6) (field x.toNat 8 8) (field x.toNat 0 8) = _
  rw [r0, r1, r2]

theorem sxor (d : BitVec 6) (a : BitVec 8) (b : BitVec 8) : Statement (.sxor d a b) := by
  intro _ _ x hx
  obtain ⟨h0, h1, g0, r0, r1, r2⟩ := fieldsS (k := 0x25) (by decide) d a b (Option.some.inj hx)
  rw [at2 h0, decode2, h1]
  refine (if_pos (by rw [g0]; rfl)).trans ?_
  show Instr.sxor (field x.toNat 16 6) (field x.toNat 8 8) (field x.toNat 0 8) = _
  rw [r0, r1, r2]

theorem sshl (d : BitVec 6) (a : BitVec 8) (b : BitVec 8) : Statement (.sshl d a b) := by
  intro _ _ x hx
  obtain ⟨h0, h1, g0, r0, r1, r2⟩ := fieldsS (k := 0x26) (by decide) d a b (Option.some.inj hx)
  rw [at2 h0, decode2, h1]
  refine (if_pos (by rw [g0]; rfl)).trans ?_
  show Instr.sshl (field x.toNat 16 6) (field x.toNat 8 8) (field x.toNat 0 8) = _
  rw [r0, r1, r2]

theorem sshr (d : BitVec 6) (a : BitVec 8) (b : BitVec 8) : Statement (.sshr d a b) := by
  intro _ _ x hx
  obtain ⟨h0, h1, g0, r0, r1, r2⟩ := fieldsS (k := 0x27) (by decide) d a b (Option.some.inj hx)
  rw [at2 h0, decode2, h1]
  refine (if_pos (by rw [g0]; rfl)).trans ?_
  show Instr.sshr (field x.toNat 16 6) (field x.toNat 8 8) (field x.toNat 0 8) = _
  rw [r0, r1, r2]

theorem ssar (d : BitVec 6) (a : BitVec 8) (b : BitVec 8) : Statement (.ssar d a b) := by
  intro _ _ x hx
  obtain ⟨h0, h1, g0, r0, r1, r2⟩ := fieldsS (k := 0x28) (by decide) d a b (Option.some.inj hx)
  rw [at2 h0, decode2, h1]
  refine (if_pos (by rw [g0]; rfl)).trans ?_
  show Instr.ssar (field x.toNat 16 6) (field x.toNat 8 8) (field x.toNat 0 8) = _
  rw [r0, r1, r2]

theorem smov (d : BitVec 6) (a : BitVec 8) : Statement (.smov d a) := by
  intro _ _ x hx
  have hd := d.isLt
  have ha := a.isLt
  have ex := word_nat (n := 0x290000C0 + d.toNat * 2 ^ 16 + a.toNat * 2 ^ 8) (Option.some.inj hx) (by omega)
  have f0 : bits x.toNat 28 4 = 2 := by rw [ex]; simp only [bits]; omega
  have f1 : bits x.toNat 24 4 = 9 := by rw [ex]; simp only [bits]; omega
  have f2 : bits x.toNat 22 2 = 0 := by rw [ex]; simp only [bits]; omega
  have f3 : bits x.toNat 0 8 = 192 := by rw [ex]; simp only [bits]; omega
  rw [at2 f0, decode2, f1]
  refine (if_pos (by rw [f2, f3]; rfl)).trans ?_
  show Instr.smov (field x.toNat 16 6) (field x.toNat 8 8) = _
  rw [field_of (v := d) (lo := 16) (by rw [ex]; omega), field_of (v := a) (lo := 8) (by rw [ex]; omega)]

theorem smovi (d : BitVec 6) (i : BitVec 16) : Statement (.smovi d i) := by
  intro _ _ x hx
  have hd := d.isLt
  have hi := i.isLt
  have ex := word_nat (n := 0x2A000000 + d.toNat * 2 ^ 16 + i.toNat * 2 ^ 0) (Option.some.inj hx) (by omega)
  have f0 : bits x.toNat 28 4 = 2 := by rw [ex]; simp only [bits]; omega
  have f1 : bits x.toNat 24 4 = 10 := by rw [ex]; simp only [bits]; omega
  have f2 : bits x.toNat 22 2 = 0 := by rw [ex]; simp only [bits]; omega
  rw [at2 f0, decode2, f1]
  refine (if_pos (by rw [f2]; rfl)).trans ?_
  show Instr.smovi (field x.toNat 16 6) (field x.toNat 0 16) = _
  rw [field_of (v := d) (lo := 16) (by rw [ex]; omega), field_of (v := i) (lo := 0) (by rw [ex]; omega)]

theorem scmp (c : BitVec 4) (p : BitVec 3) (m : BitVec 1) (a : BitVec 8) (b : BitVec 8) : Statement (.scmp c p m a b) := by
  intro _ _ x hx
  obtain ⟨h0, h1, r0, r1, r2, r3, r4⟩ := fieldsP (k := 0x2B) (by decide) c p m a b (Option.some.inj hx)
  rw [at2 h0, decode2, h1]
  show Instr.scmp (field x.toNat 20 4) (field x.toNat 17 3) (field x.toNat 16 1) (field x.toNat 8 8) (field x.toNat 0 8) = _
  rw [r0, r1, r2, r3, r4]

theorem sldN8 (d : BitVec 6) (a : BitVec 6) (s : BitVec 4) (c : BitVec 3) (o : BitVec 2) : Statement (.sldN8 d a s c o) := by
  intro _ _ x hx
  obtain ⟨h0, h1, g0, g1, g2, r0, r1, r2, r3, r4⟩ := fieldsSM (k := 0x30) (by decide) d a s c o (Option.some.inj hx)
  rw [at3 h0, decode3, h1]
  refine (if_pos (by rw [g0, g1, g2]; rfl)).trans ?_
  show Instr.sldN8 (field x.toNat 17 6) (field x.toNat 10 6) (field x.toNat 5 4) (field x.toNat 2 3) (field x.toNat 0 2) = _
  rw [r0, r1, r2, r3, r4]

theorem sldI8 (d : BitVec 6) (a : BitVec 6) (s : BitVec 4) (c : BitVec 3) (o : BitVec 2) : Statement (.sldI8 d a s c o) := by
  intro _ _ x hx
  obtain ⟨h0, h1, g0, g1, g2, r0, r1, r2, r3, r4⟩ := fieldsSM (k := 0x31) (by decide) d a s c o (Option.some.inj hx)
  rw [at3 h0, decode3, h1]
  refine (if_pos (by rw [g0, g1, g2]; rfl)).trans ?_
  show Instr.sldI8 (field x.toNat 17 6) (field x.toNat 10 6) (field x.toNat 5 4) (field x.toNat 2 3) (field x.toNat 0 2) = _
  rw [r0, r1, r2, r3, r4]

theorem sldN16 (d : BitVec 6) (a : BitVec 6) (s : BitVec 4) (c : BitVec 3) (o : BitVec 2) : Statement (.sldN16 d a s c o) := by
  intro _ _ x hx
  obtain ⟨h0, h1, g0, g1, g2, r0, r1, r2, r3, r4⟩ := fieldsSM (k := 0x32) (by decide) d a s c o (Option.some.inj hx)
  rw [at3 h0, decode3, h1]
  refine (if_pos (by rw [g0, g1, g2]; rfl)).trans ?_
  show Instr.sldN16 (field x.toNat 17 6) (field x.toNat 10 6) (field x.toNat 5 4) (field x.toNat 2 3) (field x.toNat 0 2) = _
  rw [r0, r1, r2, r3, r4]

theorem sldI16 (d : BitVec 6) (a : BitVec 6) (s : BitVec 4) (c : BitVec 3) (o : BitVec 2) : Statement (.sldI16 d a s c o) := by
  intro _ _ x hx
  obtain ⟨h0, h1, g0, g1, g2, r0, r1, r2, r3, r4⟩ := fieldsSM (k := 0x33) (by decide) d a s c o (Option.some.inj hx)
  rw [at3 h0, decode3, h1]
  refine (if_pos (by rw [g0, g1, g2]; rfl)).trans ?_
  show Instr.sldI16 (field x.toNat 17 6) (field x.toNat 10 6) (field x.toNat 5 4) (field x.toNat 2 3) (field x.toNat 0 2) = _
  rw [r0, r1, r2, r3, r4]

theorem sldN32 (d : BitVec 6) (a : BitVec 6) (s : BitVec 4) (c : BitVec 3) (o : BitVec 2) : Statement (.sldN32 d a s c o) := by
  intro _ _ x hx
  obtain ⟨h0, h1, g0, g1, g2, r0, r1, r2, r3, r4⟩ := fieldsSM (k := 0x34) (by decide) d a s c o (Option.some.inj hx)
  rw [at3 h0, decode3, h1]
  refine (if_pos (by rw [g0, g1, g2]; rfl)).trans ?_
  show Instr.sldN32 (field x.toNat 17 6) (field x.toNat 10 6) (field x.toNat 5 4) (field x.toNat 2 3) (field x.toNat 0 2) = _
  rw [r0, r1, r2, r3, r4]

theorem sldI32 (d : BitVec 6) (a : BitVec 6) (s : BitVec 4) (c : BitVec 3) (o : BitVec 2) : Statement (.sldI32 d a s c o) := by
  intro _ _ x hx
  obtain ⟨h0, h1, g0, g1, g2, r0, r1, r2, r3, r4⟩ := fieldsSM (k := 0x35) (by decide) d a s c o (Option.some.inj hx)
  rw [at3 h0, decode3, h1]
  refine (if_pos (by rw [g0, g1, g2]; rfl)).trans ?_
  show Instr.sldI32 (field x.toNat 17 6) (field x.toNat 10 6) (field x.toNat 5 4) (field x.toNat 2 3) (field x.toNat 0 2) = _
  rw [r0, r1, r2, r3, r4]

theorem sldN64 (d : BitVec 6) (a : BitVec 6) (s : BitVec 4) (c : BitVec 3) (o : BitVec 2) : Statement (.sldN64 d a s c o) := by
  intro _ _ x hx
  obtain ⟨h0, h1, g0, g1, g2, r0, r1, r2, r3, r4⟩ := fieldsSM (k := 0x36) (by decide) d a s c o (Option.some.inj hx)
  rw [at3 h0, decode3, h1]
  refine (if_pos (by rw [g0, g1, g2]; rfl)).trans ?_
  show Instr.sldN64 (field x.toNat 17 6) (field x.toNat 10 6) (field x.toNat 5 4) (field x.toNat 2 3) (field x.toNat 0 2) = _
  rw [r0, r1, r2, r3, r4]

theorem sstN8 (d : BitVec 6) (a : BitVec 6) (s : BitVec 4) (c : BitVec 3) (o : BitVec 2) : Statement (.sstN8 d a s c o) := by
  intro _ _ x hx
  obtain ⟨h0, h1, g0, g1, g2, r0, r1, r2, r3, r4⟩ := fieldsSM (k := 0x37) (by decide) d a s c o (Option.some.inj hx)
  rw [at3 h0, decode3, h1]
  refine (if_pos (by rw [g0, g1, g2]; rfl)).trans ?_
  show Instr.sstN8 (field x.toNat 17 6) (field x.toNat 10 6) (field x.toNat 5 4) (field x.toNat 2 3) (field x.toNat 0 2) = _
  rw [r0, r1, r2, r3, r4]

theorem sstN16 (d : BitVec 6) (a : BitVec 6) (s : BitVec 4) (c : BitVec 3) (o : BitVec 2) : Statement (.sstN16 d a s c o) := by
  intro _ _ x hx
  obtain ⟨h0, h1, g0, g1, g2, r0, r1, r2, r3, r4⟩ := fieldsSM (k := 0x38) (by decide) d a s c o (Option.some.inj hx)
  rw [at3 h0, decode3, h1]
  refine (if_pos (by rw [g0, g1, g2]; rfl)).trans ?_
  show Instr.sstN16 (field x.toNat 17 6) (field x.toNat 10 6) (field x.toNat 5 4) (field x.toNat 2 3) (field x.toNat 0 2) = _
  rw [r0, r1, r2, r3, r4]

theorem sstN32 (d : BitVec 6) (a : BitVec 6) (s : BitVec 4) (c : BitVec 3) (o : BitVec 2) : Statement (.sstN32 d a s c o) := by
  intro _ _ x hx
  obtain ⟨h0, h1, g0, g1, g2, r0, r1, r2, r3, r4⟩ := fieldsSM (k := 0x39) (by decide) d a s c o (Option.some.inj hx)
  rw [at3 h0, decode3, h1]
  refine (if_pos (by rw [g0, g1, g2]; rfl)).trans ?_
  show Instr.sstN32 (field x.toNat 17 6) (field x.toNat 10 6) (field x.toNat 5 4) (field x.toNat 2 3) (field x.toNat 0 2) = _
  rw [r0, r1, r2, r3, r4]

theorem sstN64 (d : BitVec 6) (a : BitVec 6) (s : BitVec 4) (c : BitVec 3) (o : BitVec 2) : Statement (.sstN64 d a s c o) := by
  intro _ _ x hx
  obtain ⟨h0, h1, g0, g1, g2, r0, r1, r2, r3, r4⟩ := fieldsSM (k := 0x3A) (by decide) d a s c o (Option.some.inj hx)
  rw [at3 h0, decode3, h1]
  refine (if_pos (by rw [g0, g1, g2]; rfl)).trans ?_
  show Instr.sstN64 (field x.toNat 17 6) (field x.toNat 10 6) (field x.toNat 5 4) (field x.toNat 2 3) (field x.toNat 0 2) = _
  rw [r0, r1, r2, r3, r4]

theorem and (w : BitVec 1) (d : BitVec 7) (a : BitVec 8) (b : BitVec 8) : Statement (.and w d a b) := by
  intro _ _ x hx
  obtain ⟨h0, h1, r0, r1, r2, r3⟩ := fieldsA (k := 0x40) (by decide) w d a b (Option.some.inj hx)
  rw [at4 h0, decode4, h1]
  show Instr.and (field x.toNat 23 1) (field x.toNat 16 7) (field x.toNat 8 8) (field x.toNat 0 8) = _
  rw [r0, r1, r2, r3]

theorem or (w : BitVec 1) (d : BitVec 7) (a : BitVec 8) (b : BitVec 8) : Statement (.or w d a b) := by
  intro _ _ x hx
  obtain ⟨h0, h1, r0, r1, r2, r3⟩ := fieldsA (k := 0x41) (by decide) w d a b (Option.some.inj hx)
  rw [at4 h0, decode4, h1]
  show Instr.or (field x.toNat 23 1) (field x.toNat 16 7) (field x.toNat 8 8) (field x.toNat 0 8) = _
  rw [r0, r1, r2, r3]

theorem xor (w : BitVec 1) (d : BitVec 7) (a : BitVec 8) (b : BitVec 8) : Statement (.xor w d a b) := by
  intro _ _ x hx
  obtain ⟨h0, h1, r0, r1, r2, r3⟩ := fieldsA (k := 0x42) (by decide) w d a b (Option.some.inj hx)
  rw [at4 h0, decode4, h1]
  show Instr.xor (field x.toNat 23 1) (field x.toNat 16 7) (field x.toNat 8 8) (field x.toNat 0 8) = _
  rw [r0, r1, r2, r3]

theorem not (w : BitVec 1) (d : BitVec 7) (a : BitVec 8) : Statement (.not w d a) := by
  intro _ _ x hx
  obtain ⟨h0, h1, g0, r0, r1, r2⟩ := fieldsA1 (k := 0x43) (by decide) w d a (Option.some.inj hx)
  rw [at4 h0, decode4, h1]
  refine (if_pos (by rw [g0]; rfl)).trans ?_
  show Instr.not (field x.toNat 23 1) (field x.toNat 16 7) (field x.toNat 8 8) = _
  rw [r0, r1, r2]

theorem shl (w : BitVec 1) (d : BitVec 7) (a : BitVec 8) (b : BitVec 8) : Statement (.shl w d a b) := by
  intro _ _ x hx
  obtain ⟨h0, h1, r0, r1, r2, r3⟩ := fieldsA (k := 0x44) (by decide) w d a b (Option.some.inj hx)
  rw [at4 h0, decode4, h1]
  show Instr.shl (field x.toNat 23 1) (field x.toNat 16 7) (field x.toNat 8 8) (field x.toNat 0 8) = _
  rw [r0, r1, r2, r3]

theorem shr (w : BitVec 1) (d : BitVec 7) (a : BitVec 8) (b : BitVec 8) : Statement (.shr w d a b) := by
  intro _ _ x hx
  obtain ⟨h0, h1, r0, r1, r2, r3⟩ := fieldsA (k := 0x45) (by decide) w d a b (Option.some.inj hx)
  rw [at4 h0, decode4, h1]
  show Instr.shr (field x.toNat 23 1) (field x.toNat 16 7) (field x.toNat 8 8) (field x.toNat 0 8) = _
  rw [r0, r1, r2, r3]

theorem sar (w : BitVec 1) (d : BitVec 7) (a : BitVec 8) (b : BitVec 8) : Statement (.sar w d a b) := by
  intro _ _ x hx
  obtain ⟨h0, h1, r0, r1, r2, r3⟩ := fieldsA (k := 0x46) (by decide) w d a b (Option.some.inj hx)
  rw [at4 h0, decode4, h1]
  show Instr.sar (field x.toNat 23 1) (field x.toNat 16 7) (field x.toNat 8 8) (field x.toNat 0 8) = _
  rw [r0, r1, r2, r3]

theorem bfeN32 (w : BitVec 1) (d : BitVec 7) (a : BitVec 8) (b : BitVec 8) : Statement (.bfeN32 w d a b) := by
  intro _ _ x hx
  obtain ⟨h0, h1, r0, r1, r2, r3⟩ := fieldsA (k := 0x47) (by decide) w d a b (Option.some.inj hx)
  rw [at4 h0, decode4, h1]
  show Instr.bfeN32 (field x.toNat 23 1) (field x.toNat 16 7) (field x.toNat 8 8) (field x.toNat 0 8) = _
  rw [r0, r1, r2, r3]

theorem bfeI32 (w : BitVec 1) (d : BitVec 7) (a : BitVec 8) (b : BitVec 8) : Statement (.bfeI32 w d a b) := by
  intro _ _ x hx
  obtain ⟨h0, h1, r0, r1, r2, r3⟩ := fieldsA (k := 0x48) (by decide) w d a b (Option.some.inj hx)
  rw [at4 h0, decode4, h1]
  show Instr.bfeI32 (field x.toNat 23 1) (field x.toNat 16 7) (field x.toNat 8 8) (field x.toNat 0 8) = _
  rw [r0, r1, r2, r3]

theorem bfi (w : BitVec 1) (d : BitVec 7) (a : BitVec 8) (b : BitVec 8) : Statement (.bfi w d a b) := by
  intro _ _ x hx
  obtain ⟨h0, h1, r0, r1, r2, r3⟩ := fieldsA (k := 0x49) (by decide) w d a b (Option.some.inj hx)
  rw [at4 h0, decode4, h1]
  show Instr.bfi (field x.toNat 23 1) (field x.toNat 16 7) (field x.toNat 8 8) (field x.toNat 0 8) = _
  rw [r0, r1, r2, r3]

theorem clz (w : BitVec 1) (d : BitVec 7) (a : BitVec 8) : Statement (.clz w d a) := by
  intro _ _ x hx
  obtain ⟨h0, h1, g0, r0, r1, r2⟩ := fieldsA1 (k := 0x4A) (by decide) w d a (Option.some.inj hx)
  rw [at4 h0, decode4, h1]
  refine (if_pos (by rw [g0]; rfl)).trans ?_
  show Instr.clz (field x.toNat 23 1) (field x.toNat 16 7) (field x.toNat 8 8) = _
  rw [r0, r1, r2]

theorem popc (w : BitVec 1) (d : BitVec 7) (a : BitVec 8) : Statement (.popc w d a) := by
  intro _ _ x hx
  obtain ⟨h0, h1, g0, r0, r1, r2⟩ := fieldsA1 (k := 0x4B) (by decide) w d a (Option.some.inj hx)
  rw [at4 h0, decode4, h1]
  refine (if_pos (by rw [g0]; rfl)).trans ?_
  show Instr.popc (field x.toNat 23 1) (field x.toNat 16 7) (field x.toNat 8 8) = _
  rw [r0, r1, r2]

theorem iadd (w : BitVec 1) (d : BitVec 7) (a : BitVec 8) (b : BitVec 8) : Statement (.iadd w d a b) := by
  intro _ _ x hx
  obtain ⟨h0, h1, r0, r1, r2, r3⟩ := fieldsA (k := 0x4C) (by decide) w d a b (Option.some.inj hx)
  rw [at4 h0, decode4, h1]
  show Instr.iadd (field x.toNat 23 1) (field x.toNat 16 7) (field x.toNat 8 8) (field x.toNat 0 8) = _
  rw [r0, r1, r2, r3]

theorem isub (w : BitVec 1) (d : BitVec 7) (a : BitVec 8) (b : BitVec 8) : Statement (.isub w d a b) := by
  intro _ _ x hx
  obtain ⟨h0, h1, r0, r1, r2, r3⟩ := fieldsA (k := 0x4D) (by decide) w d a b (Option.some.inj hx)
  rw [at4 h0, decode4, h1]
  show Instr.isub (field x.toNat 23 1) (field x.toNat 16 7) (field x.toNat 8 8) (field x.toNat 0 8) = _
  rw [r0, r1, r2, r3]

theorem iaddsI32 (w : BitVec 1) (d : BitVec 7) (a : BitVec 8) (b : BitVec 8) : Statement (.iaddsI32 w d a b) := by
  intro _ _ x hx
  obtain ⟨h0, h1, r0, r1, r2, r3⟩ := fieldsA (k := 0x4E) (by decide) w d a b (Option.some.inj hx)
  rw [at4 h0, decode4, h1]
  show Instr.iaddsI32 (field x.toNat 23 1) (field x.toNat 16 7) (field x.toNat 8 8) (field x.toNat 0 8) = _
  rw [r0, r1, r2, r3]

theorem iaddsN32 (w : BitVec 1) (d : BitVec 7) (a : BitVec 8) (b : BitVec 8) : Statement (.iaddsN32 w d a b) := by
  intro _ _ x hx
  obtain ⟨h0, h1, r0, r1, r2, r3⟩ := fieldsA (k := 0x4F) (by decide) w d a b (Option.some.inj hx)
  rw [at4 h0, decode4, h1]
  show Instr.iaddsN32 (field x.toNat 23 1) (field x.toNat 16 7) (field x.toNat 8 8) (field x.toNat 0 8) = _
  rw [r0, r1, r2, r3]

theorem isubsI32 (w : BitVec 1) (d : BitVec 7) (a : BitVec 8) (b : BitVec 8) : Statement (.isubsI32 w d a b) := by
  intro _ _ x hx
  obtain ⟨h0, h1, r0, r1, r2, r3⟩ := fieldsA (k := 0x50) (by decide) w d a b (Option.some.inj hx)
  rw [at5 h0, decode5, h1]
  show Instr.isubsI32 (field x.toNat 23 1) (field x.toNat 16 7) (field x.toNat 8 8) (field x.toNat 0 8) = _
  rw [r0, r1, r2, r3]

theorem isubsN32 (w : BitVec 1) (d : BitVec 7) (a : BitVec 8) (b : BitVec 8) : Statement (.isubsN32 w d a b) := by
  intro _ _ x hx
  obtain ⟨h0, h1, r0, r1, r2, r3⟩ := fieldsA (k := 0x51) (by decide) w d a b (Option.some.inj hx)
  rw [at5 h0, decode5, h1]
  show Instr.isubsN32 (field x.toNat 23 1) (field x.toNat 16 7) (field x.toNat 8 8) (field x.toNat 0 8) = _
  rw [r0, r1, r2, r3]

theorem imul (w : BitVec 1) (d : BitVec 7) (a : BitVec 8) (b : BitVec 8) : Statement (.imul w d a b) := by
  intro _ _ x hx
  obtain ⟨h0, h1, r0, r1, r2, r3⟩ := fieldsA (k := 0x52) (by decide) w d a b (Option.some.inj hx)
  rw [at5 h0, decode5, h1]
  show Instr.imul (field x.toNat 23 1) (field x.toNat 16 7) (field x.toNat 8 8) (field x.toNat 0 8) = _
  rw [r0, r1, r2, r3]

theorem imulhI32 (w : BitVec 1) (d : BitVec 7) (a : BitVec 8) (b : BitVec 8) : Statement (.imulhI32 w d a b) := by
  intro _ _ x hx
  obtain ⟨h0, h1, r0, r1, r2, r3⟩ := fieldsA (k := 0x53) (by decide) w d a b (Option.some.inj hx)
  rw [at5 h0, decode5, h1]
  show Instr.imulhI32 (field x.toNat 23 1) (field x.toNat 16 7) (field x.toNat 8 8) (field x.toNat 0 8) = _
  rw [r0, r1, r2, r3]

theorem imulhN32 (w : BitVec 1) (d : BitVec 7) (a : BitVec 8) (b : BitVec 8) : Statement (.imulhN32 w d a b) := by
  intro _ _ x hx
  obtain ⟨h0, h1, r0, r1, r2, r3⟩ := fieldsA (k := 0x54) (by decide) w d a b (Option.some.inj hx)
  rw [at5 h0, decode5, h1]
  show Instr.imulhN32 (field x.toNat 23 1) (field x.toNat 16 7) (field x.toNat 8 8) (field x.toNat 0 8) = _
  rw [r0, r1, r2, r3]

theorem imad (w : BitVec 1) (d : BitVec 7) (a : BitVec 8) (b : BitVec 8) : Statement (.imad w d a b) := by
  intro _ _ x hx
  obtain ⟨h0, h1, r0, r1, r2, r3⟩ := fieldsA (k := 0x55) (by decide) w d a b (Option.some.inj hx)
  rw [at5 h0, decode5, h1]
  show Instr.imad (field x.toNat 23 1) (field x.toNat 16 7) (field x.toNat 8 8) (field x.toNat 0 8) = _
  rw [r0, r1, r2, r3]

theorem iminI32 (w : BitVec 1) (d : BitVec 7) (a : BitVec 8) (b : BitVec 8) : Statement (.iminI32 w d a b) := by
  intro _ _ x hx
  obtain ⟨h0, h1, r0, r1, r2, r3⟩ := fieldsA (k := 0x56) (by decide) w d a b (Option.some.inj hx)
  rw [at5 h0, decode5, h1]
  show Instr.iminI32 (field x.toNat 23 1) (field x.toNat 16 7) (field x.toNat 8 8) (field x.toNat 0 8) = _
  rw [r0, r1, r2, r3]

theorem iminN32 (w : BitVec 1) (d : BitVec 7) (a : BitVec 8) (b : BitVec 8) : Statement (.iminN32 w d a b) := by
  intro _ _ x hx
  obtain ⟨h0, h1, r0, r1, r2, r3⟩ := fieldsA (k := 0x57) (by decide) w d a b (Option.some.inj hx)
  rw [at5 h0, decode5, h1]
  show Instr.iminN32 (field x.toNat 23 1) (field x.toNat 16 7) (field x.toNat 8 8) (field x.toNat 0 8) = _
  rw [r0, r1, r2, r3]

theorem imaxI32 (w : BitVec 1) (d : BitVec 7) (a : BitVec 8) (b : BitVec 8) : Statement (.imaxI32 w d a b) := by
  intro _ _ x hx
  obtain ⟨h0, h1, r0, r1, r2, r3⟩ := fieldsA (k := 0x58) (by decide) w d a b (Option.some.inj hx)
  rw [at5 h0, decode5, h1]
  show Instr.imaxI32 (field x.toNat 23 1) (field x.toNat 16 7) (field x.toNat 8 8) (field x.toNat 0 8) = _
  rw [r0, r1, r2, r3]

theorem imaxN32 (w : BitVec 1) (d : BitVec 7) (a : BitVec 8) (b : BitVec 8) : Statement (.imaxN32 w d a b) := by
  intro _ _ x hx
  obtain ⟨h0, h1, r0, r1, r2, r3⟩ := fieldsA (k := 0x59) (by decide) w d a b (Option.some.inj hx)
  rw [at5 h0, decode5, h1]
  show Instr.imaxN32 (field x.toNat 23 1) (field x.toNat 16 7) (field x.toNat 8 8) (field x.toNat 0 8) = _
  rw [r0, r1, r2, r3]

theorem iabs (w : BitVec 1) (d : BitVec 7) (a : BitVec 8) : Statement (.iabs w d a) := by
  intro _ _ x hx
  obtain ⟨h0, h1, g0, r0, r1, r2⟩ := fieldsA1 (k := 0x5A) (by decide) w d a (Option.some.inj hx)
  rw [at5 h0, decode5, h1]
  refine (if_pos (by rw [g0]; rfl)).trans ?_
  show Instr.iabs (field x.toNat 23 1) (field x.toNat 16 7) (field x.toNat 8 8) = _
  rw [r0, r1, r2]

theorem icmpI32 (c : BitVec 4) (p : BitVec 3) (m : BitVec 1) (a : BitVec 8) (b : BitVec 8) : Statement (.icmpI32 c p m a b) := by
  intro _ _ x hx
  obtain ⟨h0, h1, r0, r1, r2, r3, r4⟩ := fieldsP (k := 0x5B) (by decide) c p m a b (Option.some.inj hx)
  rw [at5 h0, decode5, h1]
  show Instr.icmpI32 (field x.toNat 20 4) (field x.toNat 17 3) (field x.toNat 16 1) (field x.toNat 8 8) (field x.toNat 0 8) = _
  rw [r0, r1, r2, r3, r4]

theorem icmpN32 (c : BitVec 4) (p : BitVec 3) (m : BitVec 1) (a : BitVec 8) (b : BitVec 8) : Statement (.icmpN32 c p m a b) := by
  intro _ _ x hx
  obtain ⟨h0, h1, r0, r1, r2, r3, r4⟩ := fieldsP (k := 0x5C) (by decide) c p m a b (Option.some.inj hx)
  rw [at5 h0, decode5, h1]
  show Instr.icmpN32 (field x.toNat 20 4) (field x.toNat 17 3) (field x.toNat 16 1) (field x.toNat 8 8) (field x.toNat 0 8) = _
  rw [r0, r1, r2, r3, r4]

theorem lea (w : BitVec 1) (d : BitVec 7) (a : BitVec 8) (b : BitVec 8) : Statement (.lea w d a b) := by
  intro _ _ x hx
  obtain ⟨h0, h1, r0, r1, r2, r3⟩ := fieldsA (k := 0x5D) (by decide) w d a b (Option.some.inj hx)
  rw [at5 h0, decode5, h1]
  show Instr.lea (field x.toNat 23 1) (field x.toNat 16 7) (field x.toNat 8 8) (field x.toNat 0 8) = _
  rw [r0, r1, r2, r3]

theorem mov (w : BitVec 1) (d : BitVec 7) (a : BitVec 8) (r : BitVec 1) (t : BitVec 4) : Statement (.mov w d a r t) := by
  intro _ _ x hx
  have hw := w.isLt
  have hd := d.isLt
  have ha := a.isLt
  have hr := r.isLt
  have ht := t.isLt
  have ex := word_nat (n := 0x60000000 + w.toNat * 2 ^ 23 + d.toNat * 2 ^ 16 + a.toNat * 2 ^ 8 + r.toNat * 2 ^ 4 + t.toNat * 2 ^ 0) (Option.some.inj hx) (by omega)
  have f0 : bits x.toNat 28 4 = 6 := by rw [ex]; simp only [bits]; omega
  have f1 : bits x.toNat 24 4 = 0 := by rw [ex]; simp only [bits]; omega
  have f2 : bits x.toNat 5 3 = 0 := by rw [ex]; simp only [bits]; omega
  rw [at6 f0, decode6, f1]
  refine (if_pos (by rw [f2]; rfl)).trans ?_
  show Instr.mov (field x.toNat 23 1) (field x.toNat 16 7) (field x.toNat 8 8) (field x.toNat 4 1) (field x.toNat 0 4) = _
  rw [field_of (v := w) (lo := 23) (by rw [ex]; omega), field_of (v := d) (lo := 16) (by rw [ex]; omega), field_of (v := a) (lo := 8) (by rw [ex]; omega), field_of (v := r) (lo := 4) (by rw [ex]; omega), field_of (v := t) (lo := 0) (by rw [ex]; omega)]

theorem movi (w : BitVec 1) (d : BitVec 7) (i : BitVec 16) : Statement (.movi w d i) := by
  intro _ _ x hx
  have hw := w.isLt
  have hd := d.isLt
  have hi := i.isLt
  have ex := word_nat (n := 0x61000000 + w.toNat * 2 ^ 23 + d.toNat * 2 ^ 16 + i.toNat * 2 ^ 0) (Option.some.inj hx) (by omega)
  have f0 : bits x.toNat 28 4 = 6 := by rw [ex]; simp only [bits]; omega
  have f1 : bits x.toNat 24 4 = 1 := by rw [ex]; simp only [bits]; omega
  rw [at6 f0, decode6, f1]
  show Instr.movi (field x.toNat 23 1) (field x.toNat 16 7) (field x.toNat 0 16) = _
  rw [field_of (v := w) (lo := 23) (by rw [ex]; omega), field_of (v := d) (lo := 16) (by rw [ex]; omega), field_of (v := i) (lo := 0) (by rw [ex]; omega)]

theorem sel (w : BitVec 1) (d : BitVec 7) (a : BitVec 8) (b : BitVec 8) : Statement (.sel w d a b) := by
  intro _ _ x hx
  obtain ⟨h0, h1, r0, r1, r2, r3⟩ := fieldsA (k := 0x62) (by decide) w d a b (Option.some.inj hx)
  rw [at6 h0, decode6, h1]
  show Instr.sel (field x.toNat 23 1) (field x.toNat 16 7) (field x.toNat 8 8) (field x.toNat 0 8) = _
  rw [r0, r1, r2, r3]

theorem shfl (w : BitVec 1) (d : BitVec 7) (a : BitVec 8) (b : BitVec 8) : Statement (.shfl w d a b) := by
  intro _ _ x hx
  obtain ⟨h0, h1, r0, r1, r2, r3⟩ := fieldsA (k := 0x63) (by decide) w d a b (Option.some.inj hx)
  rw [at6 h0, decode6, h1]
  show Instr.shfl (field x.toNat 23 1) (field x.toNat 16 7) (field x.toNat 8 8) (field x.toNat 0 8) = _
  rw [r0, r1, r2, r3]

theorem vote (d : BitVec 6) (p : BitVec 3) (b : BitVec 8) : Statement (.vote d p b) := by
  intro _ _ x hx
  have hd := d.isLt
  have hp := p.isLt
  have hb := b.isLt
  have ex := word_nat (n := 0x64000000 + d.toNat * 2 ^ 16 + p.toNat * 2 ^ 8 + b.toNat * 2 ^ 0) (Option.some.inj hx) (by omega)
  have f0 : bits x.toNat 28 4 = 6 := by rw [ex]; simp only [bits]; omega
  have f1 : bits x.toNat 24 4 = 4 := by rw [ex]; simp only [bits]; omega
  have f2 : bits x.toNat 22 2 = 0 := by rw [ex]; simp only [bits]; omega
  have f3 : bits x.toNat 11 5 = 0 := by rw [ex]; simp only [bits]; omega
  rw [at6 f0, decode6, f1]
  refine (if_pos (by rw [f2, f3]; rfl)).trans ?_
  show Instr.vote (field x.toNat 16 6) (field x.toNat 8 3) (field x.toNat 0 8) = _
  rw [field_of (v := d) (lo := 16) (by rw [ex]; omega), field_of (v := p) (lo := 8) (by rw [ex]; omega), field_of (v := b) (lo := 0) (by rw [ex]; omega)]

theorem redl (w : BitVec 1) (d : BitVec 6) (a : BitVec 8) (b : BitVec 8) : Statement (.redl w d a b) := by
  intro _ _ x hx
  have hw := w.isLt
  have hd := d.isLt
  have ha := a.isLt
  have hb := b.isLt
  have ex := word_nat (n := 0x65000000 + w.toNat * 2 ^ 23 + d.toNat * 2 ^ 16 + a.toNat * 2 ^ 8 + b.toNat * 2 ^ 0) (Option.some.inj hx) (by omega)
  have f0 : bits x.toNat 28 4 = 6 := by rw [ex]; simp only [bits]; omega
  have f1 : bits x.toNat 24 4 = 5 := by rw [ex]; simp only [bits]; omega
  have f2 : bits x.toNat 22 1 = 0 := by rw [ex]; simp only [bits]; omega
  rw [at6 f0, decode6, f1]
  refine (if_pos (by rw [f2]; rfl)).trans ?_
  show Instr.redl (field x.toNat 23 1) (field x.toNat 16 6) (field x.toNat 8 8) (field x.toNat 0 8) = _
  rw [field_of (v := w) (lo := 23) (by rw [ex]; omega), field_of (v := d) (lo := 16) (by rw [ex]; omega), field_of (v := a) (lo := 8) (by rw [ex]; omega), field_of (v := b) (lo := 0) (by rw [ex]; omega)]

theorem srdl (d : BitVec 6) (a : BitVec 8) (b : BitVec 8) : Statement (.srdl d a b) := by
  intro _ _ x hx
  obtain ⟨h0, h1, g0, r0, r1, r2⟩ := fieldsS (k := 0x66) (by decide) d a b (Option.some.inj hx)
  rw [at6 h0, decode6, h1]
  refine (if_pos (by rw [g0]; rfl)).trans ?_
  show Instr.srdl (field x.toNat 16 6) (field x.toNat 8 8) (field x.toNat 0 8) = _
  rw [r0, r1, r2]

theorem fadd (w : BitVec 1) (d : BitVec 7) (a : BitVec 8) (b : BitVec 8) : Statement (.fadd w d a b) := by
  intro _ _ x hx
  obtain ⟨h0, h1, r0, r1, r2, r3⟩ := fieldsA (k := 0x68) (by decide) w d a b (Option.some.inj hx)
  rw [at6 h0, decode6, h1]
  show Instr.fadd (field x.toNat 23 1) (field x.toNat 16 7) (field x.toNat 8 8) (field x.toNat 0 8) = _
  rw [r0, r1, r2, r3]

theorem fsub (w : BitVec 1) (d : BitVec 7) (a : BitVec 8) (b : BitVec 8) : Statement (.fsub w d a b) := by
  intro _ _ x hx
  obtain ⟨h0, h1, r0, r1, r2, r3⟩ := fieldsA (k := 0x69) (by decide) w d a b (Option.some.inj hx)
  rw [at6 h0, decode6, h1]
  show Instr.fsub (field x.toNat 23 1) (field x.toNat 16 7) (field x.toNat 8 8) (field x.toNat 0 8) = _
  rw [r0, r1, r2, r3]

theorem fmul (w : BitVec 1) (d : BitVec 7) (a : BitVec 8) (b : BitVec 8) : Statement (.fmul w d a b) := by
  intro _ _ x hx
  obtain ⟨h0, h1, r0, r1, r2, r3⟩ := fieldsA (k := 0x6A) (by decide) w d a b (Option.some.inj hx)
  rw [at6 h0, decode6, h1]
  show Instr.fmul (field x.toNat 23 1) (field x.toNat 16 7) (field x.toNat 8 8) (field x.toNat 0 8) = _
  rw [r0, r1, r2, r3]

theorem ffma (w : BitVec 1) (d : BitVec 7) (a : BitVec 8) (b : BitVec 8) : Statement (.ffma w d a b) := by
  intro _ _ x hx
  obtain ⟨h0, h1, r0, r1, r2, r3⟩ := fieldsA (k := 0x6B) (by decide) w d a b (Option.some.inj hx)
  rw [at6 h0, decode6, h1]
  show Instr.ffma (field x.toNat 23 1) (field x.toNat 16 7) (field x.toNat 8 8) (field x.toNat 0 8) = _
  rw [r0, r1, r2, r3]

theorem fmin (w : BitVec 1) (d : BitVec 7) (a : BitVec 8) (b : BitVec 8) : Statement (.fmin w d a b) := by
  intro _ _ x hx
  obtain ⟨h0, h1, r0, r1, r2, r3⟩ := fieldsA (k := 0x6C) (by decide) w d a b (Option.some.inj hx)
  rw [at6 h0, decode6, h1]
  show Instr.fmin (field x.toNat 23 1) (field x.toNat 16 7) (field x.toNat 8 8) (field x.toNat 0 8) = _
  rw [r0, r1, r2, r3]

theorem fmax (w : BitVec 1) (d : BitVec 7) (a : BitVec 8) (b : BitVec 8) : Statement (.fmax w d a b) := by
  intro _ _ x hx
  obtain ⟨h0, h1, r0, r1, r2, r3⟩ := fieldsA (k := 0x6D) (by decide) w d a b (Option.some.inj hx)
  rw [at6 h0, decode6, h1]
  show Instr.fmax (field x.toNat 23 1) (field x.toNat 16 7) (field x.toNat 8 8) (field x.toNat 0 8) = _
  rw [r0, r1, r2, r3]

theorem fabs (w : BitVec 1) (d : BitVec 7) (a : BitVec 8) : Statement (.fabs w d a) := by
  intro _ _ x hx
  obtain ⟨h0, h1, g0, r0, r1, r2⟩ := fieldsA1 (k := 0x6E) (by decide) w d a (Option.some.inj hx)
  rw [at6 h0, decode6, h1]
  refine (if_pos (by rw [g0]; rfl)).trans ?_
  show Instr.fabs (field x.toNat 23 1) (field x.toNat 16 7) (field x.toNat 8 8) = _
  rw [r0, r1, r2]

theorem fneg (w : BitVec 1) (d : BitVec 7) (a : BitVec 8) : Statement (.fneg w d a) := by
  intro _ _ x hx
  obtain ⟨h0, h1, g0, r0, r1, r2⟩ := fieldsA1 (k := 0x6F) (by decide) w d a (Option.some.inj hx)
  rw [at6 h0, decode6, h1]
  refine (if_pos (by rw [g0]; rfl)).trans ?_
  show Instr.fneg (field x.toNat 23 1) (field x.toNat 16 7) (field x.toNat 8 8) = _
  rw [r0, r1, r2]

theorem fclamp (w : BitVec 1) (d : BitVec 7) (a : BitVec 8) (b : BitVec 8) : Statement (.fclamp w d a b) := by
  intro _ _ x hx
  obtain ⟨h0, h1, r0, r1, r2, r3⟩ := fieldsA (k := 0x70) (by decide) w d a b (Option.some.inj hx)
  rw [at7 h0, decode7, h1]
  show Instr.fclamp (field x.toNat 23 1) (field x.toNat 16 7) (field x.toNat 8 8) (field x.toNat 0 8) = _
  rw [r0, r1, r2, r3]

theorem fcmp (c : BitVec 4) (p : BitVec 3) (m : BitVec 1) (a : BitVec 8) (b : BitVec 8) : Statement (.fcmp c p m a b) := by
  intro _ _ x hx
  obtain ⟨h0, h1, r0, r1, r2, r3, r4⟩ := fieldsP (k := 0x71) (by decide) c p m a b (Option.some.inj hx)
  rw [at7 h0, decode7, h1]
  show Instr.fcmp (field x.toNat 20 4) (field x.toNat 17 3) (field x.toNat 16 1) (field x.toNat 8 8) (field x.toNat 0 8) = _
  rw [r0, r1, r2, r3, r4]

theorem fexp2 (w : BitVec 1) (d : BitVec 7) (a : BitVec 8) : Statement (.fexp2 w d a) := by
  intro _ _ x hx
  obtain ⟨h0, h1, g0, r0, r1, r2⟩ := fieldsA1 (k := 0x72) (by decide) w d a (Option.some.inj hx)
  rw [at7 h0, decode7, h1]
  refine (if_pos (by rw [g0]; rfl)).trans ?_
  show Instr.fexp2 (field x.toNat 23 1) (field x.toNat 16 7) (field x.toNat 8 8) = _
  rw [r0, r1, r2]

theorem flog2 (w : BitVec 1) (d : BitVec 7) (a : BitVec 8) : Statement (.flog2 w d a) := by
  intro _ _ x hx
  obtain ⟨h0, h1, g0, r0, r1, r2⟩ := fieldsA1 (k := 0x73) (by decide) w d a (Option.some.inj hx)
  rw [at7 h0, decode7, h1]
  refine (if_pos (by rw [g0]; rfl)).trans ?_
  show Instr.flog2 (field x.toNat 23 1) (field x.toNat 16 7) (field x.toNat 8 8) = _
  rw [r0, r1, r2]

theorem frcp (w : BitVec 1) (d : BitVec 7) (a : BitVec 8) : Statement (.frcp w d a) := by
  intro _ _ x hx
  obtain ⟨h0, h1, g0, r0, r1, r2⟩ := fieldsA1 (k := 0x74) (by decide) w d a (Option.some.inj hx)
  rw [at7 h0, decode7, h1]
  refine (if_pos (by rw [g0]; rfl)).trans ?_
  show Instr.frcp (field x.toNat 23 1) (field x.toNat 16 7) (field x.toNat 8 8) = _
  rw [r0, r1, r2]

theorem frsq (w : BitVec 1) (d : BitVec 7) (a : BitVec 8) : Statement (.frsq w d a) := by
  intro _ _ x hx
  obtain ⟨h0, h1, g0, r0, r1, r2⟩ := fieldsA1 (k := 0x75) (by decide) w d a (Option.some.inj hx)
  rw [at7 h0, decode7, h1]
  refine (if_pos (by rw [g0]; rfl)).trans ?_
  show Instr.frsq (field x.toNat 23 1) (field x.toNat 16 7) (field x.toNat 8 8) = _
  rw [r0, r1, r2]

theorem fsqrt (w : BitVec 1) (d : BitVec 7) (a : BitVec 8) : Statement (.fsqrt w d a) := by
  intro _ _ x hx
  obtain ⟨h0, h1, g0, r0, r1, r2⟩ := fieldsA1 (k := 0x76) (by decide) w d a (Option.some.inj hx)
  rw [at7 h0, decode7, h1]
  refine (if_pos (by rw [g0]; rfl)).trans ?_
  show Instr.fsqrt (field x.toNat 23 1) (field x.toNat 16 7) (field x.toNat 8 8) = _
  rw [r0, r1, r2]

theorem ftanh (w : BitVec 1) (d : BitVec 7) (a : BitVec 8) : Statement (.ftanh w d a) := by
  intro _ _ x hx
  obtain ⟨h0, h1, g0, r0, r1, r2⟩ := fieldsA1 (k := 0x77) (by decide) w d a (Option.some.inj hx)
  rw [at7 h0, decode7, h1]
  refine (if_pos (by rw [g0]; rfl)).trans ?_
  show Instr.ftanh (field x.toNat 23 1) (field x.toNat 16 7) (field x.toNat 8 8) = _
  rw [r0, r1, r2]

theorem hadd2F16 (w : BitVec 1) (d : BitVec 7) (a : BitVec 8) (b : BitVec 8) : Statement (.hadd2F16 w d a b) := by
  intro _ _ x hx
  obtain ⟨h0, h1, r0, r1, r2, r3⟩ := fieldsA (k := 0x78) (by decide) w d a b (Option.some.inj hx)
  rw [at7 h0, decode7, h1]
  show Instr.hadd2F16 (field x.toNat 23 1) (field x.toNat 16 7) (field x.toNat 8 8) (field x.toNat 0 8) = _
  rw [r0, r1, r2, r3]

theorem hadd2Bf16 (w : BitVec 1) (d : BitVec 7) (a : BitVec 8) (b : BitVec 8) : Statement (.hadd2Bf16 w d a b) := by
  intro _ _ x hx
  obtain ⟨h0, h1, r0, r1, r2, r3⟩ := fieldsA (k := 0x79) (by decide) w d a b (Option.some.inj hx)
  rw [at7 h0, decode7, h1]
  show Instr.hadd2Bf16 (field x.toNat 23 1) (field x.toNat 16 7) (field x.toNat 8 8) (field x.toNat 0 8) = _
  rw [r0, r1, r2, r3]

theorem hmul2F16 (w : BitVec 1) (d : BitVec 7) (a : BitVec 8) (b : BitVec 8) : Statement (.hmul2F16 w d a b) := by
  intro _ _ x hx
  obtain ⟨h0, h1, r0, r1, r2, r3⟩ := fieldsA (k := 0x7A) (by decide) w d a b (Option.some.inj hx)
  rw [at7 h0, decode7, h1]
  show Instr.hmul2F16 (field x.toNat 23 1) (field x.toNat 16 7) (field x.toNat 8 8) (field x.toNat 0 8) = _
  rw [r0, r1, r2, r3]

theorem hmul2Bf16 (w : BitVec 1) (d : BitVec 7) (a : BitVec 8) (b : BitVec 8) : Statement (.hmul2Bf16 w d a b) := by
  intro _ _ x hx
  obtain ⟨h0, h1, r0, r1, r2, r3⟩ := fieldsA (k := 0x7B) (by decide) w d a b (Option.some.inj hx)
  rw [at7 h0, decode7, h1]
  show Instr.hmul2Bf16 (field x.toNat 23 1) (field x.toNat 16 7) (field x.toNat 8 8) (field x.toNat 0 8) = _
  rw [r0, r1, r2, r3]

theorem hfma2F16 (w : BitVec 1) (d : BitVec 7) (a : BitVec 8) (b : BitVec 8) : Statement (.hfma2F16 w d a b) := by
  intro _ _ x hx
  obtain ⟨h0, h1, r0, r1, r2, r3⟩ := fieldsA (k := 0x7C) (by decide) w d a b (Option.some.inj hx)
  rw [at7 h0, decode7, h1]
  show Instr.hfma2F16 (field x.toNat 23 1) (field x.toNat 16 7) (field x.toNat 8 8) (field x.toNat 0 8) = _
  rw [r0, r1, r2, r3]

theorem hfma2Bf16 (w : BitVec 1) (d : BitVec 7) (a : BitVec 8) (b : BitVec 8) : Statement (.hfma2Bf16 w d a b) := by
  intro _ _ x hx
  obtain ⟨h0, h1, r0, r1, r2, r3⟩ := fieldsA (k := 0x7D) (by decide) w d a b (Option.some.inj hx)
  rw [at7 h0, decode7, h1]
  show Instr.hfma2Bf16 (field x.toNat 23 1) (field x.toNat 16 7) (field x.toNat 8 8) (field x.toNat 0 8) = _
  rw [r0, r1, r2, r3]

theorem cvt (w : BitVec 1) (d : BitVec 7) (a : BitVec 8) (r : BitVec 4) (s : BitVec 4) : Statement (.cvt w d a r s) := by
  intro _ _ x hx
  have hw := w.isLt
  have hd := d.isLt
  have ha := a.isLt
  have hr := r.isLt
  have hs := s.isLt
  have ex := word_nat (n := 0x90000000 + w.toNat * 2 ^ 23 + d.toNat * 2 ^ 16 + a.toNat * 2 ^ 8 + r.toNat * 2 ^ 4 + s.toNat * 2 ^ 0) (Option.some.inj hx) (by omega)
  have f0 : bits x.toNat 28 4 = 9 := by rw [ex]; simp only [bits]; omega
  have f1 : bits x.toNat 24 4 = 0 := by rw [ex]; simp only [bits]; omega
  rw [at9 f0, decode9, f1]
  show Instr.cvt (field x.toNat 23 1) (field x.toNat 16 7) (field x.toNat 8 8) (field x.toNat 4 4) (field x.toNat 0 4) = _
  rw [field_of (v := w) (lo := 23) (by rw [ex]; omega), field_of (v := d) (lo := 16) (by rw [ex]; omega), field_of (v := a) (lo := 8) (by rw [ex]; omega), field_of (v := r) (lo := 4) (by rw [ex]; omega), field_of (v := s) (lo := 0) (by rw [ex]; omega)]

theorem qcvt (w : BitVec 1) (d : BitVec 7) (a : BitVec 8) (r : BitVec 4) (s : BitVec 4) : Statement (.qcvt w d a r s) := by
  intro _ _ x hx
  have hw := w.isLt
  have hd := d.isLt
  have ha := a.isLt
  have hr := r.isLt
  have hs := s.isLt
  have ex := word_nat (n := 0x91000000 + w.toNat * 2 ^ 23 + d.toNat * 2 ^ 16 + a.toNat * 2 ^ 8 + r.toNat * 2 ^ 4 + s.toNat * 2 ^ 0) (Option.some.inj hx) (by omega)
  have f0 : bits x.toNat 28 4 = 9 := by rw [ex]; simp only [bits]; omega
  have f1 : bits x.toNat 24 4 = 1 := by rw [ex]; simp only [bits]; omega
  rw [at9 f0, decode9, f1]
  show Instr.qcvt (field x.toNat 23 1) (field x.toNat 16 7) (field x.toNat 8 8) (field x.toNat 4 4) (field x.toNat 0 4) = _
  rw [field_of (v := w) (lo := 23) (by rw [ex]; omega), field_of (v := d) (lo := 16) (by rw [ex]; omega), field_of (v := a) (lo := 8) (by rw [ex]; omega), field_of (v := r) (lo := 4) (by rw [ex]; omega), field_of (v := s) (lo := 0) (by rw [ex]; omega)]

theorem qunp (w : BitVec 1) (d : BitVec 7) (a : BitVec 8) (r : BitVec 4) (s : BitVec 4) : Statement (.qunp w d a r s) := by
  intro _ _ x hx
  have hw := w.isLt
  have hd := d.isLt
  have ha := a.isLt
  have hr := r.isLt
  have hs := s.isLt
  have ex := word_nat (n := 0x92000000 + w.toNat * 2 ^ 23 + d.toNat * 2 ^ 16 + a.toNat * 2 ^ 8 + r.toNat * 2 ^ 4 + s.toNat * 2 ^ 0) (Option.some.inj hx) (by omega)
  have f0 : bits x.toNat 28 4 = 9 := by rw [ex]; simp only [bits]; omega
  have f1 : bits x.toNat 24 4 = 2 := by rw [ex]; simp only [bits]; omega
  rw [at9 f0, decode9, f1]
  show Instr.qunp (field x.toNat 23 1) (field x.toNat 16 7) (field x.toNat 8 8) (field x.toNat 4 4) (field x.toNat 0 4) = _
  rw [field_of (v := w) (lo := 23) (by rw [ex]; omega), field_of (v := d) (lo := 16) (by rw [ex]; omega), field_of (v := a) (lo := 8) (by rw [ex]; omega), field_of (v := r) (lo := 4) (by rw [ex]; omega), field_of (v := s) (lo := 0) (by rw [ex]; omega)]

theorem ldB32 (d : BitVec 7) (a : BitVec 7) (m : BitVec 1) (s : BitVec 4) (c : BitVec 3) (o : BitVec 2) : Statement (.ldB32 d a m s c o) := by
  intro _ _ x hx
  obtain ⟨h0, h1, r0, r1, r2, r3, r4, r5⟩ := fieldsM (k := 0xA0) (by decide) d a m s c o (Option.some.inj hx)
  rw [atA h0, decodeA, h1]
  show Instr.ldB32 (field x.toNat 17 7) (field x.toNat 10 7) (field x.toNat 9 1) (field x.toNat 5 4) (field x.toNat 2 3) (field x.toNat 0 2) = _
  rw [r0, r1, r2, r3, r4, r5]

theorem ldF32 (d : BitVec 7) (a : BitVec 7) (m : BitVec 1) (s : BitVec 4) (c : BitVec 3) (o : BitVec 2) : Statement (.ldF32 d a m s c o) := by
  intro _ _ x hx
  obtain ⟨h0, h1, r0, r1, r2, r3, r4, r5⟩ := fieldsM (k := 0xA1) (by decide) d a m s c o (Option.some.inj hx)
  rw [atA h0, decodeA, h1]
  show Instr.ldF32 (field x.toNat 17 7) (field x.toNat 10 7) (field x.toNat 9 1) (field x.toNat 5 4) (field x.toNat 2 3) (field x.toNat 0 2) = _
  rw [r0, r1, r2, r3, r4, r5]

theorem ldI32 (d : BitVec 7) (a : BitVec 7) (m : BitVec 1) (s : BitVec 4) (c : BitVec 3) (o : BitVec 2) : Statement (.ldI32 d a m s c o) := by
  intro _ _ x hx
  obtain ⟨h0, h1, r0, r1, r2, r3, r4, r5⟩ := fieldsM (k := 0xA2) (by decide) d a m s c o (Option.some.inj hx)
  rw [atA h0, decodeA, h1]
  show Instr.ldI32 (field x.toNat 17 7) (field x.toNat 10 7) (field x.toNat 9 1) (field x.toNat 5 4) (field x.toNat 2 3) (field x.toNat 0 2) = _
  rw [r0, r1, r2, r3, r4, r5]

theorem ldN32 (d : BitVec 7) (a : BitVec 7) (m : BitVec 1) (s : BitVec 4) (c : BitVec 3) (o : BitVec 2) : Statement (.ldN32 d a m s c o) := by
  intro _ _ x hx
  obtain ⟨h0, h1, r0, r1, r2, r3, r4, r5⟩ := fieldsM (k := 0xA3) (by decide) d a m s c o (Option.some.inj hx)
  rw [atA h0, decodeA, h1]
  show Instr.ldN32 (field x.toNat 17 7) (field x.toNat 10 7) (field x.toNat 9 1) (field x.toNat 5 4) (field x.toNat 2 3) (field x.toNat 0 2) = _
  rw [r0, r1, r2, r3, r4, r5]

theorem ldF16 (d : BitVec 7) (a : BitVec 7) (m : BitVec 1) (s : BitVec 4) (c : BitVec 3) (o : BitVec 2) : Statement (.ldF16 d a m s c o) := by
  intro _ _ x hx
  obtain ⟨h0, h1, r0, r1, r2, r3, r4, r5⟩ := fieldsM (k := 0xA4) (by decide) d a m s c o (Option.some.inj hx)
  rw [atA h0, decodeA, h1]
  show Instr.ldF16 (field x.toNat 17 7) (field x.toNat 10 7) (field x.toNat 9 1) (field x.toNat 5 4) (field x.toNat 2 3) (field x.toNat 0 2) = _
  rw [r0, r1, r2, r3, r4, r5]

theorem ldBf16 (d : BitVec 7) (a : BitVec 7) (m : BitVec 1) (s : BitVec 4) (c : BitVec 3) (o : BitVec 2) : Statement (.ldBf16 d a m s c o) := by
  intro _ _ x hx
  obtain ⟨h0, h1, r0, r1, r2, r3, r4, r5⟩ := fieldsM (k := 0xA5) (by decide) d a m s c o (Option.some.inj hx)
  rw [atA h0, decodeA, h1]
  show Instr.ldBf16 (field x.toNat 17 7) (field x.toNat 10 7) (field x.toNat 9 1) (field x.toNat 5 4) (field x.toNat 2 3) (field x.toNat 0 2) = _
  rw [r0, r1, r2, r3, r4, r5]

theorem ldE4m3 (d : BitVec 7) (a : BitVec 7) (m : BitVec 1) (s : BitVec 4) (c : BitVec 3) (o : BitVec 2) : Statement (.ldE4m3 d a m s c o) := by
  intro _ _ x hx
  obtain ⟨h0, h1, r0, r1, r2, r3, r4, r5⟩ := fieldsM (k := 0xA6) (by decide) d a m s c o (Option.some.inj hx)
  rw [atA h0, decodeA, h1]
  show Instr.ldE4m3 (field x.toNat 17 7) (field x.toNat 10 7) (field x.toNat 9 1) (field x.toNat 5 4) (field x.toNat 2 3) (field x.toNat 0 2) = _
  rw [r0, r1, r2, r3, r4, r5]

theorem ldI64 (d : BitVec 7) (a : BitVec 7) (m : BitVec 1) (s : BitVec 4) (c : BitVec 3) (o : BitVec 2) : Statement (.ldI64 d a m s c o) := by
  intro _ _ x hx
  obtain ⟨h0, h1, r0, r1, r2, r3, r4, r5⟩ := fieldsM (k := 0xA7) (by decide) d a m s c o (Option.some.inj hx)
  rw [atA h0, decodeA, h1]
  show Instr.ldI64 (field x.toNat 17 7) (field x.toNat 10 7) (field x.toNat 9 1) (field x.toNat 5 4) (field x.toNat 2 3) (field x.toNat 0 2) = _
  rw [r0, r1, r2, r3, r4, r5]

theorem loadReturn (load : Nat) (lanes : Vector Dword 32) (poison : Bool) : Statement (.loadReturn load lanes poison) := of_none rfl

theorem stB32 (d : BitVec 7) (a : BitVec 7) (m : BitVec 1) (s : BitVec 4) (c : BitVec 3) (o : BitVec 2) : Statement (.stB32 d a m s c o) := by
  intro _ _ x hx
  obtain ⟨h0, h1, r0, r1, r2, r3, r4, r5⟩ := fieldsM (k := 0xA8) (by decide) d a m s c o (Option.some.inj hx)
  rw [atA h0, decodeA, h1]
  show Instr.stB32 (field x.toNat 17 7) (field x.toNat 10 7) (field x.toNat 9 1) (field x.toNat 5 4) (field x.toNat 2 3) (field x.toNat 0 2) = _
  rw [r0, r1, r2, r3, r4, r5]

theorem stI64 (d : BitVec 7) (a : BitVec 7) (m : BitVec 1) (s : BitVec 4) (c : BitVec 3) (o : BitVec 2) : Statement (.stI64 d a m s c o) := by
  intro _ _ x hx
  obtain ⟨h0, h1, r0, r1, r2, r3, r4, r5⟩ := fieldsM (k := 0xA9) (by decide) d a m s c o (Option.some.inj hx)
  rw [atA h0, decodeA, h1]
  show Instr.stI64 (field x.toNat 17 7) (field x.toNat 10 7) (field x.toNat 9 1) (field x.toNat 5 4) (field x.toNat 2 3) (field x.toNat 0 2) = _
  rw [r0, r1, r2, r3, r4, r5]

theorem fence (u : BitVec 1) (c : BitVec 3) (k : BitVec 16) : Statement (.fence u c k) := by
  intro _ _ x hx
  have hu := u.isLt
  have hc := c.isLt
  have hk := k.isLt
  have ex := word_nat (n := 0xAA000000 + u.toNat * 2 ^ 19 + c.toNat * 2 ^ 16 + k.toNat * 2 ^ 0) (Option.some.inj hx) (by omega)
  have f0 : bits x.toNat 28 4 = 10 := by rw [ex]; simp only [bits]; omega
  have f1 : bits x.toNat 24 4 = 10 := by rw [ex]; simp only [bits]; omega
  have f2 : bits x.toNat 20 4 = 0 := by rw [ex]; simp only [bits]; omega
  rw [atA f0, decodeA, f1]
  refine (if_pos (by rw [f2]; rfl)).trans ?_
  show Instr.fence (field x.toNat 19 1) (field x.toNat 16 3) (field x.toNat 0 16) = _
  rw [field_of (v := u) (lo := 19) (by rw [ex]; omega), field_of (v := c) (lo := 16) (by rw [ex]; omega), field_of (v := k) (lo := 0) (by rw [ex]; omega)]

theorem wldN32 (d : BitVec 7) (a : BitVec 7) (m : BitVec 1) (s : BitVec 4) (o : BitVec 2) : Statement (.wldN32 d a m s o) := by
  intro _ _ x hx
  have hd := d.isLt
  have ha := a.isLt
  have hm := m.isLt
  have hs := s.isLt
  have ho := o.isLt
  have ex := word_nat (n := 0xAB000010 + d.toNat * 2 ^ 17 + a.toNat * 2 ^ 10 + m.toNat * 2 ^ 9 + s.toNat * 2 ^ 5 + o.toNat * 2 ^ 0) (Option.some.inj hx) (by omega)
  have f0 : bits x.toNat 28 4 = 10 := by rw [ex]; simp only [bits]; omega
  have f1 : bits x.toNat 24 4 = 11 := by rw [ex]; simp only [bits]; omega
  have f2 : bits x.toNat 2 3 = 4 := by rw [ex]; simp only [bits]; omega
  rw [atA f0, decodeA, f1]
  refine (if_pos (by rw [f2]; rfl)).trans ?_
  show Instr.wldN32 (field x.toNat 17 7) (field x.toNat 10 7) (field x.toNat 9 1) (field x.toNat 5 4) (field x.toNat 0 2) = _
  rw [field_of (v := d) (lo := 17) (by rw [ex]; omega), field_of (v := a) (lo := 10) (by rw [ex]; omega), field_of (v := m) (lo := 9) (by rw [ex]; omega), field_of (v := s) (lo := 5) (by rw [ex]; omega), field_of (v := o) (lo := 0) (by rw [ex]; omega)]

theorem wldN64 (d : BitVec 7) (a : BitVec 7) (m : BitVec 1) (s : BitVec 4) (o : BitVec 2) : Statement (.wldN64 d a m s o) := by
  intro _ _ x hx
  have hd := d.isLt
  have ha := a.isLt
  have hm := m.isLt
  have hs := s.isLt
  have ho := o.isLt
  have ex := word_nat (n := 0xAC000010 + d.toNat * 2 ^ 17 + a.toNat * 2 ^ 10 + m.toNat * 2 ^ 9 + s.toNat * 2 ^ 5 + o.toNat * 2 ^ 0) (Option.some.inj hx) (by omega)
  have f0 : bits x.toNat 28 4 = 10 := by rw [ex]; simp only [bits]; omega
  have f1 : bits x.toNat 24 4 = 12 := by rw [ex]; simp only [bits]; omega
  have f2 : bits x.toNat 2 3 = 4 := by rw [ex]; simp only [bits]; omega
  rw [atA f0, decodeA, f1]
  refine (if_pos (by rw [f2]; rfl)).trans ?_
  show Instr.wldN64 (field x.toNat 17 7) (field x.toNat 10 7) (field x.toNat 9 1) (field x.toNat 5 4) (field x.toNat 0 2) = _
  rw [field_of (v := d) (lo := 17) (by rw [ex]; omega), field_of (v := a) (lo := 10) (by rw [ex]; omega), field_of (v := m) (lo := 9) (by rw [ex]; omega), field_of (v := s) (lo := 5) (by rw [ex]; omega), field_of (v := o) (lo := 0) (by rw [ex]; omega)]

theorem pref (a : BitVec 7) (m : BitVec 1) (s : BitVec 4) (c : BitVec 3) : Statement (.pref a m s c) := by
  intro _ _ x hx
  have ha := a.isLt
  have hm := m.isLt
  have hs := s.isLt
  have hc := c.isLt
  have ex := word_nat (n := 0xAD000000 + a.toNat * 2 ^ 10 + m.toNat * 2 ^ 9 + s.toNat * 2 ^ 5 + c.toNat * 2 ^ 2) (Option.some.inj hx) (by omega)
  have f0 : bits x.toNat 28 4 = 10 := by rw [ex]; simp only [bits]; omega
  have f1 : bits x.toNat 24 4 = 13 := by rw [ex]; simp only [bits]; omega
  have f2 : bits x.toNat 17 7 = 0 := by rw [ex]; simp only [bits]; omega
  have f3 : bits x.toNat 0 2 = 0 := by rw [ex]; simp only [bits]; omega
  rw [atA f0, decodeA, f1]
  refine (if_pos (by rw [f2, f3]; rfl)).trans ?_
  show Instr.pref (field x.toNat 10 7) (field x.toNat 9 1) (field x.toNat 5 4) (field x.toNat 2 3) = _
  rw [field_of (v := a) (lo := 10) (by rw [ex]; omega), field_of (v := m) (lo := 9) (by rw [ex]; omega), field_of (v := s) (lo := 5) (by rw [ex]; omega), field_of (v := c) (lo := 2) (by rw [ex]; omega)]

theorem atomAdd (d : BitVec 7) (a : BitVec 7) (m : BitVec 1) (s : BitVec 4) (c : BitVec 3) (o : BitVec 2) : Statement (.atomAdd d a m s c o) := by
  intro _ _ x hx
  obtain ⟨h0, h1, r0, r1, r2, r3, r4, r5⟩ := fieldsM (k := 0xAE) (by decide) d a m s c o (Option.some.inj hx)
  rw [atA h0, decodeA, h1]
  show Instr.atomAdd (field x.toNat 17 7) (field x.toNat 10 7) (field x.toNat 9 1) (field x.toNat 5 4) (field x.toNat 2 3) (field x.toNat 0 2) = _
  rw [r0, r1, r2, r3, r4, r5]

theorem atomSmin (d : BitVec 7) (a : BitVec 7) (m : BitVec 1) (s : BitVec 4) (c : BitVec 3) (o : BitVec 2) : Statement (.atomSmin d a m s c o) := by
  intro _ _ x hx
  obtain ⟨h0, h1, r0, r1, r2, r3, r4, r5⟩ := fieldsM (k := 0xAF) (by decide) d a m s c o (Option.some.inj hx)
  rw [atA h0, decodeA, h1]
  show Instr.atomSmin (field x.toNat 17 7) (field x.toNat 10 7) (field x.toNat 9 1) (field x.toNat 5 4) (field x.toNat 2 3) (field x.toNat 0 2) = _
  rw [r0, r1, r2, r3, r4, r5]

theorem atomSmax (d : BitVec 7) (a : BitVec 7) (m : BitVec 1) (s : BitVec 4) (c : BitVec 3) (o : BitVec 2) : Statement (.atomSmax d a m s c o) := by
  intro _ _ x hx
  obtain ⟨h0, h1, r0, r1, r2, r3, r4, r5⟩ := fieldsM (k := 0xB0) (by decide) d a m s c o (Option.some.inj hx)
  rw [atB h0, decodeB, h1]
  show Instr.atomSmax (field x.toNat 17 7) (field x.toNat 10 7) (field x.toNat 9 1) (field x.toNat 5 4) (field x.toNat 2 3) (field x.toNat 0 2) = _
  rw [r0, r1, r2, r3, r4, r5]

theorem atomUmin (d : BitVec 7) (a : BitVec 7) (m : BitVec 1) (s : BitVec 4) (c : BitVec 3) (o : BitVec 2) : Statement (.atomUmin d a m s c o) := by
  intro _ _ x hx
  obtain ⟨h0, h1, r0, r1, r2, r3, r4, r5⟩ := fieldsM (k := 0xB1) (by decide) d a m s c o (Option.some.inj hx)
  rw [atB h0, decodeB, h1]
  show Instr.atomUmin (field x.toNat 17 7) (field x.toNat 10 7) (field x.toNat 9 1) (field x.toNat 5 4) (field x.toNat 2 3) (field x.toNat 0 2) = _
  rw [r0, r1, r2, r3, r4, r5]

theorem atomUmax (d : BitVec 7) (a : BitVec 7) (m : BitVec 1) (s : BitVec 4) (c : BitVec 3) (o : BitVec 2) : Statement (.atomUmax d a m s c o) := by
  intro _ _ x hx
  obtain ⟨h0, h1, r0, r1, r2, r3, r4, r5⟩ := fieldsM (k := 0xB2) (by decide) d a m s c o (Option.some.inj hx)
  rw [atB h0, decodeB, h1]
  show Instr.atomUmax (field x.toNat 17 7) (field x.toNat 10 7) (field x.toNat 9 1) (field x.toNat 5 4) (field x.toNat 2 3) (field x.toNat 0 2) = _
  rw [r0, r1, r2, r3, r4, r5]

theorem atomAnd (d : BitVec 7) (a : BitVec 7) (m : BitVec 1) (s : BitVec 4) (c : BitVec 3) (o : BitVec 2) : Statement (.atomAnd d a m s c o) := by
  intro _ _ x hx
  obtain ⟨h0, h1, r0, r1, r2, r3, r4, r5⟩ := fieldsM (k := 0xB3) (by decide) d a m s c o (Option.some.inj hx)
  rw [atB h0, decodeB, h1]
  show Instr.atomAnd (field x.toNat 17 7) (field x.toNat 10 7) (field x.toNat 9 1) (field x.toNat 5 4) (field x.toNat 2 3) (field x.toNat 0 2) = _
  rw [r0, r1, r2, r3, r4, r5]

theorem atomOr (d : BitVec 7) (a : BitVec 7) (m : BitVec 1) (s : BitVec 4) (c : BitVec 3) (o : BitVec 2) : Statement (.atomOr d a m s c o) := by
  intro _ _ x hx
  obtain ⟨h0, h1, r0, r1, r2, r3, r4, r5⟩ := fieldsM (k := 0xB4) (by decide) d a m s c o (Option.some.inj hx)
  rw [atB h0, decodeB, h1]
  show Instr.atomOr (field x.toNat 17 7) (field x.toNat 10 7) (field x.toNat 9 1) (field x.toNat 5 4) (field x.toNat 2 3) (field x.toNat 0 2) = _
  rw [r0, r1, r2, r3, r4, r5]

theorem atomXor (d : BitVec 7) (a : BitVec 7) (m : BitVec 1) (s : BitVec 4) (c : BitVec 3) (o : BitVec 2) : Statement (.atomXor d a m s c o) := by
  intro _ _ x hx
  obtain ⟨h0, h1, r0, r1, r2, r3, r4, r5⟩ := fieldsM (k := 0xB5) (by decide) d a m s c o (Option.some.inj hx)
  rw [atB h0, decodeB, h1]
  show Instr.atomXor (field x.toNat 17 7) (field x.toNat 10 7) (field x.toNat 9 1) (field x.toNat 5 4) (field x.toNat 2 3) (field x.toNat 0 2) = _
  rw [r0, r1, r2, r3, r4, r5]

theorem atomExch (d : BitVec 7) (a : BitVec 7) (m : BitVec 1) (s : BitVec 4) (c : BitVec 3) (o : BitVec 2) : Statement (.atomExch d a m s c o) := by
  intro _ _ x hx
  obtain ⟨h0, h1, r0, r1, r2, r3, r4, r5⟩ := fieldsM (k := 0xB6) (by decide) d a m s c o (Option.some.inj hx)
  rw [atB h0, decodeB, h1]
  show Instr.atomExch (field x.toNat 17 7) (field x.toNat 10 7) (field x.toNat 9 1) (field x.toNat 5 4) (field x.toNat 2 3) (field x.toNat 0 2) = _
  rw [r0, r1, r2, r3, r4, r5]

theorem atomCas (d : BitVec 7) (a : BitVec 7) (m : BitVec 1) (s : BitVec 4) (c : BitVec 3) (o : BitVec 2) : Statement (.atomCas d a m s c o) := by
  intro _ _ x hx
  obtain ⟨h0, h1, r0, r1, r2, r3, r4, r5⟩ := fieldsM (k := 0xB7) (by decide) d a m s c o (Option.some.inj hx)
  rw [atB h0, decodeB, h1]
  show Instr.atomCas (field x.toNat 17 7) (field x.toNat 10 7) (field x.toNat 9 1) (field x.toNat 5 4) (field x.toNat 2 3) (field x.toNat 0 2) = _
  rw [r0, r1, r2, r3, r4, r5]

theorem redAdd (d : BitVec 7) (a : BitVec 7) (m : BitVec 1) (s : BitVec 4) (c : BitVec 3) (o : BitVec 2) : Statement (.redAdd d a m s c o) := by
  intro _ _ x hx
  obtain ⟨h0, h1, r0, r1, r2, r3, r4, r5⟩ := fieldsM (k := 0xB8) (by decide) d a m s c o (Option.some.inj hx)
  rw [atB h0, decodeB, h1]
  show Instr.redAdd (field x.toNat 17 7) (field x.toNat 10 7) (field x.toNat 9 1) (field x.toNat 5 4) (field x.toNat 2 3) (field x.toNat 0 2) = _
  rw [r0, r1, r2, r3, r4, r5]

theorem redSmin (d : BitVec 7) (a : BitVec 7) (m : BitVec 1) (s : BitVec 4) (c : BitVec 3) (o : BitVec 2) : Statement (.redSmin d a m s c o) := by
  intro _ _ x hx
  obtain ⟨h0, h1, r0, r1, r2, r3, r4, r5⟩ := fieldsM (k := 0xB9) (by decide) d a m s c o (Option.some.inj hx)
  rw [atB h0, decodeB, h1]
  show Instr.redSmin (field x.toNat 17 7) (field x.toNat 10 7) (field x.toNat 9 1) (field x.toNat 5 4) (field x.toNat 2 3) (field x.toNat 0 2) = _
  rw [r0, r1, r2, r3, r4, r5]

theorem redSmax (d : BitVec 7) (a : BitVec 7) (m : BitVec 1) (s : BitVec 4) (c : BitVec 3) (o : BitVec 2) : Statement (.redSmax d a m s c o) := by
  intro _ _ x hx
  obtain ⟨h0, h1, r0, r1, r2, r3, r4, r5⟩ := fieldsM (k := 0xBA) (by decide) d a m s c o (Option.some.inj hx)
  rw [atB h0, decodeB, h1]
  show Instr.redSmax (field x.toNat 17 7) (field x.toNat 10 7) (field x.toNat 9 1) (field x.toNat 5 4) (field x.toNat 2 3) (field x.toNat 0 2) = _
  rw [r0, r1, r2, r3, r4, r5]

theorem redUmin (d : BitVec 7) (a : BitVec 7) (m : BitVec 1) (s : BitVec 4) (c : BitVec 3) (o : BitVec 2) : Statement (.redUmin d a m s c o) := by
  intro _ _ x hx
  obtain ⟨h0, h1, r0, r1, r2, r3, r4, r5⟩ := fieldsM (k := 0xBB) (by decide) d a m s c o (Option.some.inj hx)
  rw [atB h0, decodeB, h1]
  show Instr.redUmin (field x.toNat 17 7) (field x.toNat 10 7) (field x.toNat 9 1) (field x.toNat 5 4) (field x.toNat 2 3) (field x.toNat 0 2) = _
  rw [r0, r1, r2, r3, r4, r5]

theorem redUmax (d : BitVec 7) (a : BitVec 7) (m : BitVec 1) (s : BitVec 4) (c : BitVec 3) (o : BitVec 2) : Statement (.redUmax d a m s c o) := by
  intro _ _ x hx
  obtain ⟨h0, h1, r0, r1, r2, r3, r4, r5⟩ := fieldsM (k := 0xBC) (by decide) d a m s c o (Option.some.inj hx)
  rw [atB h0, decodeB, h1]
  show Instr.redUmax (field x.toNat 17 7) (field x.toNat 10 7) (field x.toNat 9 1) (field x.toNat 5 4) (field x.toNat 2 3) (field x.toNat 0 2) = _
  rw [r0, r1, r2, r3, r4, r5]

theorem redAnd (d : BitVec 7) (a : BitVec 7) (m : BitVec 1) (s : BitVec 4) (c : BitVec 3) (o : BitVec 2) : Statement (.redAnd d a m s c o) := by
  intro _ _ x hx
  obtain ⟨h0, h1, r0, r1, r2, r3, r4, r5⟩ := fieldsM (k := 0xBD) (by decide) d a m s c o (Option.some.inj hx)
  rw [atB h0, decodeB, h1]
  show Instr.redAnd (field x.toNat 17 7) (field x.toNat 10 7) (field x.toNat 9 1) (field x.toNat 5 4) (field x.toNat 2 3) (field x.toNat 0 2) = _
  rw [r0, r1, r2, r3, r4, r5]

theorem redOr (d : BitVec 7) (a : BitVec 7) (m : BitVec 1) (s : BitVec 4) (c : BitVec 3) (o : BitVec 2) : Statement (.redOr d a m s c o) := by
  intro _ _ x hx
  obtain ⟨h0, h1, r0, r1, r2, r3, r4, r5⟩ := fieldsM (k := 0xBE) (by decide) d a m s c o (Option.some.inj hx)
  rw [atB h0, decodeB, h1]
  show Instr.redOr (field x.toNat 17 7) (field x.toNat 10 7) (field x.toNat 9 1) (field x.toNat 5 4) (field x.toNat 2 3) (field x.toNat 0 2) = _
  rw [r0, r1, r2, r3, r4, r5]

theorem redXor (d : BitVec 7) (a : BitVec 7) (m : BitVec 1) (s : BitVec 4) (c : BitVec 3) (o : BitVec 2) : Statement (.redXor d a m s c o) := by
  intro _ _ x hx
  obtain ⟨h0, h1, r0, r1, r2, r3, r4, r5⟩ := fieldsM (k := 0xBF) (by decide) d a m s c o (Option.some.inj hx)
  rw [atB h0, decodeB, h1]
  show Instr.redXor (field x.toNat 17 7) (field x.toNat 10 7) (field x.toNat 9 1) (field x.toNat 5 4) (field x.toNat 2 3) (field x.toNat 0 2) = _
  rw [r0, r1, r2, r3, r4, r5]

theorem mma (t : BitVec 4) (f : BitVec 4) (g : BitVec 4) (a : BitVec 6) (b : BitVec 6) : Statement (.mma t f g a b) := by
  intro _ _ x hx
  obtain ⟨h0, h1, r0, r1, r2, r3, r4⟩ := fieldsT (k := 0xC0) (by decide) t f g a b (Option.some.inj hx)
  rw [atC h0, decodeC, h1]
  show Instr.mma (field x.toNat 20 4) (field x.toNat 16 4) (field x.toNat 12 4) (field x.toNat 6 6) (field x.toNat 0 6) = _
  rw [r0, r1, r2, r3, r4]

theorem mmas (t : BitVec 4) (f : BitVec 4) (g : BitVec 4) (a : BitVec 6) (b : BitVec 6) : Statement (.mmas t f g a b) := by
  intro _ _ x hx
  obtain ⟨h0, h1, r0, r1, r2, r3, r4⟩ := fieldsT (k := 0xC1) (by decide) t f g a b (Option.some.inj hx)
  rw [atC h0, decodeC, h1]
  show Instr.mmas (field x.toNat 20 4) (field x.toNat 16 4) (field x.toNat 12 4) (field x.toNat 6 6) (field x.toNat 0 6) = _
  rw [r0, r1, r2, r3, r4]

theorem mmag (t : BitVec 4) (g : BitVec 4) (a : BitVec 6) (b : BitVec 6) : Statement (.mmag t g a b) := by
  intro _ _ x hx
  have ht := t.isLt
  have hg := g.isLt
  have ha := a.isLt
  have hb := b.isLt
  have ex := word_nat (n := 0xC2070000 + t.toNat * 2 ^ 20 + g.toNat * 2 ^ 12 + a.toNat * 2 ^ 6 + b.toNat * 2 ^ 0) (Option.some.inj hx) (by omega)
  have f0 : bits x.toNat 28 4 = 12 := by rw [ex]; simp only [bits]; omega
  have f1 : bits x.toNat 24 4 = 2 := by rw [ex]; simp only [bits]; omega
  have f2 : bits x.toNat 16 4 = 7 := by rw [ex]; simp only [bits]; omega
  rw [atC f0, decodeC, f1]
  refine (if_pos (by rw [f2]; rfl)).trans ?_
  show Instr.mmag (field x.toNat 20 4) (field x.toNat 12 4) (field x.toNat 6 6) (field x.toNat 0 6) = _
  rw [field_of (v := t) (lo := 20) (by rw [ex]; omega), field_of (v := g) (lo := 12) (by rw [ex]; omega), field_of (v := a) (lo := 6) (by rw [ex]; omega), field_of (v := b) (lo := 0) (by rw [ex]; omega)]

theorem mmaG (t : BitVec 4) (f : BitVec 4) (g : BitVec 4) (a : BitVec 6) (b : BitVec 6) : Statement (.mmaG t f g a b) := by
  intro _ _ x hx
  obtain ⟨h0, h1, r0, r1, r2, r3, r4⟩ := fieldsT (k := 0xC4) (by decide) t f g a b (Option.some.inj hx)
  rw [atC h0, decodeC, h1]
  show Instr.mmaG (field x.toNat 20 4) (field x.toNat 16 4) (field x.toNat 12 4) (field x.toNat 6 6) (field x.toNat 0 6) = _
  rw [r0, r1, r2, r3, r4]

theorem mmasG (t : BitVec 4) (f : BitVec 4) (g : BitVec 4) (a : BitVec 6) (b : BitVec 6) : Statement (.mmasG t f g a b) := by
  intro _ _ x hx
  obtain ⟨h0, h1, r0, r1, r2, r3, r4⟩ := fieldsT (k := 0xC5) (by decide) t f g a b (Option.some.inj hx)
  rw [atC h0, decodeC, h1]
  show Instr.mmasG (field x.toNat 20 4) (field x.toNat 16 4) (field x.toNat 12 4) (field x.toNat 6 6) (field x.toNat 0 6) = _
  rw [r0, r1, r2, r3, r4]

theorem mmagG (t : BitVec 4) (g : BitVec 4) (a : BitVec 6) (b : BitVec 6) : Statement (.mmagG t g a b) := by
  intro _ _ x hx
  have ht := t.isLt
  have hg := g.isLt
  have ha := a.isLt
  have hb := b.isLt
  have ex := word_nat (n := 0xC6070000 + t.toNat * 2 ^ 20 + g.toNat * 2 ^ 12 + a.toNat * 2 ^ 6 + b.toNat * 2 ^ 0) (Option.some.inj hx) (by omega)
  have f0 : bits x.toNat 28 4 = 12 := by rw [ex]; simp only [bits]; omega
  have f1 : bits x.toNat 24 4 = 6 := by rw [ex]; simp only [bits]; omega
  have f2 : bits x.toNat 16 4 = 7 := by rw [ex]; simp only [bits]; omega
  rw [atC f0, decodeC, f1]
  refine (if_pos (by rw [f2]; rfl)).trans ?_
  show Instr.mmagG (field x.toNat 20 4) (field x.toNat 12 4) (field x.toNat 6 6) (field x.toNat 0 6) = _
  rw [field_of (v := t) (lo := 20) (by rw [ex]; omega), field_of (v := g) (lo := 12) (by rw [ex]; omega), field_of (v := a) (lo := 6) (by rw [ex]; omega), field_of (v := b) (lo := 0) (by rw [ex]; omega)]

theorem tld (t : BitVec 4) (f : BitVec 4) (s : BitVec 4) (a : BitVec 6) (b : BitVec 6) : Statement (.tld t f s a b) := by
  intro _ _ x hx
  obtain ⟨h0, h1, r0, r1, r2, r3, r4⟩ := fieldsT (k := 0xC8) (by decide) t f s a b (Option.some.inj hx)
  rw [atC h0, decodeC, h1]
  show Instr.tld (field x.toNat 20 4) (field x.toNat 16 4) (field x.toNat 12 4) (field x.toNat 6 6) (field x.toNat 0 6) = _
  rw [r0, r1, r2, r3, r4]

theorem tst (t : BitVec 4) (f : BitVec 4) (s : BitVec 4) (a : BitVec 6) (b : BitVec 6) : Statement (.tst t f s a b) := by
  intro _ _ x hx
  obtain ⟨h0, h1, r0, r1, r2, r3, r4⟩ := fieldsT (k := 0xC9) (by decide) t f s a b (Option.some.inj hx)
  rw [atC h0, decodeC, h1]
  show Instr.tst (field x.toNat 20 4) (field x.toNat 16 4) (field x.toNat 12 4) (field x.toNat 6 6) (field x.toNat 0 6) = _
  rw [r0, r1, r2, r3, r4]

theorem tzero (t : BitVec 4) (f : BitVec 4) : Statement (.tzero t f) := by
  intro _ _ x hx
  have ht := t.isLt
  have hf := f.isLt
  have ex := word_nat (n := 0xCA000000 + t.toNat * 2 ^ 20 + f.toNat * 2 ^ 16) (Option.some.inj hx) (by omega)
  have f0 : bits x.toNat 28 4 = 12 := by rw [ex]; simp only [bits]; omega
  have f1 : bits x.toNat 24 4 = 10 := by rw [ex]; simp only [bits]; omega
  have f2 : bits x.toNat 0 16 = 0 := by rw [ex]; simp only [bits]; omega
  rw [atC f0, decodeC, f1]
  refine (if_pos (by rw [f2]; rfl)).trans ?_
  show Instr.tzero (field x.toNat 20 4) (field x.toNat 16 4) = _
  rw [field_of (v := t) (lo := 20) (by rw [ex]; omega), field_of (v := f) (lo := 16) (by rw [ex]; omega)]

theorem opfence : Statement .opfence := fun _ _ _ h => Option.some.inj h ▸ rfl

theorem mwait (n : BitVec 4) : Statement (.mwait n) := by
  intro _ _ x hx
  have hn := n.isLt
  have ex := word_nat (n := 0xCD000000 + n.toNat * 2 ^ 16) (Option.some.inj hx) (by omega)
  have f0 : bits x.toNat 28 4 = 12 := by rw [ex]; simp only [bits]; omega
  have f1 : bits x.toNat 24 4 = 13 := by rw [ex]; simp only [bits]; omega
  have f2 : bits x.toNat 20 4 = 0 := by rw [ex]; simp only [bits]; omega
  have f3 : bits x.toNat 0 16 = 0 := by rw [ex]; simp only [bits]; omega
  rw [atC f0, decodeC, f1]
  refine (if_pos (by rw [f2, f3]; rfl)).trans ?_
  show Instr.mwait (field x.toNat 16 4) = _
  rw [field_of (v := n) (lo := 16) (by rw [ex]; omega)]

theorem cpy (a : BitVec 6) (c : BitVec 3) (s : BitVec 4) (d : BitVec 6) : Statement (.cpy a c s d) := by
  intro _ _ x hx
  have ha := a.isLt
  have hc := c.isLt
  have hs := s.isLt
  have hd := d.isLt
  have ex := word_nat (n := 0xD0000000 + a.toNat * 2 ^ 16 + c.toNat * 2 ^ 12 + s.toNat * 2 ^ 8 + d.toNat * 2 ^ 0) (Option.some.inj hx) (by omega)
  have f0 : bits x.toNat 28 4 = 13 := by rw [ex]; simp only [bits]; omega
  have f1 : bits x.toNat 24 4 = 0 := by rw [ex]; simp only [bits]; omega
  have f2 : bits x.toNat 22 2 = 0 := by rw [ex]; simp only [bits]; omega
  have f3 : bits x.toNat 15 1 = 0 := by rw [ex]; simp only [bits]; omega
  have f4 : bits x.toNat 6 2 = 0 := by rw [ex]; simp only [bits]; omega
  rw [atD f0, decodeD, f1]
  refine (if_pos (by rw [f2, f3, f4]; rfl)).trans ?_
  show Instr.cpy (field x.toNat 16 6) (field x.toNat 12 3) (field x.toNat 8 4) (field x.toNat 0 6) = _
  rw [field_of (v := a) (lo := 16) (by rw [ex]; omega), field_of (v := c) (lo := 12) (by rw [ex]; omega), field_of (v := s) (lo := 8) (by rw [ex]; omega), field_of (v := d) (lo := 0) (by rw [ex]; omega)]

theorem cpym (a : BitVec 6) (c : BitVec 3) (s : BitVec 4) (d : BitVec 6) : Statement (.cpym a c s d) := by
  intro _ _ x hx
  have ha := a.isLt
  have hc := c.isLt
  have hs := s.isLt
  have hd := d.isLt
  have ex := word_nat (n := 0xD1000000 + a.toNat * 2 ^ 16 + c.toNat * 2 ^ 12 + s.toNat * 2 ^ 8 + d.toNat * 2 ^ 0) (Option.some.inj hx) (by omega)
  have f0 : bits x.toNat 28 4 = 13 := by rw [ex]; simp only [bits]; omega
  have f1 : bits x.toNat 24 4 = 1 := by rw [ex]; simp only [bits]; omega
  have f2 : bits x.toNat 22 2 = 0 := by rw [ex]; simp only [bits]; omega
  have f3 : bits x.toNat 15 1 = 0 := by rw [ex]; simp only [bits]; omega
  have f4 : bits x.toNat 6 2 = 0 := by rw [ex]; simp only [bits]; omega
  rw [atD f0, decodeD, f1]
  refine (if_pos (by rw [f2, f3, f4]; rfl)).trans ?_
  show Instr.cpym (field x.toNat 16 6) (field x.toNat 12 3) (field x.toNat 8 4) (field x.toNat 0 6) = _
  rw [field_of (v := a) (lo := 16) (by rw [ex]; omega), field_of (v := c) (lo := 12) (by rw [ex]; omega), field_of (v := s) (lo := 8) (by rw [ex]; omega), field_of (v := d) (lo := 0) (by rw [ex]; omega)]

theorem coll (a : BitVec 6) (s : BitVec 4) (g : BitVec 4) : Statement (.coll a s g) := by
  intro _ _ x hx
  have ha := a.isLt
  have hs := s.isLt
  have hg := g.isLt
  have ex := word_nat (n := 0xD2000000 + a.toNat * 2 ^ 16 + s.toNat * 2 ^ 12 + g.toNat * 2 ^ 8) (Option.some.inj hx) (by omega)
  have f0 : bits x.toNat 28 4 = 13 := by rw [ex]; simp only [bits]; omega
  have f1 : bits x.toNat 24 4 = 2 := by rw [ex]; simp only [bits]; omega
  have f2 : bits x.toNat 22 2 = 0 := by rw [ex]; simp only [bits]; omega
  have f3 : bits x.toNat 0 8 = 0 := by rw [ex]; simp only [bits]; omega
  rw [atD f0, decodeD, f1]
  refine (if_pos (by rw [f2, f3]; rfl)).trans ?_
  show Instr.coll (field x.toNat 16 6) (field x.toNat 12 4) (field x.toNat 8 4) = _
  rw [field_of (v := a) (lo := 16) (by rw [ex]; omega), field_of (v := s) (lo := 12) (by rw [ex]; omega), field_of (v := g) (lo := 8) (by rw [ex]; omega)]

theorem msfence (k : BitVec 16) : Statement (.msfence k) := by
  intro _ _ x hx
  have hk := k.isLt
  have ex := word_nat (n := 0xD3000000 + k.toNat * 2 ^ 0) (Option.some.inj hx) (by omega)
  have f0 : bits x.toNat 28 4 = 13 := by rw [ex]; simp only [bits]; omega
  have f1 : bits x.toNat 24 4 = 3 := by rw [ex]; simp only [bits]; omega
  have f2 : bits x.toNat 16 8 = 0 := by rw [ex]; simp only [bits]; omega
  rw [atD f0, decodeD, f1]
  refine (if_pos (by rw [f2]; rfl)).trans ?_
  show Instr.msfence (field x.toNat 0 16) = _
  rw [field_of (v := k) (lo := 0) (by rw [ex]; omega)]

theorem mswait (m : BitVec 6) (k : BitVec 16) : Statement (.mswait m k) := by
  intro _ _ x hx
  have hm := m.isLt
  have hk := k.isLt
  have ex := word_nat (n := 0xD4000000 + m.toNat * 2 ^ 16 + k.toNat * 2 ^ 0) (Option.some.inj hx) (by omega)
  have f0 : bits x.toNat 28 4 = 13 := by rw [ex]; simp only [bits]; omega
  have f1 : bits x.toNat 24 4 = 4 := by rw [ex]; simp only [bits]; omega
  have f2 : bits x.toNat 22 2 = 0 := by rw [ex]; simp only [bits]; omega
  rw [atD f0, decodeD, f1]
  refine (if_pos (by rw [f2]; rfl)).trans ?_
  show Instr.mswait (field x.toNat 16 6) (field x.toNat 0 16) = _
  rw [field_of (v := m) (lo := 16) (by rw [ex]; omega), field_of (v := k) (lo := 0) (by rw [ex]; omega)]

theorem rway (a : BitVec 6) (c : BitVec 2) (k : BitVec 4) : Statement (.rway a c k) := by
  intro _ _ x hx
  have ha := a.isLt
  have hc := c.isLt
  have hk := k.isLt
  have ex := word_nat (n := 0xD5000000 + a.toNat * 2 ^ 16 + c.toNat * 2 ^ 14 + k.toNat * 2 ^ 8) (Option.some.inj hx) (by omega)
  have f0 : bits x.toNat 28 4 = 13 := by rw [ex]; simp only [bits]; omega
  have f1 : bits x.toNat 24 4 = 5 := by rw [ex]; simp only [bits]; omega
  have f2 : bits x.toNat 22 2 = 0 := by rw [ex]; simp only [bits]; omega
  have f3 : bits x.toNat 12 2 = 0 := by rw [ex]; simp only [bits]; omega
  have f4 : bits x.toNat 0 8 = 0 := by rw [ex]; simp only [bits]; omega
  rw [atD f0, decodeD, f1]
  refine (if_pos (by rw [f2, f3, f4]; rfl)).trans ?_
  show Instr.rway (field x.toNat 16 6) (field x.toNat 14 2) (field x.toNat 8 4) = _
  rw [field_of (v := a) (lo := 16) (by rw [ex]; omega), field_of (v := c) (lo := 14) (by rw [ex]; omega), field_of (v := k) (lo := 8) (by rw [ex]; omega)]

theorem vopen (a : BitVec 6) (d : BitVec 6) : Statement (.vopen a d) := by
  intro _ _ x hx
  have ha := a.isLt
  have hd := d.isLt
  have ex := word_nat (n := 0xD6000000 + a.toNat * 2 ^ 16 + d.toNat * 2 ^ 0) (Option.some.inj hx) (by omega)
  have f0 : bits x.toNat 28 4 = 13 := by rw [ex]; simp only [bits]; omega
  have f1 : bits x.toNat 24 4 = 6 := by rw [ex]; simp only [bits]; omega
  have f2 : bits x.toNat 22 2 = 0 := by rw [ex]; simp only [bits]; omega
  have f3 : bits x.toNat 6 10 = 0 := by rw [ex]; simp only [bits]; omega
  rw [atD f0, decodeD, f1]
  refine (if_pos (by rw [f2, f3]; rfl)).trans ?_
  show Instr.vopen (field x.toNat 16 6) (field x.toNat 0 6) = _
  rw [field_of (v := a) (lo := 16) (by rw [ex]; omega), field_of (v := d) (lo := 0) (by rw [ex]; omega)]

theorem vsend (a : BitVec 6) (h : BitVec 6) (s : BitVec 6) : Statement (.vsend a h s) := by
  intro _ _ x hx
  have ha := a.isLt
  have hh := h.isLt
  have hs := s.isLt
  have ex := word_nat (n := 0xD7000000 + a.toNat * 2 ^ 16 + h.toNat * 2 ^ 8 + s.toNat * 2 ^ 0) (Option.some.inj hx) (by omega)
  have f0 : bits x.toNat 28 4 = 13 := by rw [ex]; simp only [bits]; omega
  have f1 : bits x.toNat 24 4 = 7 := by rw [ex]; simp only [bits]; omega
  have f2 : bits x.toNat 22 2 = 0 := by rw [ex]; simp only [bits]; omega
  have f3 : bits x.toNat 14 2 = 0 := by rw [ex]; simp only [bits]; omega
  have f4 : bits x.toNat 6 2 = 0 := by rw [ex]; simp only [bits]; omega
  rw [atD f0, decodeD, f1]
  refine (if_pos (by rw [f2, f3, f4]; rfl)).trans ?_
  show Instr.vsend (field x.toNat 16 6) (field x.toNat 8 6) (field x.toNat 0 6) = _
  rw [field_of (v := a) (lo := 16) (by rw [ex]; omega), field_of (v := h) (lo := 8) (by rw [ex]; omega), field_of (v := s) (lo := 0) (by rw [ex]; omega)]

theorem jpost (a : BitVec 6) (p : BitVec 3) (d : BitVec 6) : Statement (.jpost a p d) := by
  intro _ _ x hx
  have ha := a.isLt
  have hp := p.isLt
  have hd := d.isLt
  have ex := word_nat (n := 0xD8000000 + a.toNat * 2 ^ 16 + p.toNat * 2 ^ 8 + d.toNat * 2 ^ 0) (Option.some.inj hx) (by omega)
  have f0 : bits x.toNat 28 4 = 13 := by rw [ex]; simp only [bits]; omega
  have f1 : bits x.toNat 24 4 = 8 := by rw [ex]; simp only [bits]; omega
  have f2 : bits x.toNat 22 2 = 0 := by rw [ex]; simp only [bits]; omega
  have f3 : bits x.toNat 11 5 = 0 := by rw [ex]; simp only [bits]; omega
  have f4 : bits x.toNat 6 2 = 0 := by rw [ex]; simp only [bits]; omega
  rw [atD f0, decodeD, f1]
  refine (if_pos (by rw [f2, f3, f4]; rfl)).trans ?_
  show Instr.jpost (field x.toNat 16 6) (field x.toNat 8 3) (field x.toNat 0 6) = _
  rw [field_of (v := a) (lo := 16) (by rw [ex]; omega), field_of (v := p) (lo := 8) (by rw [ex]; omega), field_of (v := d) (lo := 0) (by rw [ex]; omega)]

theorem vdrop (h : BitVec 6) (d : BitVec 6) : Statement (.vdrop h d) := by
  intro _ _ x hx
  have hh := h.isLt
  have hd := d.isLt
  have ex := word_nat (n := 0xD9000000 + h.toNat * 2 ^ 16 + d.toNat * 2 ^ 0) (Option.some.inj hx) (by omega)
  have f0 : bits x.toNat 28 4 = 13 := by rw [ex]; simp only [bits]; omega
  have f1 : bits x.toNat 24 4 = 9 := by rw [ex]; simp only [bits]; omega
  have f2 : bits x.toNat 22 2 = 0 := by rw [ex]; simp only [bits]; omega
  have f3 : bits x.toNat 6 10 = 0 := by rw [ex]; simp only [bits]; omega
  rw [atD f0, decodeD, f1]
  refine (if_pos (by rw [f2, f3]; rfl)).trans ?_
  show Instr.vdrop (field x.toNat 16 6) (field x.toNat 0 6) = _
  rw [field_of (v := h) (lo := 16) (by rw [ex]; omega), field_of (v := d) (lo := 0) (by rw [ex]; omega)]

theorem gjoin (g : BitVec 4) : Statement (.gjoin g) := by
  intro _ _ x hx
  have hg := g.isLt
  have ex := word_nat (n := 0xE0000000 + g.toNat * 2 ^ 16) (Option.some.inj hx) (by omega)
  have f0 : bits x.toNat 28 4 = 14 := by rw [ex]; simp only [bits]; omega
  have f1 : bits x.toNat 24 4 = 0 := by rw [ex]; simp only [bits]; omega
  have f2 : bits x.toNat 20 4 = 0 := by rw [ex]; simp only [bits]; omega
  have f3 : bits x.toNat 0 16 = 0 := by rw [ex]; simp only [bits]; omega
  rw [atE f0, decodeE, f1]
  refine (if_pos (by rw [f2, f3]; rfl)).trans ?_
  show Instr.gjoin (field x.toNat 16 4) = _
  rw [field_of (v := g) (lo := 16) (by rw [ex]; omega)]

theorem gleave (g : BitVec 4) : Statement (.gleave g) := by
  intro _ _ x hx
  have hg := g.isLt
  have ex := word_nat (n := 0xE1000000 + g.toNat * 2 ^ 16) (Option.some.inj hx) (by omega)
  have f0 : bits x.toNat 28 4 = 14 := by rw [ex]; simp only [bits]; omega
  have f1 : bits x.toNat 24 4 = 1 := by rw [ex]; simp only [bits]; omega
  have f2 : bits x.toNat 20 4 = 0 := by rw [ex]; simp only [bits]; omega
  have f3 : bits x.toNat 0 16 = 0 := by rw [ex]; simp only [bits]; omega
  rw [atE f0, decodeE, f1]
  refine (if_pos (by rw [f2, f3]; rfl)).trans ?_
  show Instr.gleave (field x.toNat 16 4) = _
  rw [field_of (v := g) (lo := 16) (by rw [ex]; omega)]

theorem garrive (g : BitVec 1) (v : BitVec 1) (b : BitVec 6) (n : BitVec 4) (s : BitVec 4) (d : BitVec 6) : Statement (.garrive g v b n s d) := by
  intro _ _ x hx
  have hg := g.isLt
  have hv := v.isLt
  have hb := b.isLt
  have hn := n.isLt
  have hs := s.isLt
  have hd := d.isLt
  have ex := word_nat (n := 0xE2000000 + g.toNat * 2 ^ 23 + v.toNat * 2 ^ 22 + b.toNat * 2 ^ 16 + n.toNat * 2 ^ 12 + s.toNat * 2 ^ 8 + d.toNat * 2 ^ 0) (Option.some.inj hx) (by omega)
  have f0 : bits x.toNat 28 4 = 14 := by rw [ex]; simp only [bits]; omega
  have f1 : bits x.toNat 24 4 = 2 := by rw [ex]; simp only [bits]; omega
  have f2 : bits x.toNat 6 2 = 0 := by rw [ex]; simp only [bits]; omega
  rw [atE f0, decodeE, f1]
  refine (if_pos (by rw [f2]; rfl)).trans ?_
  show Instr.garrive (field x.toNat 23 1) (field x.toNat 22 1) (field x.toNat 16 6) (field x.toNat 12 4) (field x.toNat 8 4) (field x.toNat 0 6) = _
  rw [field_of (v := g) (lo := 23) (by rw [ex]; omega), field_of (v := v) (lo := 22) (by rw [ex]; omega), field_of (v := b) (lo := 16) (by rw [ex]; omega), field_of (v := n) (lo := 12) (by rw [ex]; omega), field_of (v := s) (lo := 8) (by rw [ex]; omega), field_of (v := d) (lo := 0) (by rw [ex]; omega)]

theorem gridarr (n : BitVec 5) (e : BitVec 6) (d : BitVec 6) : Statement (.gridarr n e d) := by
  intro _ _ x hx
  have hn := n.isLt
  have he := e.isLt
  have hd := d.isLt
  have ex := word_nat (n := 0xE3000000 + n.toNat * 2 ^ 16 + e.toNat * 2 ^ 8 + d.toNat * 2 ^ 0) (Option.some.inj hx) (by omega)
  have f0 : bits x.toNat 28 4 = 14 := by rw [ex]; simp only [bits]; omega
  have f1 : bits x.toNat 24 4 = 3 := by rw [ex]; simp only [bits]; omega
  have f2 : bits x.toNat 21 3 = 0 := by rw [ex]; simp only [bits]; omega
  have f3 : bits x.toNat 14 2 = 0 := by rw [ex]; simp only [bits]; omega
  have f4 : bits x.toNat 6 2 = 0 := by rw [ex]; simp only [bits]; omega
  rw [atE f0, decodeE, f1]
  refine (if_pos (by rw [f2, f3, f4]; rfl)).trans ?_
  show Instr.gridarr (field x.toNat 16 5) (field x.toNat 8 6) (field x.toNat 0 6) = _
  rw [field_of (v := n) (lo := 16) (by rw [ex]; omega), field_of (v := e) (lo := 8) (by rw [ex]; omega), field_of (v := d) (lo := 0) (by rw [ex]; omega)]

theorem racq (d : BitVec 3) : Statement (.racq d) := by
  intro _ _ x hx
  have hd := d.isLt
  have ex := word_nat (n := 0xE4000000 + d.toNat * 2 ^ 16) (Option.some.inj hx) (by omega)
  have f0 : bits x.toNat 28 4 = 14 := by rw [ex]; simp only [bits]; omega
  have f1 : bits x.toNat 24 4 = 4 := by rw [ex]; simp only [bits]; omega
  have f2 : bits x.toNat 19 5 = 0 := by rw [ex]; simp only [bits]; omega
  have f3 : bits x.toNat 0 16 = 0 := by rw [ex]; simp only [bits]; omega
  rw [atE f0, decodeE, f1]
  refine (if_pos (by rw [f2, f3]; rfl)).trans ?_
  show Instr.racq (field x.toNat 16 3) = _
  rw [field_of (v := d) (lo := 16) (by rw [ex]; omega)]

theorem rrel : Statement .rrel := fun _ _ _ h => Option.some.inj h ▸ rfl

theorem qpush (d : BitVec 3) (q : BitVec 6) (v : BitVec 6) : Statement (.qpush d q v) := by
  intro _ _ x hx
  have hd := d.isLt
  have hq := q.isLt
  have hv := v.isLt
  have ex := word_nat (n := 0xE6000000 + d.toNat * 2 ^ 16 + q.toNat * 2 ^ 8 + v.toNat * 2 ^ 0) (Option.some.inj hx) (by omega)
  have f0 : bits x.toNat 28 4 = 14 := by rw [ex]; simp only [bits]; omega
  have f1 : bits x.toNat 24 4 = 6 := by rw [ex]; simp only [bits]; omega
  have f2 : bits x.toNat 19 5 = 0 := by rw [ex]; simp only [bits]; omega
  have f3 : bits x.toNat 14 2 = 0 := by rw [ex]; simp only [bits]; omega
  have f4 : bits x.toNat 6 2 = 0 := by rw [ex]; simp only [bits]; omega
  rw [atE f0, decodeE, f1]
  refine (if_pos (by rw [f2, f3, f4]; rfl)).trans ?_
  show Instr.qpush (field x.toNat 16 3) (field x.toNat 8 6) (field x.toNat 0 6) = _
  rw [field_of (v := d) (lo := 16) (by rw [ex]; omega), field_of (v := q) (lo := 8) (by rw [ex]; omega), field_of (v := v) (lo := 0) (by rw [ex]; omega)]

theorem qpop (d : BitVec 3) (q : BitVec 6) (v : BitVec 6) : Statement (.qpop d q v) := by
  intro _ _ x hx
  have hd := d.isLt
  have hq := q.isLt
  have hv := v.isLt
  have ex := word_nat (n := 0xE7000000 + d.toNat * 2 ^ 16 + q.toNat * 2 ^ 8 + v.toNat * 2 ^ 0) (Option.some.inj hx) (by omega)
  have f0 : bits x.toNat 28 4 = 14 := by rw [ex]; simp only [bits]; omega
  have f1 : bits x.toNat 24 4 = 7 := by rw [ex]; simp only [bits]; omega
  have f2 : bits x.toNat 19 5 = 0 := by rw [ex]; simp only [bits]; omega
  have f3 : bits x.toNat 14 2 = 0 := by rw [ex]; simp only [bits]; omega
  have f4 : bits x.toNat 6 2 = 0 := by rw [ex]; simp only [bits]; omega
  rw [atE f0, decodeE, f1]
  refine (if_pos (by rw [f2, f3, f4]; rfl)).trans ?_
  show Instr.qpop (field x.toNat 16 3) (field x.toNat 8 6) (field x.toNat 0 6) = _
  rw [field_of (v := d) (lo := 16) (by rw [ex]; omega), field_of (v := q) (lo := 8) (by rw [ex]; omega), field_of (v := v) (lo := 0) (by rw [ex]; omega)]

theorem tbegin (o : BitVec 16) : Statement (.tbegin o) := by
  intro _ _ x hx
  have ho := o.isLt
  have ex := word_nat (n := 0xE8000000 + o.toNat * 2 ^ 0) (Option.some.inj hx) (by omega)
  have f0 : bits x.toNat 28 4 = 14 := by rw [ex]; simp only [bits]; omega
  have f1 : bits x.toNat 24 4 = 8 := by rw [ex]; simp only [bits]; omega
  have f2 : bits x.toNat 16 8 = 0 := by rw [ex]; simp only [bits]; omega
  rw [atE f0, decodeE, f1]
  refine (if_pos (by rw [f2]; rfl)).trans ?_
  show Instr.tbegin (field x.toNat 0 16) = _
  rw [field_of (v := o) (lo := 0) (by rw [ex]; omega)]

theorem tcommit : Statement .tcommit := fun _ _ _ h => Option.some.inj h ▸ rfl

theorem tabort (c : BitVec 8) : Statement (.tabort c) := by
  intro _ _ x hx
  have hc := c.isLt
  have ex := word_nat (n := 0xEA000000 + c.toNat * 2 ^ 16) (Option.some.inj hx) (by omega)
  have f0 : bits x.toNat 28 4 = 14 := by rw [ex]; simp only [bits]; omega
  have f1 : bits x.toNat 24 4 = 10 := by rw [ex]; simp only [bits]; omega
  have f2 : bits x.toNat 0 16 = 0 := by rw [ex]; simp only [bits]; omega
  rw [atE f0, decodeE, f1]
  refine (if_pos (by rw [f2]; rfl)).trans ?_
  show Instr.tabort (field x.toNat 16 8) = _
  rw [field_of (v := c) (lo := 16) (by rw [ex]; omega)]

theorem tretry : Statement .tretry := fun _ _ _ h => Option.some.inj h ▸ rfl

theorem telse (o : BitVec 16) : Statement (.telse o) := by
  intro _ _ x hx
  have ho := o.isLt
  have ex := word_nat (n := 0xEC000000 + o.toNat * 2 ^ 0) (Option.some.inj hx) (by omega)
  have f0 : bits x.toNat 28 4 = 14 := by rw [ex]; simp only [bits]; omega
  have f1 : bits x.toNat 24 4 = 12 := by rw [ex]; simp only [bits]; omega
  have f2 : bits x.toNat 16 8 = 0 := by rw [ex]; simp only [bits]; omega
  rw [atE f0, decodeE, f1]
  refine (if_pos (by rw [f2]; rfl)).trans ?_
  show Instr.telse (field x.toNat 0 16) = _
  rw [field_of (v := o) (lo := 0) (by rw [ex]; omega)]

theorem tstat (d : BitVec 6) : Statement (.tstat d) := by
  intro _ _ x hx
  have hd := d.isLt
  have ex := word_nat (n := 0xED000000 + d.toNat * 2 ^ 16) (Option.some.inj hx) (by omega)
  have f0 : bits x.toNat 28 4 = 14 := by rw [ex]; simp only [bits]; omega
  have f1 : bits x.toNat 24 4 = 13 := by rw [ex]; simp only [bits]; omega
  have f2 : bits x.toNat 22 2 = 0 := by rw [ex]; simp only [bits]; omega
  have f3 : bits x.toNat 0 16 = 0 := by rw [ex]; simp only [bits]; omega
  rw [atE f0, decodeE, f1]
  refine (if_pos (by rw [f2, f3]; rfl)).trans ?_
  show Instr.tstat (field x.toNat 16 6) = _
  rw [field_of (v := d) (lo := 16) (by rw [ex]; omega)]

theorem sread (r : BitVec 8) (d : BitVec 6) : Statement (.sread r d) := by
  intro _ _ x hx
  have hr := r.isLt
  have hd := d.isLt
  have ex := word_nat (n := 0xF0000000 + r.toNat * 2 ^ 16 + d.toNat * 2 ^ 0) (Option.some.inj hx) (by omega)
  have f0 : bits x.toNat 28 4 = 15 := by rw [ex]; simp only [bits]; omega
  have f1 : bits x.toNat 24 4 = 0 := by rw [ex]; simp only [bits]; omega
  have f2 : bits x.toNat 6 10 = 0 := by rw [ex]; simp only [bits]; omega
  rw [atF f0, decodeF, f1]
  refine (if_pos (by rw [f2]; rfl)).trans ?_
  show Instr.sread (field x.toNat 16 8) (field x.toNat 0 6) = _
  rw [field_of (v := r) (lo := 16) (by rw [ex]; omega), field_of (v := d) (lo := 0) (by rw [ex]; omega)]

theorem swrite (r : BitVec 8) (a : BitVec 6) : Statement (.swrite r a) := by
  intro _ _ x hx
  have hr := r.isLt
  have ha := a.isLt
  have ex := word_nat (n := 0xF1000000 + r.toNat * 2 ^ 16 + a.toNat * 2 ^ 0) (Option.some.inj hx) (by omega)
  have f0 : bits x.toNat 28 4 = 15 := by rw [ex]; simp only [bits]; omega
  have f1 : bits x.toNat 24 4 = 1 := by rw [ex]; simp only [bits]; omega
  have f2 : bits x.toNat 6 10 = 0 := by rw [ex]; simp only [bits]; omega
  rw [atF f0, decodeF, f1]
  refine (if_pos (by rw [f2]; rfl)).trans ?_
  show Instr.swrite (field x.toNat 16 8) (field x.toNat 0 6) = _
  rw [field_of (v := r) (lo := 16) (by rw [ex]; omega), field_of (v := a) (lo := 0) (by rw [ex]; omega)]

theorem cflush (a : BitVec 7) (m : BitVec 1) (s : BitVec 4) (c : BitVec 3) : Statement (.cflush a m s c) := by
  intro _ _ x hx
  have ha := a.isLt
  have hm := m.isLt
  have hs := s.isLt
  have hc := c.isLt
  have ex := word_nat (n := 0xF2000000 + a.toNat * 2 ^ 10 + m.toNat * 2 ^ 9 + s.toNat * 2 ^ 5 + c.toNat * 2 ^ 2) (Option.some.inj hx) (by omega)
  have f0 : bits x.toNat 28 4 = 15 := by rw [ex]; simp only [bits]; omega
  have f1 : bits x.toNat 24 4 = 2 := by rw [ex]; simp only [bits]; omega
  have f2 : bits x.toNat 17 7 = 0 := by rw [ex]; simp only [bits]; omega
  have f3 : bits x.toNat 0 2 = 0 := by rw [ex]; simp only [bits]; omega
  rw [atF f0, decodeF, f1]
  refine (if_pos (by rw [f2, f3]; rfl)).trans ?_
  show Instr.cflush (field x.toNat 10 7) (field x.toNat 9 1) (field x.toNat 5 4) (field x.toNat 2 3) = _
  rw [field_of (v := a) (lo := 10) (by rw [ex]; omega), field_of (v := m) (lo := 9) (by rw [ex]; omega), field_of (v := s) (lo := 5) (by rw [ex]; omega), field_of (v := c) (lo := 2) (by rw [ex]; omega)]

theorem pathrd (s : BitVec 8) (i : BitVec 8) (d : BitVec 6) : Statement (.pathrd s i d) := by
  intro _ _ x hx
  have hs := s.isLt
  have hi := i.isLt
  have hd := d.isLt
  have ex := word_nat (n := 0xF4000000 + s.toNat * 2 ^ 16 + i.toNat * 2 ^ 8 + d.toNat * 2 ^ 0) (Option.some.inj hx) (by omega)
  have f0 : bits x.toNat 28 4 = 15 := by rw [ex]; simp only [bits]; omega
  have f1 : bits x.toNat 24 4 = 4 := by rw [ex]; simp only [bits]; omega
  have f2 : bits x.toNat 6 2 = 0 := by rw [ex]; simp only [bits]; omega
  rw [atF f0, decodeF, f1]
  refine (if_pos (by rw [f2]; rfl)).trans ?_
  show Instr.pathrd (field x.toNat 16 8) (field x.toNat 8 8) (field x.toNat 0 6) = _
  rw [field_of (v := s) (lo := 16) (by rw [ex]; omega), field_of (v := i) (lo := 8) (by rw [ex]; omega), field_of (v := d) (lo := 0) (by rw [ex]; omega)]

theorem pathwr (s : BitVec 8) (i : BitVec 8) (a : BitVec 6) : Statement (.pathwr s i a) := by
  intro _ _ x hx
  have hs := s.isLt
  have hi := i.isLt
  have ha := a.isLt
  have ex := word_nat (n := 0xF5000000 + s.toNat * 2 ^ 16 + i.toNat * 2 ^ 8 + a.toNat * 2 ^ 0) (Option.some.inj hx) (by omega)
  have f0 : bits x.toNat 28 4 = 15 := by rw [ex]; simp only [bits]; omega
  have f1 : bits x.toNat 24 4 = 5 := by rw [ex]; simp only [bits]; omega
  have f2 : bits x.toNat 6 2 = 0 := by rw [ex]; simp only [bits]; omega
  rw [atF f0, decodeF, f1]
  refine (if_pos (by rw [f2]; rfl)).trans ?_
  show Instr.pathwr (field x.toNat 16 8) (field x.toNat 8 8) (field x.toNat 0 6) = _
  rw [field_of (v := s) (lo := 16) (by rw [ex]; omega), field_of (v := i) (lo := 8) (by rw [ex]; omega), field_of (v := a) (lo := 0) (by rw [ex]; omega)]

theorem eret : Statement .eret := fun _ _ _ h => Option.some.inj h ▸ rfl

theorem ext (k : BitVec 4) (p : BitVec 20) : Statement (.ext k p) := by
  intro _ _ x hx
  have hk := k.isLt
  have hp := p.isLt
  have ex := word_nat (n := 0xFE000000 + k.toNat * 2 ^ 20 + p.toNat * 2 ^ 0) (Option.some.inj hx) (by omega)
  have f0 : bits x.toNat 28 4 = 15 := by rw [ex]; simp only [bits]; omega
  have f1 : bits x.toNat 24 4 = 14 := by rw [ex]; simp only [bits]; omega
  rw [atF f0, decodeF, f1]
  show Instr.ext (field x.toNat 20 4) (field x.toNat 0 20) = _
  rw [field_of (v := k) (lo := 20) (by rw [ex]; omega), field_of (v := p) (lo := 0) (by rw [ex]; omega)]

theorem asyncTrapEntry (wave : Nat) : Statement (.asyncTrapEntry wave) := of_none rfl

theorem siblingHalt (wave skid : Nat) : Statement (.siblingHalt wave skid) := of_none rfl

theorem asyncReport : Statement .asyncReport := of_none rfl

theorem convoyRetire : Statement .convoyRetire := of_none rfl

theorem matrixStart (core : Nat) : Statement (.matrixStart core) := of_none rfl

theorem matrixComplete (core : Nat) : Statement (.matrixComplete core) := of_none rfl

theorem tldComplete (wave tile : Nat) (data : List Word) : Statement (.tldComplete wave tile data) := of_none rfl

theorem copyCommandStart (core : Nat) (data : List Byte) : Statement (.copyCommandStart core data) := of_none rfl

theorem copyCompletion (core code : Nat) : Statement (.copyCompletion core code) := of_none rfl

theorem wake (wave : Nat) : Statement (.wake wave) := of_none rfl

theorem timedWake : Statement .timedWake := of_none rfl

theorem scratchAccessArrival (access : Nat) : Statement (.scratchAccessArrival access) := of_none rfl

theorem remoteStoreAck : Statement .remoteStoreAck := of_none rfl

theorem secondLevelTlbMiss (stack context : Nat) (va : Dword) (kind : Nat) (waiter : Option Nat) : Statement (.secondLevelTlbMiss stack context va kind waiter) := of_none rfl

theorem remoteLoadBlocking : Statement .remoteLoadBlocking := of_none rfl

theorem rds (line : Nat) (req : Requester) : Statement (.rds line req) := of_none rfl

theorem rdx (line : Nat) (req : Requester) : Statement (.rdx line req) := of_none rfl

theorem upg (line : Nat) (req : Requester) : Statement (.upg line req) := of_none rfl

theorem fwds (line stack : Nat) : Statement (.fwds line stack) := of_none rfl

theorem fwdx (line stack : Nat) : Statement (.fwdx line stack) := of_none rfl

theorem inv (line stack : Nat) : Statement (.inv line stack) := of_none rfl

theorem binv (line stack : Nat) : Statement (.binv line stack) := of_none rfl

theorem data (line : Nat) (req : Requester) (lease : Option (Bool × Nat × List Byte)) : Statement (.data line req lease) := of_none rfl

theorem wb (line stack : Nat) : Statement (.wb line stack) := of_none rfl

theorem ack (line stack : Nat) : Statement (.ack line stack) := of_none rfl

theorem cmp (line : Nat) (req : Requester) : Statement (.cmp line req) := of_none rfl

theorem leaseRenewal (incoming : Option (Nat × List Nat)) : Statement (.leaseRenewal incoming) := of_none rfl

theorem leaseHolderExpiry : Statement .leaseHolderExpiry := of_none rfl

theorem leaseHomeExpiry : Statement .leaseHomeExpiry := of_none rfl

theorem leaseRecall (stack line : Nat) : Statement (.leaseRecall stack line) := of_none rfl

theorem leaseRelease (line package : Nat) (dirty : List (Nat × Byte)) (poison : Bool) : Statement (.leaseRelease line package dirty poison) := of_none rfl

theorem regionWriteback (region source : Nat) (milestone : Dword) (dirty : List (Nat × Byte)) (last : Bool) : Statement (.regionWriteback region source milestone dirty last) := of_none rfl

theorem flitRoute (flit : Flit) (inPort : Nat) (free : BitVec 24) (others : List (Flit × Nat)) : Statement (.flitRoute flit inPort free others) := of_none rfl

theorem packetArrival (packet : Packet) : Statement (.packetArrival packet) := of_none rfl

theorem packetAck (tag : Nat) : Statement (.packetAck tag) := of_none rfl

theorem packetNack (tag : Nat) (bufferFull : Bool) : Statement (.packetNack tag bufferFull) := of_none rfl

theorem resendTimeout (tag : Nat) : Statement (.resendTimeout tag) := of_none rfl

theorem packetCommit (src tag : Nat) : Statement (.packetCommit src tag) := of_none rfl

theorem tokenArrival (last : Dword) (epoch : BitVec 16) : Statement (.tokenArrival last epoch) := of_none rfl

theorem recordReceive (record : Record) : Statement (.recordReceive record) := of_none rfl

theorem recordGapFetch (fetch : GapFetch) : Statement (.recordGapFetch fetch) := of_none rfl

theorem tokenwaitExpiry : Statement .tokenwaitExpiry := of_none rfl

theorem tokenStop : Statement .tokenStop := of_none rfl

theorem tokenRecovery (seen applied : List (Nat × Dword)) : Statement (.tokenRecovery seen applied) := of_none rfl

theorem masterTimeout : Statement .masterTimeout := of_none rfl

theorem lostLimitExpiry (package : Nat) (passing : Option Nat) : Statement (.lostLimitExpiry package passing) := of_none rfl

theorem recordWrite : Statement .recordWrite := of_none rfl

theorem recordAdd : Statement .recordAdd := of_none rfl

theorem recordCas : Statement .recordCas := of_none rfl

theorem recordMax : Statement .recordMax := of_none rfl

theorem recordBitset : Statement .recordBitset := of_none rfl

theorem recordLaunch (descriptor : List Byte) : Statement (.recordLaunch descriptor) := of_none rfl

theorem recordPte : Statement .recordPte := of_none rfl

theorem recordRegion : Statement .recordRegion := of_none rfl

theorem recordTrigger : Statement .recordTrigger := of_none rfl

theorem recordSnap : Statement .recordSnap := of_none rfl

theorem ringLost : Statement .ringLost := of_none rfl

theorem ringJoin : Statement .ringJoin := of_none rfl

theorem ringDone : Statement .ringDone := of_none rfl

theorem combineChunk (session index port : Nat) (elems : List Word) : Statement (.combineChunk session index port elems) := of_none rfl

theorem sessionInputTimeout (session port index : Nat) : Statement (.sessionInputTimeout session port index) := of_none rfl

theorem memberOverdue (collective package index : Nat) : Statement (.memberOverdue collective package index) := of_none rfl

theorem collectiveCompletion (collective : Nat) (result : List Byte) : Statement (.collectiveCompletion collective result) := of_none rfl

theorem vatArrival (row : VatRow) : Statement (.vatArrival row) := of_none rfl

theorem vatRowComplete (src row : Nat) : Statement (.vatRowComplete src row) := of_none rfl

theorem vatDeadline (slot : Nat) : Statement (.vatDeadline slot) := of_none rfl

theorem vatReleaseDone : Statement .vatReleaseDone := of_none rfl

theorem cardConditionPoll (words : List (Nat × Nat × Word)) : Statement (.cardConditionPoll words) := of_none rfl

theorem convoyPlacement : Statement .convoyPlacement := of_none rfl

theorem quadModeChangeDone : Statement .quadModeChangeDone := of_none rfl

theorem placementReservation : Statement .placementReservation := of_none rfl

theorem preemptwaitExpiry : Statement .preemptwaitExpiry := of_none rfl

theorem evictionSave : Statement .evictionSave := of_none rfl

theorem convoyRestore : Statement .convoyRestore := of_none rfl

theorem watchdogExpiry : Statement .watchdogExpiry := of_none rfl

theorem cardCompletion : Statement .cardCompletion := of_none rfl

theorem selfTestInjection (core : Nat) (mismatch : Option (Nat × Bool)) : Statement (.selfTestInjection core mismatch) := of_none rfl

theorem matrixHang (core : Nat) : Statement (.matrixHang core) := of_none rfl

theorem slabResetDone (core : Nat) (found : List (Nat × Nat × Bool)) : Statement (.slabResetDone core found) := of_none rfl

theorem eccError (unit stack inst : Nat) (loc : Dword) (uncorrectable : Bool) : Statement (.eccError unit stack inst loc uncorrectable) := of_none rfl

theorem pcSample (core sched : Nat) : Statement (.pcSample core sched) := of_none rfl

theorem checkpointGranuleWrite : Statement .checkpointGranuleWrite := of_none rfl

theorem waysideImageLoad : Statement .waysideImageLoad := of_none rfl

theorem linkLoss (port : Nat) : Statement (.linkLoss port) := of_none rfl

theorem packageReset (boot : BootReport) : Statement (.packageReset boot) := of_none rfl

theorem packagePowerLoss : Statement .packagePowerLoss := of_none rfl

theorem junctionTemperature (celsius : Nat) : Statement (.junctionTemperature celsius) := of_none rfl

theorem powerMeasurement (watts : Nat) : Statement (.powerMeasurement watts) := of_none rfl

theorem dvfsPointSelect (point : Nat) : Statement (.dvfsPointSelect point) := of_none rfl

theorem debugResume (wave path : Nat) : Statement (.debugResume wave path) := of_none rfl

theorem debugStep (wave path : Nat) : Statement (.debugStep wave path) := of_none rfl

theorem debugEdit (wave : Nat) (change : DebugChange) : Statement (.debugEdit wave change) := of_none rfl

theorem rightsRevoke (context : Nat) : Statement (.rightsRevoke context) := of_none rfl

theorem triggerWrite (tag : Dword) : Statement (.triggerWrite tag) := of_none rfl

theorem injectCorrected (unit stack inst : Nat) : Statement (.injectCorrected unit stack inst) := of_none rfl

theorem injectUncorrectable (unit stack inst : Nat) : Statement (.injectUncorrectable unit stack inst) := of_none rfl

theorem injectSelfTest (stack inst : Nat) : Statement (.injectSelfTest stack inst) := of_none rfl

theorem doorbellWrite (value : Dword) : Statement (.doorbellWrite value) := of_none rfl

theorem commandAccept : Statement .commandAccept := of_none rfl

theorem launch : Statement .launch := of_none rfl

theorem inval : Statement .inval := of_none rfl

theorem replay : Statement .replay := of_none rfl

theorem evict : Statement .evict := of_none rfl

theorem ringpost : Statement .ringpost := of_none rfl

theorem fwload : Statement .fwload := of_none rfl

theorem attest : Statement .attest := of_none rfl

theorem restore : Statement .restore := of_none rfl

theorem resetcore : Statement .resetcore := of_none rfl

theorem gapClear : Statement .gapClear := of_none rfl

theorem dqheadWrite (value : Dword) : Statement (.dqheadWrite value) := of_none rfl

theorem dqreplayWrite (value : Dword) : Statement (.dqreplayWrite value) := of_none rfl

theorem fqrdWrite (context : Nat) (value : Dword) : Statement (.fqrdWrite context value) := of_none rfl

theorem contextDescriptorWrite (context : Nat) (bytes : List Byte) : Statement (.contextDescriptorWrite context bytes) := of_none rfl

theorem ringBlockBaseWrite (context : Nat) (field : RingField) (value : Dword) : Statement (.ringBlockBaseWrite context field value) := of_none rfl

theorem regionStatusClear (region : Nat) (bits : Word) : Statement (.regionStatusClear region bits) := of_none rfl

theorem ringctlWrite (value : Dword) (package : Option Nat) : Statement (.ringctlWrite value package) := of_none rfl

theorem boundTableWrite (index : Nat) (value : BitVec 128) : Statement (.boundTableWrite index value) := of_none rfl

theorem msiXMessage (vector : Nat) : Statement (.msiXMessage vector) := of_none rfl

theorem registerWrite (offset size : Nat) (value : Dword) : Statement (.registerWrite offset size value) := of_none rfl

theorem illegalOp (w : Word) : Statement (.illegalOp w) := fun h _ => absurd rfl (h w)

theorem illegalField (w : Word) : Statement (.illegalField w) := fun _ h => absurd rfl (h w)

theorem outOfStepRecovery (milestone : Dword) (image : List (Nat × Byte)) : Statement (.outOfStepRecovery milestone image) := of_none rfl

theorem contextTeardown (context : Nat) : Statement (.contextTeardown context) := of_none rfl

theorem dvfsPauseEnd : Statement .dvfsPauseEnd := of_none rfl

theorem hostLinkError (wave : Nat) (pc addr : Dword) (lanes : Word) : Statement (.hostLinkError wave pc addr lanes) := of_none rfl

end Sys2Proof.Laws.RoundTrip
end

