-- ==== Sys2Proof/Laws/Runs.lean ====
section
/-! SUPPORT. What the issue of each encoded instruction is checked for: the EXT kinds that apply to it, its operand selects. -/

namespace Sys2Proof.Machine

/-- The operand selects among the operands are those of the list. -/
def SelectsWithin (os : List Opnd) (l : List (BitVec 8)) : Prop := ∀ o ∈ os, o.select = true → o.sel ∈ l

/-- An instruction is issued through the checks, with at most the EXT kinds given, and with no operand select beyond its own. -/
def IsRun (i : Instr) (s : State) (kinds : BitVec 7) : Prop :=
  ∃ sp body, exec i s = run i sp s body ∧ (sp.kinds = kinds ∨ kinds &&& sp.kinds = sp.kinds) ∧
    SelectsWithin sp.opnds (operandSelects i)

theorem within_nil (l : List (BitVec 8)) : SelectsWithin [] l := fun _ h => by cases h
theorem within_cons {o : Opnd} {os : List Opnd} {l : List (BitVec 8)} (h : o.select = true → o.sel ∈ l) (t : SelectsWithin os l) :
    SelectsWithin (o :: os) l := fun x hx => by
  rcases List.mem_cons.1 hx with rfl | hx
  · exact h
  · exact t x hx
theorem within_SS (a b : BitVec 8) : SelectsWithin [opS 1 a, opS 2 b] [a, b] :=
  within_cons (fun _ => .head _) (within_cons (fun _ => .tail _ (.head _)) (within_nil _))
theorem within_first (a b : BitVec 8) : SelectsWithin [opS 1 a] [a, b] := within_cons (fun _ => .head _) (within_nil _)
theorem within_S (a : BitVec 8) : SelectsWithin [opS 1 a] [a] := within_cons (fun _ => .head _) (within_nil _)
theorem within_D (d : BitVec 7) (n : Nat) (l : List (BitVec 8)) : SelectsWithin [(opD d).group n] l :=
  within_cons (fun h => nomatch h) (within_nil _)
theorem within_DAB (d : BitVec 7) (a b : BitVec 8) : SelectsWithin [opD d, opA a, opB b] [a, b] :=
  within_cons (fun h => nomatch h) (within_cons (fun _ => .head _) (within_cons (fun _ => .tail _ (.head _)) (within_nil _)))
theorem within_DA (d : BitVec 7) (a : BitVec 8) : SelectsWithin [opD d, opA a] [a] :=
  within_cons (fun h => nomatch h) (within_cons (fun _ => .head _) (within_nil _))
theorem within_gg (d : BitVec 7) (a : BitVec 8) (n m : Nat) : SelectsWithin [(opD d).group n, (opA a).group m] [a] :=
  within_cons (fun h => nomatch h) (within_cons (fun _ => .head _) (within_nil _))
theorem within_AB (a b : BitVec 8) : SelectsWithin [opA a, opB b] [a, b] :=
  within_cons (fun _ => .head _) (within_cons (fun _ => .tail _ (.head _)) (within_nil _))
theorem within_lea (d : BitVec 7) (a b : BitVec 8) :
    SelectsWithin [(opD d).group 2, if selIsVec a then (opA a).group 2 else opA a, opB b] [a, b] :=
  within_cons (fun h => nomatch h) (within_cons (fun _ => by split <;> exact .head _) (within_cons (fun _ => .tail _ (.head _)) (within_nil _)))
theorem within_srdl (a b : BitVec 8) (s : State) : SelectsWithin [srdlA a s, opS 2 b] [a, b] :=
  within_cons (fun _ => by unfold srdlA; split <;> (try split) <;> exact .head _) (within_cons (fun _ => .tail _ (.head _)) (within_nil _))
theorem within_adr (a : BitVec 7) (m : BitVec 1) (o : List Opnd) (l : List (BitVec 8)) (h : SelectsWithin o l) :
    SelectsWithin (o ++ opAdr a m) l := fun x hx hs => by
  rcases List.mem_append.1 hx with hx | hx
  · exact h x hx hs
  · unfold opAdr at hx; split at hx
    · cases hx
    · rw [List.mem_singleton.1 hx] at hs; cases hs

/-- The kinds of a matrix instruction: EXT.MOD does not apply to an integer pair (R96, R227). -/
theorem mat_kinds (int joint : Bool) :
    ((if int then 0x50#7 else 0x54#7) ||| (if joint then 1 else 0)) = (if joint then 0x55 else 0x54) ∨
    (if joint then 0x55#7 else 0x54#7) &&& ((if int then 0x50#7 else 0x54#7) ||| (if joint then 1 else 0)) =
      ((if int then 0x50#7 else 0x54#7) ||| (if joint then 1 else 0)) := by
  cases int <;> cases joint <;> decide

theorem run_nop (s : State) : IsRun .nop s 0x00 := ⟨_, _, exec_nop .., .inl rfl, within_nil _⟩
theorem run_br (o : BitVec 18) (s : State) : IsRun (.br o) s 0x00 := ⟨_, _, exec_br .., .inl rfl, within_nil _⟩
theorem run_brc (p : BitVec 3) (m : BitVec 3) (o : BitVec 18) (s : State) : IsRun (.brc p m o) s 0x00 := ⟨_, _, exec_brc .., .inl rfl, within_nil _⟩
theorem run_brd (p : BitVec 3) (o : BitVec 18) (s : State) : IsRun (.brd p o) s 0x00 := ⟨_, _, exec_brd .., .inl rfl, within_nil _⟩
theorem run_brdNot (p : BitVec 3) (o : BitVec 18) (s : State) : IsRun (.brdNot p o) s 0x00 := ⟨_, _, exec_brdNot .., .inl rfl, within_nil _⟩
theorem run_brx (a : BitVec 6) (s : State) : IsRun (.brx a) s 0x00 := ⟨_, _, exec_brx .., .inl rfl, within_nil _⟩
theorem run_call (o : BitVec 18) (s : State) : IsRun (.call o) s 0x00 := ⟨_, _, exec_call .., .inl rfl, within_nil _⟩
theorem run_callIndirect (a : BitVec 6) (s : State) : IsRun (.callIndirect a) s 0x00 := ⟨_, _, exec_callIndirect .., .inl rfl, within_nil _⟩
theorem run_rejoin (o : BitVec 18) (s : State) : IsRun (.rejoin o) s 0x00 := ⟨_, _, exec_rejoin .., .inl rfl, within_nil _⟩
theorem run_regang (s : State) : IsRun .regang s 0x00 := ⟨_, _, exec_regang .., .inl rfl, within_nil _⟩
theorem run_ret (s : State) : IsRun .ret s 0x00 := ⟨_, _, exec_ret .., .inl rfl, within_nil _⟩
theorem run_exit (s : State) : IsRun .exit s 0x00 := ⟨_, _, exec_exit .., .inl rfl, within_nil _⟩
theorem run_trap (n : BitVec 24) (s : State) : IsRun (.trap n) s 0x00 := ⟨_, _, exec_trap .., .inl rfl, within_nil _⟩
theorem run_bkpt (s : State) : IsRun .bkpt s 0x00 := ⟨_, _, exec_bkpt .., .inl rfl, within_nil _⟩
theorem run_yield (s : State) : IsRun .yield s 0x00 := ⟨_, _, exec_yield .., .inl rfl, within_nil _⟩
theorem run_tramp (n : BitVec 20) (s : State) : IsRun (.tramp n) s 0x00 := ⟨_, _, exec_tramp .., .inl rfl, within_nil _⟩
theorem run_sadd (d : BitVec 6) (a : BitVec 8) (b : BitVec 8) (s : State) : IsRun (.sadd d a b) s 0x13 := ⟨_, _, exec_sadd .., .inl rfl, within_SS _ _⟩
theorem run_ssub (d : BitVec 6) (a : BitVec 8) (b : BitVec 8) (s : State) : IsRun (.ssub d a b) s 0x13 := ⟨_, _, exec_ssub .., .inl rfl, within_SS _ _⟩
theorem run_smul (d : BitVec 6) (a : BitVec 8) (b : BitVec 8) (s : State) : IsRun (.smul d a b) s 0x13 := ⟨_, _, exec_smul .., .inl rfl, within_SS _ _⟩
theorem run_sand (d : BitVec 6) (a : BitVec 8) (b : BitVec 8) (s : State) : IsRun (.sand d a b) s 0x13 := ⟨_, _, exec_sand .., .inl rfl, within_SS _ _⟩
theorem run_sor (d : BitVec 6) (a : BitVec 8) (b : BitVec 8) (s : State) : IsRun (.sor d a b) s 0x13 := ⟨_, _, exec_sor .., .inl rfl, within_SS _ _⟩
theorem run_sxor (d : BitVec 6) (a : BitVec 8) (b : BitVec 8) (s : State) : IsRun (.sxor d a b) s 0x13 := ⟨_, _, exec_sxor .., .inl rfl, within_SS _ _⟩
theorem run_sshl (d : BitVec 6) (a : BitVec 8) (b : BitVec 8) (s : State) : IsRun (.sshl d a b) s 0x13 := ⟨_, _, exec_sshl .., .inl rfl, within_SS _ _⟩
theorem run_sshr (d : BitVec 6) (a : BitVec 8) (b : BitVec 8) (s : State) : IsRun (.sshr d a b) s 0x13 := ⟨_, _, exec_sshr .., .inl rfl, within_SS _ _⟩
theorem run_ssar (d : BitVec 6) (a : BitVec 8) (b : BitVec 8) (s : State) : IsRun (.ssar d a b) s 0x13 := ⟨_, _, exec_ssar .., .inl rfl, within_SS _ _⟩
theorem run_smov (d : BitVec 6) (a : BitVec 8) (s : State) : IsRun (.smov d a) s 0x13 := ⟨_, _, exec_smov .., .inl rfl, within_S _⟩
theorem run_smovi (d : BitVec 6) (im : BitVec 16) (s : State) : IsRun (.smovi d im) s 0x13 := ⟨_, _, exec_smovi .., .inl rfl, within_nil _⟩
theorem run_scmp (c : BitVec 4) (p : BitVec 3) (m : BitVec 1) (a : BitVec 8) (b : BitVec 8) (s : State) : IsRun (.scmp c p m a b) s 0x17 := ⟨_, _, exec_scmp .., .inl rfl, within_SS _ _⟩
theorem run_sldN8 (d : BitVec 6) (a : BitVec 6) (st : BitVec 4) (c : BitVec 3) (o : BitVec 2) (s : State) : IsRun (.sldN8 d a st c o) s 0x18 := ⟨_, _, exec_sldN8 .., .inl rfl, within_nil _⟩
theorem run_sldI8 (d : BitVec 6) (a : BitVec 6) (st : BitVec 4) (c : BitVec 3) (o : BitVec 2) (s : State) : IsRun (.sldI8 d a st c o) s 0x18 := ⟨_, _, exec_sldI8 .., .inl rfl, within_nil _⟩
theorem run_sldN16 (d : BitVec 6) (a : BitVec 6) (st : BitVec 4) (c : BitVec 3) (o : BitVec 2) (s : State) : IsRun (.sldN16 d a st c o) s 0x18 := ⟨_, _, exec_sldN16 .., .inl rfl, within_nil _⟩
theorem run_sldI16 (d : BitVec 6) (a : BitVec 6) (st : BitVec 4) (c : BitVec 3) (o : BitVec 2) (s : State) : IsRun (.sldI16 d a st c o) s 0x18 := ⟨_, _, exec_sldI16 .., .inl rfl, within_nil _⟩
theorem run_sldN32 (d : BitVec 6) (a : BitVec 6) (st : BitVec 4) (c : BitVec 3) (o : BitVec 2) (s : State) : IsRun (.sldN32 d a st c o) s 0x18 := ⟨_, _, exec_sldN32 .., .inl rfl, within_nil _⟩
theorem run_sldI32 (d : BitVec 6) (a : BitVec 6) (st : BitVec 4) (c : BitVec 3) (o : BitVec 2) (s : State) : IsRun (.sldI32 d a st c o) s 0x18 := ⟨_, _, exec_sldI32 .., .inl rfl, within_nil _⟩
theorem run_sldN64 (d : BitVec 6) (a : BitVec 6) (st : BitVec 4) (c : BitVec 3) (o : BitVec 2) (s : State) : IsRun (.sldN64 d a st c o) s 0x18 := ⟨_, _, exec_sldN64 .., .inl rfl, within_nil _⟩
theorem run_sstN8 (d : BitVec 6) (a : BitVec 6) (st : BitVec 4) (c : BitVec 3) (o : BitVec 2) (s : State) : IsRun (.sstN8 d a st c o) s 0x18 := ⟨_, _, exec_sstN8 .., .inl rfl, within_nil _⟩
theorem run_sstN16 (d : BitVec 6) (a : BitVec 6) (st : BitVec 4) (c : BitVec 3) (o : BitVec 2) (s : State) : IsRun (.sstN16 d a st c o) s 0x18 := ⟨_, _, exec_sstN16 .., .inl rfl, within_nil _⟩
theorem run_sstN32 (d : BitVec 6) (a : BitVec 6) (st : BitVec 4) (c : BitVec 3) (o : BitVec 2) (s : State) : IsRun (.sstN32 d a st c o) s 0x18 := ⟨_, _, exec_sstN32 .., .inl rfl, within_nil _⟩
theorem run_sstN64 (d : BitVec 6) (a : BitVec 6) (st : BitVec 4) (c : BitVec 3) (o : BitVec 2) (s : State) : IsRun (.sstN64 d a st c o) s 0x18 := ⟨_, _, exec_sstN64 .., .inl rfl, within_nil _⟩
theorem run_and (w : BitVec 1) (d : BitVec 7) (a : BitVec 8) (b : BitVec 8) (s : State) : IsRun (.and w d a b) s 0x37 := ⟨_, _, exec_and .., .inl rfl, within_DAB _ _ _⟩
theorem run_or (w : BitVec 1) (d : BitVec 7) (a : BitVec 8) (b : BitVec 8) (s : State) : IsRun (.or w d a b) s 0x37 := ⟨_, _, exec_or .., .inl rfl, within_DAB _ _ _⟩
theorem run_xor (w : BitVec 1) (d : BitVec 7) (a : BitVec 8) (b : BitVec 8) (s : State) : IsRun (.xor w d a b) s 0x37 := ⟨_, _, exec_xor .., .inl rfl, within_DAB _ _ _⟩
theorem run_not (w : BitVec 1) (d : BitVec 7) (a : BitVec 8) (s : State) : IsRun (.not w d a) s 0x37 := ⟨_, _, exec_not .., .inl rfl, within_DA _ _⟩
theorem run_shl (w : BitVec 1) (d : BitVec 7) (a : BitVec 8) (b : BitVec 8) (s : State) : IsRun (.shl w d a b) s 0x37 := ⟨_, _, exec_shl .., .inl rfl, within_DAB _ _ _⟩
theorem run_shr (w : BitVec 1) (d : BitVec 7) (a : BitVec 8) (b : BitVec 8) (s : State) : IsRun (.shr w d a b) s 0x37 := ⟨_, _, exec_shr .., .inl rfl, within_DAB _ _ _⟩
theorem run_sar (w : BitVec 1) (d : BitVec 7) (a : BitVec 8) (b : BitVec 8) (s : State) : IsRun (.sar w d a b) s 0x37 := ⟨_, _, exec_sar .., .inl rfl, within_DAB _ _ _⟩
theorem run_bfeN32 (w : BitVec 1) (d : BitVec 7) (a : BitVec 8) (b : BitVec 8) (s : State) : IsRun (.bfeN32 w d a b) s 0x37 := ⟨_, _, exec_bfeN32 .., .inl rfl, within_DAB _ _ _⟩
theorem run_bfeI32 (w : BitVec 1) (d : BitVec 7) (a : BitVec 8) (b : BitVec 8) (s : State) : IsRun (.bfeI32 w d a b) s 0x37 := ⟨_, _, exec_bfeI32 .., .inl rfl, within_DAB _ _ _⟩
theorem run_bfi (w : BitVec 1) (d : BitVec 7) (a : BitVec 8) (b : BitVec 8) (s : State) : IsRun (.bfi w d a b) s 0x37 := ⟨_, _, exec_bfi .., .inl rfl, within_DAB _ _ _⟩
theorem run_clz (w : BitVec 1) (d : BitVec 7) (a : BitVec 8) (s : State) : IsRun (.clz w d a) s 0x37 := ⟨_, _, exec_clz .., .inl rfl, within_DA _ _⟩
theorem run_popc (w : BitVec 1) (d : BitVec 7) (a : BitVec 8) (s : State) : IsRun (.popc w d a) s 0x37 := ⟨_, _, exec_popc .., .inl rfl, within_DA _ _⟩
theorem run_iadd (w : BitVec 1) (d : BitVec 7) (a : BitVec 8) (b : BitVec 8) (s : State) : IsRun (.iadd w d a b) s 0x37 := ⟨_, _, exec_iadd .., .inl rfl, within_DAB _ _ _⟩
theorem run_isub (w : BitVec 1) (d : BitVec 7) (a : BitVec 8) (b : BitVec 8) (s : State) : IsRun (.isub w d a b) s 0x37 := ⟨_, _, exec_isub .., .inl rfl, within_DAB _ _ _⟩
theorem run_iaddsI32 (w : BitVec 1) (d : BitVec 7) (a : BitVec 8) (b : BitVec 8) (s : State) : IsRun (.iaddsI32 w d a b) s 0x37 := ⟨_, _, exec_iaddsI32 .., .inl rfl, within_DAB _ _ _⟩
theorem run_iaddsN32 (w : BitVec 1) (d : BitVec 7) (a : BitVec 8) (b : BitVec 8) (s : State) : IsRun (.iaddsN32 w d a b) s 0x37 := ⟨_, _, exec_iaddsN32 .., .inl rfl, within_DAB _ _ _⟩
theorem run_isubsI32 (w : BitVec 1) (d : BitVec 7) (a : BitVec 8) (b : BitVec 8) (s : State) : IsRun (.isubsI32 w d a b) s 0x37 := ⟨_, _, exec_isubsI32 .., .inl rfl, within_DAB _ _ _⟩
theorem run_isubsN32 (w : BitVec 1) (d : BitVec 7) (a : BitVec 8) (b : BitVec 8) (s : State) : IsRun (.isubsN32 w d a b) s 0x37 := ⟨_, _, exec_isubsN32 .., .inl rfl, within_DAB _ _ _⟩
theorem run_imul (w : BitVec 1) (d : BitVec 7) (a : BitVec 8) (b : BitVec 8) (s : State) : IsRun (.imul w d a b) s 0x37 := ⟨_, _, exec_imul .., .inl rfl, within_DAB _ _ _⟩
theorem run_imulhI32 (w : BitVec 1) (d : BitVec 7) (a : BitVec 8) (b : BitVec 8) (s : State) : IsRun (.imulhI32 w d a b) s 0x37 := ⟨_, _, exec_imulhI32 .., .inl rfl, within_DAB _ _ _⟩
theorem run_imulhN32 (w : BitVec 1) (d : BitVec 7) (a : BitVec 8) (b : BitVec 8) (s : State) : IsRun (.imulhN32 w d a b) s 0x37 := ⟨_, _, exec_imulhN32 .., .inl rfl, within_DAB _ _ _⟩
theorem run_imad (w : BitVec 1) (d : BitVec 7) (a : BitVec 8) (b : BitVec 8) (s : State) : IsRun (.imad w d a b) s 0x37 := ⟨_, _, exec_imad .., .inl rfl, within_DAB _ _ _⟩
theorem run_iminI32 (w : BitVec 1) (d : BitVec 7) (a : BitVec 8) (b : BitVec 8) (s : State) : IsRun (.iminI32 w d a b) s 0x37 := ⟨_, _, exec_iminI32 .., .inl rfl, within_DAB _ _ _⟩
theorem run_iminN32 (w : BitVec 1) (d : BitVec 7) (a : BitVec 8) (b : BitVec 8) (s : State) : IsRun (.iminN32 w d a b) s 0x37 := ⟨_, _, exec_iminN32 .., .inl rfl, within_DAB _ _ _⟩
theorem run_imaxI32 (w : BitVec 1) (d : BitVec 7) (a : BitVec 8) (b : BitVec 8) (s : State) : IsRun (.imaxI32 w d a b) s 0x37 := ⟨_, _, exec_imaxI32 .., .inl rfl, within_DAB _ _ _⟩
theorem run_imaxN32 (w : BitVec 1) (d : BitVec 7) (a : BitVec 8) (b : BitVec 8) (s : State) : IsRun (.imaxN32 w d a b) s 0x37 := ⟨_, _, exec_imaxN32 .., .inl rfl, within_DAB _ _ _⟩
theorem run_iabs (w : BitVec 1) (d : BitVec 7) (a : BitVec 8) (s : State) : IsRun (.iabs w d a) s 0x37 := ⟨_, _, exec_iabs .., .inl rfl, within_DA _ _⟩
theorem run_icmpI32 (c : BitVec 4) (p : BitVec 3) (m : BitVec 1) (a : BitVec 8) (b : BitVec 8) (s : State) : IsRun (.icmpI32 c p m a b) s 0x17 := ⟨_, _, exec_icmpI32 .., .inl rfl, within_AB _ _⟩
theorem run_icmpN32 (c : BitVec 4) (p : BitVec 3) (m : BitVec 1) (a : BitVec 8) (b : BitVec 8) (s : State) : IsRun (.icmpN32 c p m a b) s 0x17 := ⟨_, _, exec_icmpN32 .., .inl rfl, within_AB _ _⟩
theorem run_lea (w : BitVec 1) (d : BitVec 7) (a : BitVec 8) (b : BitVec 8) (s : State) : IsRun (.lea w d a b) s 0x37 := ⟨_, _, exec_lea .., .inl rfl, within_lea _ _ _⟩
theorem run_mov (w : BitVec 1) (d : BitVec 7) (a : BitVec 8) (r : BitVec 1) (t : BitVec 4) (s : State) : IsRun (.mov w d a r t) s 0x37 := ⟨_, _, exec_mov .., .inl rfl, within_DA _ _⟩
theorem run_movi (w : BitVec 1) (d : BitVec 7) (im : BitVec 16) (s : State) : IsRun (.movi w d im) s 0x37 := ⟨_, _, exec_movi .., .inl rfl, within_D _ _ _⟩
theorem run_sel (w : BitVec 1) (d : BitVec 7) (a : BitVec 8) (b : BitVec 8) (s : State) : IsRun (.sel w d a b) s 0x37 := ⟨_, _, exec_sel .., .inl rfl, within_DAB _ _ _⟩
theorem run_shfl (w : BitVec 1) (d : BitVec 7) (a : BitVec 8) (b : BitVec 8) (s : State) : IsRun (.shfl w d a b) s 0x37 := ⟨_, _, exec_shfl .., .inl rfl, within_DAB _ _ _⟩
theorem run_vote (d : BitVec 6) (p : BitVec 3) (b : BitVec 8) (s : State) : IsRun (.vote d p b) s 0x10 := ⟨_, _, exec_vote .., .inl rfl, within_nil _⟩
theorem run_redl (w : BitVec 1) (d : BitVec 6) (a : BitVec 8) (b : BitVec 8) (s : State) : IsRun (.redl w d a b) s 0x10 := ⟨_, _, exec_redl .., .inl rfl, within_first _ _⟩
theorem run_srdl (d : BitVec 6) (a : BitVec 8) (b : BitVec 8) (s : State) : IsRun (.srdl d a b) s 0x13 := ⟨_, _, exec_srdl .., .inl rfl, within_srdl _ _ _⟩
theorem run_fadd (w : BitVec 1) (d : BitVec 7) (a : BitVec 8) (b : BitVec 8) (s : State) : IsRun (.fadd w d a b) s 0x37 := ⟨_, _, exec_fadd .., .inl rfl, within_DAB _ _ _⟩
theorem run_fsub (w : BitVec 1) (d : BitVec 7) (a : BitVec 8) (b : BitVec 8) (s : State) : IsRun (.fsub w d a b) s 0x37 := ⟨_, _, exec_fsub .., .inl rfl, within_DAB _ _ _⟩
theorem run_fmul (w : BitVec 1) (d : BitVec 7) (a : BitVec 8) (b : BitVec 8) (s : State) : IsRun (.fmul w d a b) s 0x37 := ⟨_, _, exec_fmul .., .inl rfl, within_DAB _ _ _⟩
theorem run_ffma (w : BitVec 1) (d : BitVec 7) (a : BitVec 8) (b : BitVec 8) (s : State) : IsRun (.ffma w d a b) s 0x37 := ⟨_, _, exec_ffma .., .inl rfl, within_DAB _ _ _⟩
theorem run_fmin (w : BitVec 1) (d : BitVec 7) (a : BitVec 8) (b : BitVec 8) (s : State) : IsRun (.fmin w d a b) s 0x37 := ⟨_, _, exec_fmin .., .inl rfl, within_DAB _ _ _⟩
theorem run_fmax (w : BitVec 1) (d : BitVec 7) (a : BitVec 8) (b : BitVec 8) (s : State) : IsRun (.fmax w d a b) s 0x37 := ⟨_, _, exec_fmax .., .inl rfl, within_DAB _ _ _⟩
theorem run_fabs (w : BitVec 1) (d : BitVec 7) (a : BitVec 8) (s : State) : IsRun (.fabs w d a) s 0x37 := ⟨_, _, exec_fabs .., .inl rfl, within_DA _ _⟩
theorem run_fneg (w : BitVec 1) (d : BitVec 7) (a : BitVec 8) (s : State) : IsRun (.fneg w d a) s 0x37 := ⟨_, _, exec_fneg .., .inl rfl, within_DA _ _⟩
theorem run_fclamp (w : BitVec 1) (d : BitVec 7) (a : BitVec 8) (b : BitVec 8) (s : State) : IsRun (.fclamp w d a b) s 0x37 := ⟨_, _, exec_fclamp .., .inl rfl, within_DAB _ _ _⟩
theorem run_fcmp (c : BitVec 4) (p : BitVec 3) (m : BitVec 1) (a : BitVec 8) (b : BitVec 8) (s : State) : IsRun (.fcmp c p m a b) s 0x17 := ⟨_, _, exec_fcmp .., .inl rfl, within_AB _ _⟩
theorem run_fexp2 (w : BitVec 1) (d : BitVec 7) (a : BitVec 8) (s : State) : IsRun (.fexp2 w d a) s 0x37 := ⟨_, _, exec_fexp2 .., .inl rfl, within_DA _ _⟩
theorem run_flog2 (w : BitVec 1) (d : BitVec 7) (a : BitVec 8) (s : State) : IsRun (.flog2 w d a) s 0x37 := ⟨_, _, exec_flog2 .., .inl rfl, within_DA _ _⟩
theorem run_frcp (w : BitVec 1) (d : BitVec 7) (a : BitVec 8) (s : State) : IsRun (.frcp w d a) s 0x37 := ⟨_, _, exec_frcp .., .inl rfl, within_DA _ _⟩
theorem run_frsq (w : BitVec 1) (d : BitVec 7) (a : BitVec 8) (s : State) : IsRun (.frsq w d a) s 0x37 := ⟨_, _, exec_frsq .., .inl rfl, within_DA _ _⟩
theorem run_fsqrt (w : BitVec 1) (d : BitVec 7) (a : BitVec 8) (s : State) : IsRun (.fsqrt w d a) s 0x37 := ⟨_, _, exec_fsqrt .., .inl rfl, within_DA _ _⟩
theorem run_ftanh (w : BitVec 1) (d : BitVec 7) (a : BitVec 8) (s : State) : IsRun (.ftanh w d a) s 0x37 := ⟨_, _, exec_ftanh .., .inl rfl, within_DA _ _⟩
theorem run_hadd2F16 (w : BitVec 1) (d : BitVec 7) (a : BitVec 8) (b : BitVec 8) (s : State) : IsRun (.hadd2F16 w d a b) s 0x37 := ⟨_, _, exec_hadd2F16 .., .inl rfl, within_DAB _ _ _⟩
theorem run_hadd2Bf16 (w : BitVec 1) (d : BitVec 7) (a : BitVec 8) (b : BitVec 8) (s : State) : IsRun (.hadd2Bf16 w d a b) s 0x37 := ⟨_, _, exec_hadd2Bf16 .., .inl rfl, within_DAB _ _ _⟩
theorem run_hmul2F16 (w : BitVec 1) (d : BitVec 7) (a : BitVec 8) (b : BitVec 8) (s : State) : IsRun (.hmul2F16 w d a b) s 0x37 := ⟨_, _, exec_hmul2F16 .., .inl rfl, within_DAB _ _ _⟩
theorem run_hmul2Bf16 (w : BitVec 1) (d : BitVec 7) (a : BitVec 8) (b : BitVec 8) (s : State) : IsRun (.hmul2Bf16 w d a b) s 0x37 := ⟨_, _, exec_hmul2Bf16 .., .inl rfl, within_DAB _ _ _⟩
theorem run_hfma2F16 (w : BitVec 1) (d : BitVec 7) (a : BitVec 8) (b : BitVec 8) (s : State) : IsRun (.hfma2F16 w d a b) s 0x37 := ⟨_, _, exec_hfma2F16 .., .inl rfl, within_DAB _ _ _⟩
theorem run_hfma2Bf16 (w : BitVec 1) (d : BitVec 7) (a : BitVec 8) (b : BitVec 8) (s : State) : IsRun (.hfma2Bf16 w d a b) s 0x37 := ⟨_, _, exec_hfma2Bf16 .., .inl rfl, within_DAB _ _ _⟩
theorem run_cvt (w : BitVec 1) (d : BitVec 7) (a : BitVec 8) (r : BitVec 4) (st : BitVec 4) (s : State) : IsRun (.cvt w d a r st) s 0x37 := ⟨_, _, exec_cvt .., .inl rfl, within_gg _ _ _ _⟩
theorem run_qcvt (w : BitVec 1) (d : BitVec 7) (a : BitVec 8) (r : BitVec 4) (st : BitVec 4) (s : State) : IsRun (.qcvt w d a r st) s 0x37 := ⟨_, _, exec_qcvt .., .inl rfl, within_gg _ _ _ _⟩
theorem run_qunp (w : BitVec 1) (d : BitVec 7) (a : BitVec 8) (r : BitVec 4) (st : BitVec 4) (s : State) : IsRun (.qunp w d a r st) s 0x37 := ⟨_, _, exec_qunp .., .inl rfl, within_gg _ _ _ _⟩
theorem run_ldB32 (d : BitVec 7) (a : BitVec 7) (m : BitVec 1) (st : BitVec 4) (c : BitVec 3) (o : BitVec 2) (s : State) : IsRun (.ldB32 d a m st c o) s 0x1C := ⟨_, _, exec_ldB32 .., .inl rfl, within_adr _ _ _ _ (within_D _ _ _)⟩
theorem run_ldF32 (d : BitVec 7) (a : BitVec 7) (m : BitVec 1) (st : BitVec 4) (c : BitVec 3) (o : BitVec 2) (s : State) : IsRun (.ldF32 d a m st c o) s 0x1C := ⟨_, _, exec_ldF32 .., .inl rfl, within_adr _ _ _ _ (within_D _ _ _)⟩
theorem run_ldI32 (d : BitVec 7) (a : BitVec 7) (m : BitVec 1) (st : BitVec 4) (c : BitVec 3) (o : BitVec 2) (s : State) : IsRun (.ldI32 d a m st c o) s 0x1C := ⟨_, _, exec_ldI32 .., .inl rfl, within_adr _ _ _ _ (within_D _ _ _)⟩
theorem run_ldN32 (d : BitVec 7) (a : BitVec 7) (m : BitVec 1) (st : BitVec 4) (c : BitVec 3) (o : BitVec 2) (s : State) : IsRun (.ldN32 d a m st c o) s 0x1C := ⟨_, _, exec_ldN32 .., .inl rfl, within_adr _ _ _ _ (within_D _ _ _)⟩
theorem run_ldF16 (d : BitVec 7) (a : BitVec 7) (m : BitVec 1) (st : BitVec 4) (c : BitVec 3) (o : BitVec 2) (s : State) : IsRun (.ldF16 d a m st c o) s 0x1C := ⟨_, _, exec_ldF16 .., .inl rfl, within_adr _ _ _ _ (within_D _ _ _)⟩
theorem run_ldBf16 (d : BitVec 7) (a : BitVec 7) (m : BitVec 1) (st : BitVec 4) (c : BitVec 3) (o : BitVec 2) (s : State) : IsRun (.ldBf16 d a m st c o) s 0x1C := ⟨_, _, exec_ldBf16 .., .inl rfl, within_adr _ _ _ _ (within_D _ _ _)⟩
theorem run_ldE4m3 (d : BitVec 7) (a : BitVec 7) (m : BitVec 1) (st : BitVec 4) (c : BitVec 3) (o : BitVec 2) (s : State) : IsRun (.ldE4m3 d a m st c o) s 0x1C := ⟨_, _, exec_ldE4m3 .., .inl rfl, within_adr _ _ _ _ (within_D _ _ _)⟩
theorem run_ldI64 (d : BitVec 7) (a : BitVec 7) (m : BitVec 1) (st : BitVec 4) (c : BitVec 3) (o : BitVec 2) (s : State) : IsRun (.ldI64 d a m st c o) s 0x1C := ⟨_, _, exec_ldI64 .., .inl rfl, within_adr _ _ _ _ (within_D _ _ _)⟩
theorem run_stB32 (d : BitVec 7) (a : BitVec 7) (m : BitVec 1) (st : BitVec 4) (c : BitVec 3) (o : BitVec 2) (s : State) : IsRun (.stB32 d a m st c o) s 0x1C := ⟨_, _, exec_stB32 .., .inl rfl, within_adr _ _ _ _ (within_D _ _ _)⟩
theorem run_stI64 (d : BitVec 7) (a : BitVec 7) (m : BitVec 1) (st : BitVec 4) (c : BitVec 3) (o : BitVec 2) (s : State) : IsRun (.stI64 d a m st c o) s 0x1C := ⟨_, _, exec_stI64 .., .inl rfl, within_adr _ _ _ _ (within_D _ _ _)⟩
theorem run_fence (u : BitVec 1) (c : BitVec 3) (k : BitVec 16) (s : State) : IsRun (.fence u c k) s 0x00 := ⟨_, _, exec_fence .., .inl rfl, within_nil _⟩
theorem run_wldN32 (d : BitVec 7) (a : BitVec 7) (m : BitVec 1) (st : BitVec 4) (o : BitVec 2) (s : State) : IsRun (.wldN32 d a m st o) s 0x1C := ⟨_, _, exec_wldN32 .., .inl rfl, within_adr _ _ _ _ (within_D _ _ _)⟩
theorem run_wldN64 (d : BitVec 7) (a : BitVec 7) (m : BitVec 1) (st : BitVec 4) (o : BitVec 2) (s : State) : IsRun (.wldN64 d a m st o) s 0x1C := ⟨_, _, exec_wldN64 .., .inl rfl, within_adr _ _ _ _ (within_D _ _ _)⟩
theorem run_pref (a : BitVec 7) (m : BitVec 1) (st : BitVec 4) (c : BitVec 3) (s : State) : IsRun (.pref a m st c) s 0x1C := ⟨_, _, exec_pref .., .inl rfl, within_adr _ _ _ _ (within_nil _)⟩
theorem run_atomAdd (d : BitVec 7) (a : BitVec 7) (m : BitVec 1) (st : BitVec 4) (c : BitVec 3) (o : BitVec 2) (s : State) : IsRun (.atomAdd d a m st c o) s 0x1C := ⟨_, _, exec_atomAdd .., .inl rfl, within_adr _ _ _ _ (within_D _ _ _)⟩
theorem run_atomSmin (d : BitVec 7) (a : BitVec 7) (m : BitVec 1) (st : BitVec 4) (c : BitVec 3) (o : BitVec 2) (s : State) : IsRun (.atomSmin d a m st c o) s 0x1C := ⟨_, _, exec_atomSmin .., .inl rfl, within_adr _ _ _ _ (within_D _ _ _)⟩
theorem run_atomSmax (d : BitVec 7) (a : BitVec 7) (m : BitVec 1) (st : BitVec 4) (c : BitVec 3) (o : BitVec 2) (s : State) : IsRun (.atomSmax d a m st c o) s 0x1C := ⟨_, _, exec_atomSmax .., .inl rfl, within_adr _ _ _ _ (within_D _ _ _)⟩
theorem run_atomUmin (d : BitVec 7) (a : BitVec 7) (m : BitVec 1) (st : BitVec 4) (c : BitVec 3) (o : BitVec 2) (s : State) : IsRun (.atomUmin d a m st c o) s 0x1C := ⟨_, _, exec_atomUmin .., .inl rfl, within_adr _ _ _ _ (within_D _ _ _)⟩
theorem run_atomUmax (d : BitVec 7) (a : BitVec 7) (m : BitVec 1) (st : BitVec 4) (c : BitVec 3) (o : BitVec 2) (s : State) : IsRun (.atomUmax d a m st c o) s 0x1C := ⟨_, _, exec_atomUmax .., .inl rfl, within_adr _ _ _ _ (within_D _ _ _)⟩
theorem run_atomAnd (d : BitVec 7) (a : BitVec 7) (m : BitVec 1) (st : BitVec 4) (c : BitVec 3) (o : BitVec 2) (s : State) : IsRun (.atomAnd d a m st c o) s 0x1C := ⟨_, _, exec_atomAnd .., .inl rfl, within_adr _ _ _ _ (within_D _ _ _)⟩
theorem run_atomOr (d : BitVec 7) (a : BitVec 7) (m : BitVec 1) (st : BitVec 4) (c : BitVec 3) (o : BitVec 2) (s : State) : IsRun (.atomOr d a m st c o) s 0x1C := ⟨_, _, exec_atomOr .., .inl rfl, within_adr _ _ _ _ (within_D _ _ _)⟩
theorem run_atomXor (d : BitVec 7) (a : BitVec 7) (m : BitVec 1) (st : BitVec 4) (c : BitVec 3) (o : BitVec 2) (s : State) : IsRun (.atomXor d a m st c o) s 0x1C := ⟨_, _, exec_atomXor .., .inl rfl, within_adr _ _ _ _ (within_D _ _ _)⟩
theorem run_atomExch (d : BitVec 7) (a : BitVec 7) (m : BitVec 1) (st : BitVec 4) (c : BitVec 3) (o : BitVec 2) (s : State) : IsRun (.atomExch d a m st c o) s 0x1C := ⟨_, _, exec_atomExch .., .inl rfl, within_adr _ _ _ _ (within_D _ _ _)⟩
theorem run_atomCas (d : BitVec 7) (a : BitVec 7) (m : BitVec 1) (st : BitVec 4) (c : BitVec 3) (o : BitVec 2) (s : State) : IsRun (.atomCas d a m st c o) s 0x1C := ⟨_, _, exec_atomCas .., .inl rfl, within_adr _ _ _ _ (within_D _ _ _)⟩
theorem run_redAdd (d : BitVec 7) (a : BitVec 7) (m : BitVec 1) (st : BitVec 4) (c : BitVec 3) (o : BitVec 2) (s : State) : IsRun (.redAdd d a m st c o) s 0x1C := ⟨_, _, exec_redAdd .., .inl rfl, within_adr _ _ _ _ (within_D _ _ _)⟩
theorem run_redSmin (d : BitVec 7) (a : BitVec 7) (m : BitVec 1) (st : BitVec 4) (c : BitVec 3) (o : BitVec 2) (s : State) : IsRun (.redSmin d a m st c o) s 0x1C := ⟨_, _, exec_redSmin .., .inl rfl, within_adr _ _ _ _ (within_D _ _ _)⟩
theorem run_redSmax (d : BitVec 7) (a : BitVec 7) (m : BitVec 1) (st : BitVec 4) (c : BitVec 3) (o : BitVec 2) (s : State) : IsRun (.redSmax d a m st c o) s 0x1C := ⟨_, _, exec_redSmax .., .inl rfl, within_adr _ _ _ _ (within_D _ _ _)⟩
theorem run_redUmin (d : BitVec 7) (a : BitVec 7) (m : BitVec 1) (st : BitVec 4) (c : BitVec 3) (o : BitVec 2) (s : State) : IsRun (.redUmin d a m st c o) s 0x1C := ⟨_, _, exec_redUmin .., .inl rfl, within_adr _ _ _ _ (within_D _ _ _)⟩
theorem run_redUmax (d : BitVec 7) (a : BitVec 7) (m : BitVec 1) (st : BitVec 4) (c : BitVec 3) (o : BitVec 2) (s : State) : IsRun (.redUmax d a m st c o) s 0x1C := ⟨_, _, exec_redUmax .., .inl rfl, within_adr _ _ _ _ (within_D _ _ _)⟩
theorem run_redAnd (d : BitVec 7) (a : BitVec 7) (m : BitVec 1) (st : BitVec 4) (c : BitVec 3) (o : BitVec 2) (s : State) : IsRun (.redAnd d a m st c o) s 0x1C := ⟨_, _, exec_redAnd .., .inl rfl, within_adr _ _ _ _ (within_D _ _ _)⟩
theorem run_redOr (d : BitVec 7) (a : BitVec 7) (m : BitVec 1) (st : BitVec 4) (c : BitVec 3) (o : BitVec 2) (s : State) : IsRun (.redOr d a m st c o) s 0x1C := ⟨_, _, exec_redOr .., .inl rfl, within_adr _ _ _ _ (within_D _ _ _)⟩
theorem run_redXor (d : BitVec 7) (a : BitVec 7) (m : BitVec 1) (st : BitVec 4) (c : BitVec 3) (o : BitVec 2) (s : State) : IsRun (.redXor d a m st c o) s 0x1C := ⟨_, _, exec_redXor .., .inl rfl, within_adr _ _ _ _ (within_D _ _ _)⟩
theorem run_mma (t : BitVec 4) (f : BitVec 4) (g : BitVec 4) (a : BitVec 6) (b : BitVec 6) (s : State) : IsRun (.mma t f g a b) s 0x54 := ⟨_, _, exec_mma .., mat_kinds _ _, within_nil _⟩
theorem run_mmas (t : BitVec 4) (f : BitVec 4) (g : BitVec 4) (a : BitVec 6) (b : BitVec 6) (s : State) : IsRun (.mmas t f g a b) s 0x54 := ⟨_, _, exec_mmas .., mat_kinds _ _, within_nil _⟩
theorem run_mmag (t : BitVec 4) (g : BitVec 4) (a : BitVec 6) (b : BitVec 6) (s : State) : IsRun (.mmag t g a b) s 0x54 := ⟨_, _, exec_mmag .., mat_kinds _ _, within_nil _⟩
theorem run_mmaG (t : BitVec 4) (f : BitVec 4) (g : BitVec 4) (a : BitVec 6) (b : BitVec 6) (s : State) : IsRun (.mmaG t f g a b) s 0x55 := ⟨_, _, exec_mmaG .., mat_kinds _ _, within_nil _⟩
theorem run_mmasG (t : BitVec 4) (f : BitVec 4) (g : BitVec 4) (a : BitVec 6) (b : BitVec 6) (s : State) : IsRun (.mmasG t f g a b) s 0x55 := ⟨_, _, exec_mmasG .., mat_kinds _ _, within_nil _⟩
theorem run_mmagG (t : BitVec 4) (g : BitVec 4) (a : BitVec 6) (b : BitVec 6) (s : State) : IsRun (.mmagG t g a b) s 0x55 := ⟨_, _, exec_mmagG .., mat_kinds _ _, within_nil _⟩
theorem run_tld (t : BitVec 4) (f : BitVec 4) (st : BitVec 4) (a : BitVec 6) (b : BitVec 6) (s : State) : IsRun (.tld t f st a b) s 0x10 := ⟨_, _, exec_tld .., .inl rfl, within_nil _⟩
theorem run_tst (t : BitVec 4) (f : BitVec 4) (st : BitVec 4) (a : BitVec 6) (b : BitVec 6) (s : State) : IsRun (.tst t f st a b) s 0x34 := ⟨_, _, exec_tst .., .inl rfl, within_nil _⟩
theorem run_tzero (t : BitVec 4) (f : BitVec 4) (s : State) : IsRun (.tzero t f) s 0x00 := ⟨_, _, exec_tzero .., .inl rfl, within_nil _⟩
theorem run_opfence (s : State) : IsRun .opfence s 0x00 := ⟨_, _, exec_opfence .., .inl rfl, within_nil _⟩
theorem run_mwait (n : BitVec 4) (s : State) : IsRun (.mwait n) s 0x00 := ⟨_, _, exec_mwait .., .inl rfl, within_nil _⟩
theorem run_cpy (a : BitVec 6) (c : BitVec 3) (st : BitVec 4) (d : BitVec 6) (s : State) : IsRun (.cpy a c st d) s 0x10 := ⟨_, _, exec_cpy .., .inl rfl, within_nil _⟩
theorem run_cpym (a : BitVec 6) (c : BitVec 3) (st : BitVec 4) (d : BitVec 6) (s : State) : IsRun (.cpym a c st d) s 0x10 := ⟨_, _, exec_cpym .., .inl rfl, within_nil _⟩
theorem run_coll (a : BitVec 6) (st : BitVec 4) (g : BitVec 4) (s : State) : IsRun (.coll a st g) s 0x00 := ⟨_, _, exec_coll .., .inl rfl, within_nil _⟩
theorem run_msfence (k : BitVec 16) (s : State) : IsRun (.msfence k) s 0x00 := ⟨_, _, exec_msfence .., .inl rfl, within_nil _⟩
theorem run_mswait (m : BitVec 6) (k : BitVec 16) (s : State) : IsRun (.mswait m k) s 0x00 := ⟨_, _, exec_mswait .., .inl rfl, within_nil _⟩
theorem run_rway (a : BitVec 6) (c : BitVec 2) (k : BitVec 4) (s : State) : IsRun (.rway a c k) s 0x00 := ⟨_, _, exec_rway .., .inl rfl, within_nil _⟩
theorem run_vopen (a : BitVec 6) (d : BitVec 6) (s : State) : IsRun (.vopen a d) s 0x00 := ⟨_, _, exec_vopen .., .inl rfl, within_nil _⟩
theorem run_vsend (a : BitVec 6) (h : BitVec 6) (st : BitVec 6) (s : State) : IsRun (.vsend a h st) s 0x00 := ⟨_, _, exec_vsend .., .inl rfl, within_nil _⟩
theorem run_jpost (a : BitVec 6) (p : BitVec 3) (d : BitVec 6) (s : State) : IsRun (.jpost a p d) s 0x00 := ⟨_, _, exec_jpost .., .inl rfl, within_nil _⟩
theorem run_vdrop (h : BitVec 6) (d : BitVec 6) (s : State) : IsRun (.vdrop h d) s 0x00 := ⟨_, _, exec_vdrop .., .inl rfl, within_nil _⟩
theorem run_gjoin (g : BitVec 4) (s : State) : IsRun (.gjoin g) s 0x00 := ⟨_, _, exec_gjoin .., .inl rfl, within_nil _⟩
theorem run_gleave (g : BitVec 4) (s : State) : IsRun (.gleave g) s 0x00 := ⟨_, _, exec_gleave .., .inl rfl, within_nil _⟩
theorem run_garrive (g : BitVec 1) (v : BitVec 1) (b : BitVec 6) (n : BitVec 4) (st : BitVec 4) (d : BitVec 6) (s : State) : IsRun (.garrive g v b n st d) s 0x00 := ⟨_, _, exec_garrive .., .inl rfl, within_nil _⟩
theorem run_gridarr (n : BitVec 5) (e : BitVec 6) (d : BitVec 6) (s : State) : IsRun (.gridarr n e d) s 0x00 := ⟨_, _, exec_gridarr .., .inl rfl, within_nil _⟩
theorem run_racq (d : BitVec 3) (s : State) : IsRun (.racq d) s 0x00 := ⟨_, _, exec_racq .., .inl rfl, within_nil _⟩
theorem run_rrel (s : State) : IsRun .rrel s 0x00 := ⟨_, _, exec_rrel .., .inl rfl, within_nil _⟩
theorem run_qpush (d : BitVec 3) (q : BitVec 6) (v : BitVec 6) (s : State) : IsRun (.qpush d q v) s 0x00 := ⟨_, _, exec_qpush .., .inl rfl, within_nil _⟩
theorem run_qpop (d : BitVec 3) (q : BitVec 6) (v : BitVec 6) (s : State) : IsRun (.qpop d q v) s 0x00 := ⟨_, _, exec_qpop .., .inl rfl, within_nil _⟩
theorem run_tbegin (o : BitVec 16) (s : State) : IsRun (.tbegin o) s 0x00 := ⟨_, _, exec_tbegin .., .inl rfl, within_nil _⟩
theorem run_tcommit (s : State) : IsRun .tcommit s 0x00 := ⟨_, _, exec_tcommit .., .inl rfl, within_nil _⟩
theorem run_tabort (c : BitVec 8) (s : State) : IsRun (.tabort c) s 0x00 := ⟨_, _, exec_tabort .., .inl rfl, within_nil _⟩
theorem run_tretry (s : State) : IsRun .tretry s 0x00 := ⟨_, _, exec_tretry .., .inl rfl, within_nil _⟩
theorem run_telse (o : BitVec 16) (s : State) : IsRun (.telse o) s 0x00 := ⟨_, _, exec_telse .., .inl rfl, within_nil _⟩
theorem run_tstat (d : BitVec 6) (s : State) : IsRun (.tstat d) s 0x00 := ⟨_, _, exec_tstat .., .inl rfl, within_nil _⟩
theorem run_sread (r : BitVec 8) (d : BitVec 6) (s : State) : IsRun (.sread r d) s 0x00 := ⟨_, _, exec_sread .., .inl rfl, within_nil _⟩
theorem run_swrite (r : BitVec 8) (a : BitVec 6) (s : State) : IsRun (.swrite r a) s 0x00 := ⟨_, _, exec_swrite .., .inl rfl, within_nil _⟩
theorem run_cflush (a : BitVec 7) (m : BitVec 1) (st : BitVec 4) (c : BitVec 3) (s : State) : IsRun (.cflush a m st c) s 0x1C := ⟨_, _, exec_cflush .., .inl rfl, within_adr _ _ _ _ (within_nil _)⟩
theorem run_pathrd (st : BitVec 8) (im : BitVec 8) (d : BitVec 6) (s : State) : IsRun (.pathrd st im d) s 0x00 := ⟨_, _, exec_pathrd .., .inl rfl, within_nil _⟩
theorem run_pathwr (st : BitVec 8) (im : BitVec 8) (a : BitVec 6) (s : State) : IsRun (.pathwr st im a) s 0x00 := ⟨_, _, exec_pathwr .., .inl rfl, within_nil _⟩
theorem run_eret (s : State) : IsRun .eret s 0x00 := ⟨_, _, exec_eret .., .inl rfl, within_nil _⟩

end Sys2Proof.Machine
end

