-- ==== Sys2Proof/Machine/HostRead.lean ====
section
/-! DEFINITION. Configuration space as a host reads it (R371 to R379, R384): what a read of 4 or 8 aligned bytes returns. A read changes nothing. -/

namespace Sys2Proof.Machine

/-- Boot status (R384): STATE, and the failing stage. -/
def bootStatus (s : State) : Nat := pack [(0, s.bootState), (4, s.failStage)]

/-- The 64 bits at byte `8 * k` of a block that stands as one number. -/
def quadOf (n k : Nat) : Nat := bits n (64 * k) 64

/-- The queue registers (R379); those that are written only read zero. -/
def queueReg (s : State) (k : Nat) : Nat :=
  let q := s.hostq
  match k with
  | 0 => q.cqBase.toNat
  | 1 => q.cqLog
  | 3 => q.lastAcc.toNat
  | 4 => (lastCmp s).toNat
  | 5 => pack [(0, q.gap.toNat), (1, q.cplFull.toNat)]
  | 6 => (q.lastAcc + 1).toNat
  | 8 => q.dqBase.toNat
  | 9 => q.dqLog
  | 11 => q.lastCseq.toNat
  | _ => 0

/-- The ring block of a context (R373); the counts of consumed records are written only. -/
def ringReg (s : State) (context k : Nat) : Nat :=
  let x := s.context context
  match k with
  | 0 => x.sampBase.toNat
  | 1 => x.sampWr.toNat
  | 3 => pack [(0, x.sampLog), (32, x.sampDrop.toNat)]
  | 4 => x.evBase.toNat
  | 5 => x.evWr.toNat
  | 7 => pack [(0, x.evLog), (32, x.evDrop.toNat)]
  | 8 => x.fqWr.toNat
  | 10 => fqHeld s context
  | _ => 0

/-- A route-table entry (R372): ENABLE, and the package that the port is cabled to or set to. -/
def routeReg (s : State) (p : Nat) : Nat :=
  if p < 22 then (match portReaches s p with | some q => pack [(0, 1), (1, q)] | none => 0)
  else pack [(0, (s.port p).enabled.toNat), (1, (s.port p).peer)]

/-- A record of the fault log stands at 64 times its SEQ (R334; DESIGN CHOICE, log 49). -/
def faultLogReg (s : State) (k : Nat) : Nat :=
  match s.logs.faults[k / 8]? with
  | some r => quadOf r.bits.toNat (k % 8)
  | none => 0

/-- A record of the error log stands at 32 times its SEQ in the ring (R342; DESIGN CHOICE, log 49). -/
def errorLogReg (s : State) (k : Nat) : Nat :=
  match s.logs.errors.find? fun r => bits r.bits.toNat 192 64 % Config.errorLogEntries == k / 4 with
  | some r => quadOf r.bits.toNat (k % 4)
  | none => 0

/-- A breakpoint register (R351, R374). -/
def breakpointReg (s : State) (k : Nat) : Nat :=
  let x := tgetD (s.core (k / 16)).breakpoints (k % 16 / 2) { addr := 0, cond := 0 }
  if k % 2 == 0 then x.addr.toNat else x.cond.toNat

/-- Two status words of regions (R156), from the live table or from the copies. -/
def regionPair (t : Table Word) (k : Nat) : Nat := pack [(0, (tgetD t (2 * k) 0).toNat), (32, (tgetD t (2 * k + 1) 0).toNat)]

/-- A live counter (R376): the REGGATE of a core as it stands now (R34), or one of the package. -/
def counterReg (s : State) (off : Nat) : Nat :=
  if off < 0x1000 then ((countGatesOf s [off / 8]).core (off / 8)).reggate.toNat
  else (((liveCounters s).find? fun e => e.1 == off).map (·.2)).getD 0 % 2 ^ 64

/-- The snapshot header (R374). -/
def snapshotReg (s : State) (k : Nat) : Nat :=
  match k with
  | 0 => s.snapshot.clock.toNat
  | 1 => s.snapshot.milestone.toNat
  | 2 => s.snapshot.tag.toNat
  | 3 => s.snapshot.count.toNat
  | _ => 0

/-- A register of the package-settings page (R377, R367). -/
def settingReg (s : State) (off : Nat) : Nat :=
  let t := s.settings
  let k := s.ckpt
  match off / 8 with
  | 0 => t.leaseterm
  | 1 => t.selftest
  | 2 => t.hanglimit
  | 3 => t.preemptwait
  | 4 => t.tokenwait
  | 5 => t.lostlimit
  | 6 => pack [(0, t.tapEn.toNat), (1, t.master.toNat)]
  | 8 => t.ckptBase.toNat
  | 9 => t.buddyBase.toNat
  | 10 => pack [(0, k.granules.length), (32, k.busy.toNat), (33, k.done.toNat)]
  | 11 => k.step.toNat
  | _ => if between 0x100 0x17F off then leNat ((t.ringOrder.toList.drop (off - 0x100)).take 8) else 0

/-- The first page (R372, R384, R387, R388): boot status, PCAP and the operating point. The identity and the certificate hold what the spec does not
say: a free value for each register (DESIGN CHOICE, log 49). -/
def identityReg (s : State) (off : Nat) : Nat :=
  if off == 0x100 then bootStatus s
  else if off == 0x200 then (if s.bootState == 2 then 0 else s.power.pcap)
  else if off == 0x208 then (if s.bootState == 2 then 0 else s.power.point)
  else (Config.freeDword 0 (0x10000 + off)).toNat

/-- The 64 bits at a multiple of eight of configuration space (R372). -/
def configReg (s : State) (off : Nat) : Nat :=
  let inside (base n : Nat) : Bool := decide (base ≤ off) && decide (off < base + n)
  let at8 (base : Nat) : Nat := (off - base) / 8
  if inside 0 4096 then identityReg s off
  else if s.bootState == 2 then 0
  else if inside 0x10000 2048 then
    pack [(0, (tgetD s.binding (2 * at8 0x10000) 0).toNat), (32, (tgetD s.binding (2 * at8 0x10000 + 1) 0).toNat)]
  else if inside 0x20000 1024 then quadOf (tgetD s.bound (at8 0x20000 / 2) 0).toNat (at8 0x20000 % 2)
  else if inside 0x30000 192 then routeReg s (at8 0x30000)
  else if inside 0x40000 4096 then queueReg s (at8 0x40000)
  else if inside 0x100000 0x80000 then
    let c := at8 0x100000 / 16
    quadOf (descBits c (s.context c).desc) (at8 0x100000 % 16)
  else if inside 0x180000 0x80000 then ringReg s (at8 0x180000 / 16) (at8 0x180000 % 16)
  else if inside 0x200000 0x80000 then faultLogReg s (at8 0x200000)
  else if inside 0x280000 0x20000 then errorLogReg s (at8 0x280000)
  else if inside 0x300000 0x10000 then breakpointReg s (at8 0x300000)
  else if inside 0x340000 0x20000 then regionPair s.regions (at8 0x340000)
  else if inside 0x360000 0x10000 then counterReg s (off - 0x360000)
  else if inside 0x370000 0x10000 then (tgetD s.snapshot.counters (off - 0x370000) 0).toNat
  else if inside 0x380000 4096 then snapshotReg s (at8 0x380000)
  else if inside 0x3A0000 0x20000 then regionPair s.snapshot.regions (at8 0x3A0000)
  else if inside 0x3C0000 4096 then settingReg s (off - 0x3C0000)
  else if inside 0x3D0000 0x10000 then
    let x := s.context (at8 0x3D0000 / 2)
    if off % 16 == 0 then pack [(0, x.rights.toNat), (1, x.modified.toNat)] else x.log2n
  else 0

/-- What a host read of configuration space returns (R372): none where the adapter completes it as an unsupported request. -/
def readConfig (s : State) (off size : Nat) : Option Nat :=
  if (size == 4 || size == 8) && off % size == 0 && decide (off < 2 ^ 24) then
    let v := configReg s (off / 8 * 8)
    some (if size == 8 then v else bits v (8 * (off % 8)) 32)
  else none

end Sys2Proof.Machine
end

