-- ==== Sys2Proof/Tests/Slice0.lean ====
section
/-! SUPPORT. Tests of the model: words written out from the encoding tables, one step on small states with results worked out from the rules, and a state that meets
the premises of each statement. A test `witness_…` shows such states; a test `test_…` shows what a step leaves. -/

set_option Elab.async false

open Sys2Proof Sys2Proof.Machine Sys2Proof.Claims

namespace Sys2Proof.Tests

/-! ### Small states -/

/-- A wave stands at its first instruction and issues; its page table maps the lowest gibibyte to itself. -/
def base : State := { placeWord State.reset 0 with cur := { wave := 0, path := 0 } }

/-- A register with one value in every lane. -/
def all (tag : BitVec 4) (x : Word) : VReg := { tag := tag, lanes := lanesOf fun _ => x }

/-- A register whose lanes are numbered. -/
def ramp (tag : BitVec 4) : VReg := { tag := tag, lanes := lanesOf fun L => BitVec.ofNat 32 L }

/-- The wave with some vector registers, scalar registers and predicates set. -/
def withRegs (s : State) (vs : List (Nat × VReg)) (ss : List (Nat × Dword)) (ps : List (Nat × Word)) : State :=
  s.modWave 0 fun w =>
    let w := vs.foldl (fun (w : Wave) e => w.setVreg e.1 e.2) w
    let w := ss.foldl (fun (w : Wave) e => w.setSreg e.1 e.2) w
    ps.foldl (fun (w : Wave) e => w.setPreg e.1 e.2) w

/-- The first wave alone, with some registers. -/
def regs (vs : List (Nat × VReg)) (ss : List (Nat × Dword)) (ps : List (Nat × Word)) : State := withRegs base vs ss ps

/-- A pending EXT in every strand of the path. -/
def withExt (s : State) (kind : Nat) (payload : BitVec 20) : State :=
  s.modWave 0 fun w => { w with div := { w.div with strands := w.div.strands.map fun x => { x with ext := x.ext.add kind payload } } }

/-- Bytes in far memory, which has the same virtual address. -/
def withBytes (s : State) (a n v : Nat) : State := pokeBytes s a (bytesOf n v)

/-! ### What a test asks -/

/-- The state that an instruction or event leaves has a property. -/
def leaves (i : Instr) (s : State) (q : State → Bool) : Bool := match exec i s with | .next t => q t | _ => false

/-- The wave that an instruction leaves has a property. -/
def leavesWave (i : Instr) (s : State) (q : Wave → Bool) : Bool := leaves i s fun t => (tget t.waves 0).any q

/-- A vector register's tag and lane. -/
def vecIs (w : Wave) (n L : Nat) (tag : BitVec 4) (x : Word) : Bool := (w.vreg n).tag == tag && lane (w.vreg n).lanes L == x

/-- The wave has entered its handler with a cause. -/
def trapped (w : Wave) (cause : Nat) : Bool := w.inHandler && w.trap.cause.toNat % 256 == cause

/-- The instruction is issued with its operands there, no check stops it, and the context meets a condition. -/
def passesWith (s : State) (i : Instr) (sp : IssueSpec) (q : Ctx → Bool) : Bool :=
  match issueCtx s with
  | some c => !awaitsLoad s i sp c && (precheck s i sp c).isNone && q c
  | none => false

/-- Such a state meets the premises of a statement. -/
theorem passes_of {s : State} {i : Instr} {sp : IssueSpec} {q : Ctx → Bool} (h : passesWith s i sp q = true) :
    ∃ c, Passes s i sp c ∧ q c = true := by
  unfold passesWith at h
  split at h
  · rename_i c hc
    simp only [Bool.and_eq_true, Bool.not_eq_true', Option.isNone_iff_eq_none] at h
    exact ⟨c, ⟨hc, h.1.1, h.1.2⟩, h.2⟩
  · cases h

/-- The issuing path's context meets a condition, and no load of its wave is outstanding. -/
def issuesWith (s : State) (q : Ctx → Bool) : Bool :=
  match issueCtx s with
  | some c => (s.loads.all fun e => e.2.wave != c.key) && q c
  | none => false

theorem issues_of {s : State} {q : Ctx → Bool} (h : issuesWith s q = true) : ∃ c, Issues s c ∧ q c = true := by
  unfold issuesWith at h
  split at h
  · rename_i c hc
    simp only [Bool.and_eq_true, List.all_eq_true, bne_iff_ne, ne_eq] at h
    exact ⟨c, ⟨hc, h.1⟩, h.2⟩
  · cases h

/-- No bound check applies. -/
def unbounded (s : State) (c : Ctx) : Bool := !(c.ext.has 5 && boundEnabled (boundEntry s c))

/-- The tables of a state are in order. -/
def tablesB (s : State) : Bool :=
  keysFrom 0 s.convoys && keysFrom 0 s.crews && keysFrom 0 s.waves && keysFrom 0 s.cores && keysFrom 0 s.quads &&
  keysFrom 0 s.contexts && keysFrom 0 s.disp.parts && keysFrom 0 s.disp.cards && keysFrom 0 s.loads &&
  keysFrom 0 s.scratchOps && keysFrom 0 s.copies && keysFrom 0 s.home && keysFrom 0 s.filters &&
  keysFrom 0 s.leases && keysFrom 0 s.regions && keysFrom 0 s.switches && keysFrom 0 s.bound &&
  keysFrom 0 s.inject && keysFrom 0 s.collectives && keysFrom 0 s.sessions && keysFrom 0 s.vat.slots &&
  keysFrom 0 s.vat.queueNext && keysFrom 0 s.ring.held && keysFrom 0 s.fabric.ports

theorem tablesInv_of {s : State} (h : tablesB s = true) : TablesInv s := by
  unfold tablesB at h
  simp only [Bool.and_eq_true, and_assoc] at h
  exact h

/-- The byte tables of a state are in order. -/
def bytesB (s : State) : Bool :=
  keysFrom 0 s.mem && keysFrom 0 s.l1 && (s.l1.all fun e => keysFrom 0 e.2) && (s.copies.all fun e => keysFrom 0 e.2.bytes) &&
  (s.crews.all fun e => keysFrom 0 e.2.scratch && keysFrom 0 e.2.windows && keysFrom 0 e.2.tiles && e.2.tiles.all fun x => keysFrom 0 x.2.elems) &&
  s.home.all fun e => (e.2.writeback.all fun x => keysFrom 0 x.2.1) &&
    (match e.2.openReq with | some r => (match r.data with | some b => keysFrom 0 b | none => true) | none => true)

theorem bytesInv_of {s : State} (h : bytesB s = true) : BytesInv s := by
  unfold bytesB at h
  simp only [Bool.and_eq_true, List.all_eq_true, and_assoc] at h
  refine ⟨h.1, h.2.1, h.2.2.1, h.2.2.2.1, fun e he => ?_, fun e he => ?_⟩
  · exact h.2.2.2.2.1 e he
  · have := h.2.2.2.2.2 e he
    refine ⟨this.1, fun r hr b hb => ?_⟩
    have h2 := this.2
    rw [hr] at h2
    simp only [hb] at h2
    exact h2

/-! ### Decoding: the words that the spec's entries write out -/

theorem test_decode_control : decode 0x00000000 = .nop ∧ decode 0x026BFFFE = .brc 3 2 0x3FFFE ∧ decode 0x04090000 = .brx 9 ∧ decode 0x07000000 = .regang ∧
    decode 0x06000000 = .rejoin 0 ∧ decode 0x09000000 = .ret ∧ decode 0x0D000000 = .yield ∧ decode 0x1C000005 = .tramp 5 ∧
    decode 0x080C0000 = .callIndirect 12 ∧ decode 0x0B001234 = .trap 0x1234 ∧ decode 0x1D000042 = .tool0 0x42 ∧ decode 0x1E000042 = .tool1 0x42 ∧
    decode 0xFE3FFFC0 = .ext 3 0xFFFC0 := by decide +kernel
theorem test_decode_scalar : decode 0x2A3E00F1 = .smovi 62 0xF1 ∧ decode 0x263EBEFF = .sshl 62 0xBE 0xFF ∧ decode 0x2907E5C0 = .smov 7 0xE5 ∧
    decode 0x22078783 = .smul 7 0x87 0x83 ∧ decode 0x2B628586 = .scmp 6 1 0 0x85 0x86 ∧ decode 0x2B228586 = .scmp 2 1 0 0x85 0x86 ∧
    decode 0x64050200 = .vote 5 2 0 ∧ decode 0x64060003 = .vote 6 0 3 ∧ decode 0x65050700 = .redl 0 5 7 0 ∧ decode 0x65850700 = .redl 1 5 7 0 ∧
    decode 0x65090C04 = .redl 0 9 12 4 ∧ decode 0x660507FF = .srdl 5 7 0xFF := by decide +kernel
theorem test_decode_integer : decode 0x4C0404C1 = .iadd 0 4 4 0xC1 ∧ decode 0x428001FC = .xor 1 0 1 0xFC ∧ decode 0x480203FF = .bfeI32 0 2 3 0xFF ∧
    decode 0x55090285 = .imad 0 9 2 0x85 ∧ decode 0x53060708 = .imulhI32 0 6 7 8 ∧ decode 0x4A0101C0 = .clz 0 1 1 ∧
    decode 0x5C520486 = .icmpN32 5 1 0 4 0x86 ∧ decode 0x630404FC = .shfl 0 4 4 0xFC ∧ decode 0x4E020203 = .iaddsI32 0 2 2 3 ∧
    decode 0x5807_07C0 = .imaxI32 0 7 7 0xC0 ∧ decode 0x440303C4 = .shl 0 3 3 0xC4 ∧ decode 0x5D141406 = .lea 0 20 20 6 := by decide +kernel
theorem test_decode_float : decode 0x7D0A0B0C = .hfma2Bf16 0 10 11 12 ∧ decode 0x6B080203 = .ffma 0 8 2 3 ∧ decode 0x68030102 = .fadd 0 3 1 2 ∧
    decode 0x760209C0 = .fsqrt 0 2 9 ∧ decode 0x720506C0 = .fexp2 0 5 6 ∧ decode 0x712405C0 = .fcmp 2 2 0 5 0xC0 ∧ decode 0x712505C0 = .fcmp 2 2 1 5 0xC0 ∧
    decode 0x6F0303C0 = .fneg 0 3 3 ∧ decode 0x7004C0D9 = .fclamp 0 4 0xC0 0xD9 ∧ decode 0x6A400001 = .fmul 0 64 0 1 ∧
    decode 0x90080231 = .cvt 0 8 2 3 1 ∧ decode 0x9010091A = .cvt 0 16 9 1 0xA ∧ decode 0x911408A1 = .qcvt 0 20 8 0xA 1 ∧
    decode 0x9208141A = .qunp 0 8 20 1 0xA := by decide +kernel
theorem test_decode_memory : decode 0xAE14500F = .atomAdd 10 20 0 0 3 3 ∧ decode 0xB8145012 = .redAdd 10 20 0 0 4 2 ∧ decode 0xA306500D = .ldN32 3 20 0 0 3 1 ∧
    decode 0x360A2A00 = .sldN64 5 10 0 0 0 ∧ decode 0x390E2A0E = .sstN32 7 10 0 3 2 ∧ decode 0xA880FA00 = .stB32 64 62 1 0 0 0 ∧
    decode 0xA8065052 = .stB32 3 20 0 2 4 2 ∧ decode 0xAB040011 = .wldN32 2 0 0 0 1 ∧ decode 0xAD005000 = .pref 20 0 0 0 ∧
    decode 0xF200500C = .cflush 20 0 0 3 := by decide +kernel
theorem test_decode_order : decode 0xAA010008 = .fence 0 1 8 ∧ decode 0xAA0C0006 = .fence 1 4 6 ∧ decode 0xD3000004 = .msfence 4 ∧ decode 0xD4070006 = .mswait 7 6 ∧
    decode 0xCD030000 = .mwait 3 ∧ decode 0xCC000000 = .opfence ∧ decode 0xE9000000 = .tcommit ∧ decode 0xEA070000 = .tabort 7 ∧
    decode 0xEB000000 = .tretry ∧ decode 0xED090000 = .tstat 9 := by decide +kernel
theorem test_decode_units : decode 0xD0094205 = .cpy 9 4 2 5 ∧ decode 0xD2081300 = .coll 8 1 3 ∧ decode 0xE2883214 = .garrive 1 0 8 3 2 20 ∧
    decode 0xE2480014 = .garrive 0 1 8 0 0 20 ∧ decode 0xE3030C0D = .gridarr 3 12 13 ∧ decode 0xD80A020B = .jpost 10 2 11 ∧
    decode 0xE7030A0C = .qpop 3 10 12 ∧ decode 0xD5080100 = .rway 8 0 1 ∧ decode 0xD5084000 = .rway 8 1 0 ∧ decode 0xD70A0B0C = .vsend 10 11 12 ∧
    decode 0xD6080009 = .vopen 8 9 ∧ decode 0xD9080009 = .vdrop 8 9 ∧ decode 0xE0020000 = .gjoin 2 ∧ decode 0xE4020000 = .racq 2 := by decide +kernel
theorem test_decode_system : decode 0xF4010038 = .pathrd 1 0 56 ∧ decode 0xF5030039 = .pathwr 3 0 57 ∧ decode 0xF6000000 = .eret ∧
    decode 0xF0110005 = .sread 0x11 5 ∧ decode 0xF1210006 = .swrite 0x21 6 := by decide +kernel
theorem test_decode_reserved : decode 0x3B000000 = .illegalOp 0x3B000000 ∧ decode 0xFFFFFFFF = .illegalOp 0xFFFFFFFF ∧
    decode 0x00000001 = .illegalField 0x00000001 := by decide +kernel


/-! ### Ill-formed instructions: one term for each check -/

/-- A term that each check of the field values refuses. -/
def illFormed : List Instr :=
  [.brc 0 0 1, .brc 0 5 1, .sadd 1 0x05 0x81, .sadd 1 0x81 0xE0, .smov 1 0xEC, .scmp 10 1 0 0x81 0x82, .sldN8 1 1 0 6 0, .sldN8 1 1 0 0 2,
   .sstN8 1 1 0 0 1, .and 0 1 0xEC 2, .and 0 1 2 0xFB, .not 0 1 0xF0, .icmpI32 6 1 0 1 2, .lea 1 4 4 1, .lea 0 127 4 1, .lea 0 4 127 1,
   .mov 0 1 2 0 3, .shfl 0 1 0x80 2, .vote 1 0 5, .redl 0 1 0x80 0, .redl 0 1 1 11, .srdl 1 1 0xFC, .srdl 1 0x80 0, .fcmp 6 1 0 1 2,
   .cvt 0 1 2 0 1, .cvt 1 1 2 1 0xA, .cvt 0 127 2 1 0xA, .cvt 0 1 2 0xF 2, .qcvt 1 1 2 0xA 1, .qcvt 0 127 2 0xA 1, .qcvt 0 1 0x80 0xA 1,
   .qunp 0 1 127 1 0xA, .ldB32 1 127 0 0 0 0, .ldB32 1 64 1 0 0 0, .ldB32 1 2 0 0 6 0, .ldB32 1 2 0 0 0 2, .ldI64 127 2 0 0 0 0,
   .stB32 1 2 0 0 0 1, .stI64 127 2 0 0 0 0, .fence 0 6 1, .fence 0 0 0, .wldN32 1 2 0 0 2, .wldN64 127 2 0 0 0, .pref 127 0 0 0, .atomAdd 1 2 0 0 7 0,
   .atomCas 127 2 0 0 0 0, .redAdd 1 2 0 0 0 3, .mma 0 0 1 1 2, .mmas 0 8 9 1 2, .mmas 0 8 8 63 2, .mmag 0 1 1 2, .mmag 0 9 1 63, .tld 0 7 0 1 2,
   .tzero 0 1, .cpy 1 7 0 2, .msfence 0, .mswait 1 0, .rway 1 3 0, .rway 1 0 5, .jpost 0 1 2, .jpost 1 0 2, .gjoin 0, .gleave 0, .garrive 0 0 1 1 0 2,
   .gridarr 31 1 2, .racq 0, .qpush 0 1 2, .qpop 1 2 0, .tstat 0, .sread 6 1, .swrite 0x30 1, .cflush 127 0 0 0, .pathrd 10 0 1, .pathrd 0 8 1,
   .ext 7 0, .illegalOp 0x3B000000, .illegalField 1]

theorem test_illFormed_is_refused : (illFormed.all fun i => !fieldsOk i) = true := by decide +kernel
theorem test_illFormed_traps : (illFormed.all fun i => (encode i).isNone || leavesWave i base fun w => trapped w 0x02 || trapped w 0x01) = true := by decide +kernel
theorem test_wellFormed_passes : ([Instr.brc 3 2 0x3FFFE, .cvt 0 8 2 3 1, .qcvt 0 20 8 0xA 1, .mmas 0 8 8 1 2, .mmag 0 9 1 2, .gridarr 30 12 13].all fieldsOk) = true := by
  decide +kernel

/-! ### Scalar instructions -/

theorem test_sadd_wraps : leavesWave (.sadd 5 0x81 0x82) (regs [] [(1, 0xFFFFFFFFFFFFFFFF), (2, 2)] []) (fun w => w.sreg 5 == 1) = true := by decide +kernel
theorem test_ssub_borrows : leavesWave (.ssub 5 0x81 0x82) (regs [] [(1, 1), (2, 2)] []) (fun w => w.sreg 5 == 0xFFFFFFFFFFFFFFFF) = true := by decide +kernel
theorem test_smul_low : leavesWave (.smul 5 0x81 0x81) (regs [] [(1, 0x100000001)] []) (fun w => w.sreg 5 == 0x200000001) = true := by decide +kernel
theorem test_sshl_full : leavesWave (.sshl 5 0x81 0x82) (regs [] [(1, 1), (2, 64)] []) (fun w => w.sreg 5 == 0) = true := by decide +kernel
theorem test_sshr_top : leavesWave (.sshr 5 0x81 0x82) (regs [] [(1, 0x8000000000000000), (2, 63)] []) (fun w => w.sreg 5 == 1) = true := by decide +kernel
theorem test_ssar_full : leavesWave (.ssar 5 0x81 0x82) (regs [] [(1, 0x8000000000000000), (2, 200)] []) (fun w => w.sreg 5 == 0xFFFFFFFFFFFFFFFF) = true := by
  decide +kernel
theorem test_sadd_discards_s0 : leavesWave (.sadd 0 0xC1 0xC1) base (fun w => w.sreg 0 == 0 && (w.div.path 0).pc == 0x10004) = true := by decide +kernel
theorem test_smovi_negative : leavesWave (.smovi 3 0x8000) base (fun w => w.sreg 3 == 0xFFFFFFFFFFFF8000) = true := by decide +kernel
theorem test_smov_latch_lost : leavesWave (.smov 3 0xFC) base (fun w => trapped w 0x04) = true := by decide +kernel
theorem test_scmp_unsigned : leavesWave (.scmp 6 1 0 0x81 0x82) (regs [] [(1, 1), (2, 0xFFFFFFFFFFFFFFFF)] []) (fun w => w.preg 1 == 0xFFFFFFFF) = true := by
  decide +kernel
theorem test_scmp_signed : leavesWave (.scmp 2 1 0 0x81 0x82) (regs [] [(1, 1), (2, 0xFFFFFFFFFFFFFFFF)] []) (fun w => w.preg 1 == 0) = true := by decide +kernel
theorem test_vote_first : leavesWave (.vote 5 2 4) (regs [] [] [(2, 0x00000A00)]) (fun w => w.sreg 5 == 9) = true := by decide +kernel
theorem test_vote_none : leavesWave (.vote 5 2 4) (regs [] [] [(2, 0)]) (fun w => w.sreg 5 == 32) = true := by decide +kernel
theorem test_redl_add_signed : leavesWave (.redl 0 5 7 3) (regs [(7, all 4 0xFFFFFFFF)] [] []) (fun w => w.sreg 5 == 0xFFFFFFFFFFFFFFE0) = true := by decide +kernel
theorem test_redl_smax : leavesWave (.redl 0 9 12 4) (regs [(12, ramp 4)] [] []) (fun w => w.sreg 9 == 31) = true := by decide +kernel
theorem test_srdl_signed : leavesWave (.srdl 5 7 0x86) (regs [(7, all 4 0x80000000)] [(6, 31)] []) (fun w => w.sreg 5 == 0xFFFFFFFF80000000) = true := by
  decide +kernel

/-! ### Vector integer instructions -/

theorem test_iadd_wraps : leavesWave (.iadd 0 4 4 0xC1) (regs [(4, all 4 0xFFFFFFFF)] [] []) (fun w => vecIs w 4 31 4 0) = true := by decide +kernel
theorem test_iadd_tags : leavesWave (.iadd 0 4 4 5) (regs [(4, all 4 1), (5, all 5 1)] [] []) (fun w => trapped w 0x03) = true := by decide +kernel
theorem test_imad : leavesWave (.imad 0 9 2 0x85) (regs [(9, all 4 7), (2, ramp 4)] [(5, 3)] []) (fun w => vecIs w 9 10 4 37) = true := by decide +kernel
theorem test_imulh_signed : leavesWave (.imulhI32 0 6 7 8) (regs [(7, all 4 0x80000000), (8, all 4 0x80000000)] [] []) (fun w => vecIs w 6 0 4 0x40000000) = true := by
  decide +kernel
theorem test_imulh_mixed : leavesWave (.imulhI32 0 6 7 8) (regs [(7, all 4 0xFFFFFFFF), (8, all 4 1)] [] []) (fun w => vecIs w 6 0 4 0xFFFFFFFF) = true := by
  decide +kernel
theorem test_isubs_clamps : leavesWave (.isubsN32 0 2 2 0xC5) (regs [(2, all 5 3)] [] []) (fun w => vecIs w 2 0 5 0) = true := by decide +kernel
theorem test_iadds_clamps : leavesWave (.iaddsI32 0 2 2 3) (regs [(2, all 4 0x7FFFFFFF), (3, all 4 1)] [] []) (fun w => vecIs w 2 0 4 0x7FFFFFFF) = true := by decide +kernel
theorem test_bfe_signed : leavesWave (.bfeI32 0 2 3 0xFF) (withExt (regs [(3, all 0 0x3A0)] [] []) 0 0x604) (fun w => vecIs w 2 0 4 0xFFFFFFFA) = true := by
  decide +kernel
theorem test_bfe_empty : leavesWave (.bfeN32 0 2 3 0xC4) (regs [(3, all 0 0x3A0)] [] []) (fun w => vecIs w 2 0 5 0) = true := by decide +kernel
theorem test_bfi : leavesWave (.bfi 0 2 3 0xFF) (withExt (regs [(2, all 5 0xFFFFFFFF), (3, all 4 0)] [] []) 0 0x804) (fun w => vecIs w 2 0 0 0xFFFFF00F) = true := by
  decide +kernel
theorem test_shl_full : leavesWave (.shl 0 3 3 0x81) (regs [(3, all 5 1)] [(1, 32)] []) (fun w => vecIs w 3 0 0 0) = true := by decide +kernel
theorem test_sar_full : leavesWave (.sar 0 3 3 0xFF) (withExt (regs [(3, all 4 0x80000000)] [] []) 0 0x1F) (fun w => vecIs w 3 0 0 0xFFFFFFFF) = true := by decide +kernel
theorem test_clz_zero : leavesWave (.clz 0 1 1) (regs [(1, all 4 0)] [] []) (fun w => vecIs w 1 0 5 32) = true := by decide +kernel
theorem test_iabs_wraps : leavesWave (.iabs 0 1 1) (regs [(1, all 4 0x80000000)] [] []) (fun w => vecIs w 1 0 4 0x80000000) = true := by decide +kernel
theorem test_iabs_sat : leavesWave (.iabs 0 1 1) (withExt (regs [(1, all 4 0x80000000)] [] []) 2 0x08000) (fun w => vecIs w 1 0 4 0x7FFFFFFF) = true := by decide +kernel
theorem test_xor_ws : leavesWave (.xor 1 0 1 2) (regs [(0, all 4 9), (1, all 4 6), (2, all 4 5)] [] [])
    (fun w => vecIs w 0 0 4 9 && lane (w.div.path 0).latches[0].lanes 0 == 3) = true := by decide +kernel
theorem test_icmp_ge : leavesWave (.icmpN32 5 1 0 4 0x86) (regs [(4, ramp 5)] [(6, 16)] []) (fun w => w.preg 1 == 0xFFFF0000) = true := by decide +kernel
theorem test_shfl_butterfly : leavesWave (.shfl 0 4 4 9) (regs [(4, ramp 4), (9, { tag := 0, lanes := lanesOf fun L => BitVec.ofNat 32 (L ^^^ 1) })] [] [])
    (fun w => vecIs w 4 0 4 1 && vecIs w 4 31 4 30) = true := by decide +kernel
theorem test_sel_inverted : leavesWave (.sel 0 5 6 7) (withExt (regs [(6, all 4 1), (7, all 4 2)] [] [(3, 1)]) 2 0x000E0)
    (fun w => vecIs w 5 0 4 2 && vecIs w 5 1 4 1) = true := by decide +kernel
theorem test_lea_pair : leavesWave (.lea 0 20 20 6) (regs [(20, all 0xF 0xFFFFFFFF), (21, all 0xF 0), (6, all 4 1)] [] [])
    (fun w => vecIs w 20 0 0xF 0 && vecIs w 21 0 0xF 1) = true := by decide +kernel
theorem test_mov_retags : leavesWave (.mov 0 1 2 1 5) (regs [(2, all 4 7)] [] []) (fun w => vecIs w 1 0 5 7) = true := by decide +kernel

/-! ### Float instructions -/

/-- The registers of the worked example of R482. -/
def fused : State := regs [(10, all 3 0x0000BF80), (11, all 3 0x3F833F83), (12, all 3 0x3F833F83), (13, all 3 0x3F863F86)] [] []

theorem test_hfma2_fused : leavesWave (.hfma2Bf16 0 10 11 12) fused (fun w => vecIs w 10 0 3 0x3F863D42) = true := by decide +kernel
theorem test_hfma2_up : leavesWave (.hfma2Bf16 0 10 11 12) (withExt fused 2 0x06000) (fun w => vecIs w 10 0 3 0x3F873D43) = true := by decide +kernel
theorem test_hmul2 : leavesWave (.hmul2Bf16 0 13 11 12) fused (fun w => vecIs w 13 0 3 0x3F863F86) = true := by decide +kernel
theorem test_hadd2 : leavesWave (.hadd2Bf16 0 14 13 10) fused (fun w => vecIs w 14 0 3 0x3F863D40) = true := by decide +kernel
theorem test_ffma_zero_times_infinity : leavesWave (.ffma 0 8 2 3) (regs [(8, all 1 0), (2, all 1 0), (3, all 1 0x7F800000)] [] [])
    (fun w => vecIs w 8 0 1 0x7FC00000) = true := by decide +kernel
theorem test_fadd_ties_to_even : leavesWave (.fadd 0 3 1 2) (regs [(1, all 1 0x3F800000), (2, all 1 0x33800000)] [] []) (fun w => vecIs w 3 0 1 0x3F800000) = true := by
  decide +kernel
theorem test_fneg_nan : leavesWave (.fneg 0 3 3) (regs [(3, all 1 0xFFC00001)] [] []) (fun w => vecIs w 3 0 1 0x7FC00000) = true := by decide +kernel
theorem test_fcmp_zeros : leavesWave (.fcmp 2 2 0 5 0xC0) (regs [(5, all 1 0x80000000)] [] []) (fun w => w.preg 2 == 0) = true := by decide +kernel
theorem test_frcp_zero : leavesWave (.frcp 0 2 9) (regs [(9, all 1 0x80000000)] [] []) (fun w => vecIs w 2 0 1 0xFF800000) = true := by decide +kernel
theorem test_fsqrt_negative : leavesWave (.fsqrt 0 2 9) (regs [(9, all 1 0xBF800000)] [] []) (fun w => vecIs w 2 0 1 0x7FC00000) = true := by decide +kernel
theorem test_fexp2_exact : leavesWave (.fexp2 0 5 6) (regs [(6, all 1 0xC0000000)] [] []) (fun w => vecIs w 5 0 1 0x3E800000) = true := by decide +kernel
theorem test_flog2_exact : leavesWave (.flog2 0 5 6) (regs [(6, all 1 0x41000000)] [] []) (fun w => vecIs w 5 0 1 0x40400000) = true := by decide +kernel
theorem test_cvt_rz : leavesWave (.cvt 0 8 2 3 1) (withExt (regs [(2, all 1 0x3F818000), (3, all 1 0xC0400000)] [] []) 2 0x02000)
    (fun w => vecIs w 8 0 3 0xC0403F81) = true := by decide +kernel
theorem test_cvt_rne : leavesWave (.cvt 0 8 2 3 1) (regs [(2, all 1 0x3F818000), (3, all 1 0xC0400000)] [] []) (fun w => vecIs w 8 0 3 0xC0403F82) = true := by
  decide +kernel

/-- The row of the worked example of R515. -/
def row515 : State :=
  regs [(8, { tag := 1, lanes := lanesOf fun L => [0x447A0000, 0x40400000, 0xBC23D70A].getD L 0 }),
        (9, { tag := 1, lanes := lanesOf fun L => if L = 5 then 0x7FC00000 else 0 }), (10, all 1 0), (11, all 1 0),
        (20, { tag := 0xA, lanes := lanesOf fun L => if L = 0 then 0x00813478 else 0 }),
        (21, { tag := 0, lanes := lanesOf fun L => [0x00FF0081, 0, 0, 0, 0x0000FFCC].getD L 0 })] [] []

theorem test_qcvt_row : leavesWave (.qcvt 0 20 8 0xA 1) row515
    (fun w => vecIs w 20 0 0xA 0x00813478 && vecIs w 20 1 0xA 0 && vecIs w 21 0 0 0x00FF0081 && vecIs w 21 4 0 0x0000FFCC) = true := by decide +kernel
theorem test_qunp_row : leavesWave (.qunp 0 8 20 1 0xA) row515
    (fun w => vecIs w 8 0 1 0x44800000 && vecIs w 8 1 1 0x40400000 && vecIs w 8 2 1 0xBC000000 && vecIs w 9 0 1 0x7FC00000) = true := by decide +kernel


/-! ### Witnesses: the premises of the statements are met (`passes_of`, `issues_of`) -/

/-- Registers of every tag that the instructions below require, by their number: v16 + t carries tag t, and so does v64 + 4 t with its group. -/
def tagged : State :=
  regs ((List.range 16).map (fun t => (16 + t, all (BitVec.ofNat 4 t) 0)) ++ (List.range 64).map fun j => (64 + j, all (BitVec.ofNat 4 (j / 4)) 0)) [(7, 0x40)] []

/-- A register with a tag. -/
def vt (tag : BitVec 4) : BitVec 8 := 16 + tag.setWidth 8

theorem witness_ScalarArithmetic : (scalarRows.all fun r =>
    passesWith base (r.1 5 0xC1 0xC2) { kinds := kindsS, opnds := [opS 1 0xC1, opS 2 0xC2] } fun _ => true) = true := by decide +kernel
theorem witness_ScalarMoves : passesWith base (.smov 5 0xC1) { kinds := kindsS, opnds := [opS 1 0xC1] } (fun _ => true) = true ∧
    passesWith base (.smovi 63 0x8000) { kinds := kindsS } (fun _ => true) = true ∧
    ([0, 1, 2, 3, 4].all fun b => passesWith base (.vote 5 7 b) { kinds := 0x10 } fun _ => true) = true ∧
    (([(0, 1), (1, 1), (2, 1), (3, 4), (4, 4), (5, 0), (6, 5), (7, 5), (8, 2), (9, 3), (10, 15)] : List (BitVec 8 × BitVec 4)).all fun e =>
      passesWith tagged (.redl 0 5 (vt e.2) e.1) { kinds := 0x10, opnds := [opS 1 (vt e.2)], tags := fun c => need c (opS 1 (vt e.2)) (redlTags e.1.toNat) }
        fun _ => true) = true ∧
    (([4, 15, 0] : List (BitVec 4)).all fun t => passesWith tagged (.srdl 5 (vt t) 0xC0)
      { kinds := kindsS, opnds := [srdlA (vt t) tagged, opS 2 0xC0], fields := fun _ => !((srdlA (vt t) tagged).regs == 2 && vt t == 127) } fun c =>
        match source tagged c (opS 1 (vt t)) with | .tagged t' _ => t' == t | _ => false) = true ∧
    passesWith base (.scmp 9 7 1 0x81 0x82) { kinds := kindsP, modMask := 0x001E0, opnds := [opS 1 0x81, opS 2 0x82] } (fun _ => true) = true := by
  decide +kernel
theorem witness_VectorBits : (bitRows.all fun r =>
    let a := vt (r.okA.headD 0)
    let b := vt (r.okB.headD 0)
    passesWith tagged (r.instr 0 5 a b) (specA [opD 5, opA a, opB b] 0 (fun c => need c (opA a) r.okA ++ need c (opB b) r.okB) fun _ => r.tag)
      (unbounded tagged)) = true := by decide +kernel
theorem witness_TypedIntegers : (typedRows.all fun r =>
    passesWith tagged (r.1 0 21 21 0xC1) (specA [opD 21, opA 21, opB 0xC1] 0
      (fun c => (if r.2.1 then need c (opD 21) [intType c 21 0xC1] else []) ++ need c (opA 21) [intType c 21 0xC1] ++ need c (opB 0xC1) [intType c 21 0xC1])
      fun c => intType c 21 0xC1) fun c => unbounded tagged c && intType c 21 0xC1 == 5) = true := by decide +kernel
theorem witness_OneSourceIntegers : (bitRows1.all fun r =>
    let a := vt (r.2.2.1.headD 0)
    passesWith tagged (r.1 0 5 a) (specA [opD 5, opA a] r.2.1 (fun c => need c (opA a) r.2.2.1) fun _ => r.2.2.2.1) (unbounded tagged)) = true ∧
    passesWith tagged (.bfi 0 21 20 0xC1) (specA [opD 21, opA 20, opB 0xC1] 0
      (fun c => need c (opD 21) anyTag ++ need c (opA 20) anyTag ++ need c (opB 0xC1) [4, 5, 0]) fun _ => 0) (unbounded tagged) = true := by decide +kernel
theorem witness_Compares : passesWith tagged (.icmpI32 5 7 1 20 0xC1)
      { kinds := kindsP, modMask := modPlain, opnds := [opA 20, opB 0xC1], tags := fun c => need c (opA 20) [4] ++ need c (opB 0xC1) [4] } (fun _ => true) = true ∧
    passesWith tagged (.icmpN32 0 1 0 21 21)
      { kinds := kindsP, modMask := modPlain, opnds := [opA 21, opB 21], tags := fun c => need c (opA 21) [5] ++ need c (opB 21) [5] } (fun _ => true) = true ∧
    passesWith tagged (.fcmp 11 1 0 17 0xD9)
      { kinds := kindsP, modMask := modPlain ||| modNegAB ||| modFtz, opnds := [opA 17, opB 0xD9],
        tags := fun c => need c (opA 17) [1] ++ need c (opB 0xD9) [1] } (fun _ => true) = true := by decide +kernel
theorem witness_Moves : passesWith tagged (.mov 0 1 20 0 0) (specA [opD 1, opA 20] 0 (fun _ => []) fun c => (tagOf c (opA 20)).getD 0) (unbounded tagged) = true ∧
    passesWith tagged (.mov 1 1 20 1 15) (specA [opD 1, opA 20] 0 (fun _ => []) fun _ => 15) (unbounded tagged) = true ∧
    passesWith base (.movi 0 127 0x8000) (specA [opD 127] 0 (fun _ => []) fun _ => 4) (unbounded base) = true ∧
    passesWith tagged (.sel 0 1 20 0xC1) (specA [opD 1, opA 20, opB 0xC1] 0 (fun _ => []) fun c => selTag c 20 0xC1) (unbounded tagged) = true ∧
    passesWith tagged (.shfl 0 1 17 20) (specA [opD 1, opA 17, opB 20] 0 (fun c => need c (opB 20) [4, 5, 0]) fun c => (tagOf c (opA 17)).getD 0)
      (unbounded tagged) = true ∧
    passesWith tagged (.lea 0 126 124 20)
      { kinds := kindsA, modMask := modPlain, opnds := [(opD 126).group 2, (opA 124).group 2, opB 20], resultTag := fun _ => 0xF,
        tags := fun c => needGroup c ((opA 124).group 2) [0xF, 0] ++ need c (opB 20) [4, 5, 0, 0xF] } (fun _ => true) = true ∧
    passesWith tagged (.lea 0 126 0x87 20)
      { kinds := kindsA, modMask := modPlain, opnds := [(opD 126).group 2, opA 0x87, opB 20], resultTag := fun _ => 0xF,
        tags := fun c => needGroup c (opA 0x87) [0xF, 0] ++ need c (opB 20) [4, 5, 0, 0xF] } (fun _ => true) = true := by decide +kernel
theorem witness_Floats : (floatRows2.all fun r => passesWith tagged (r.1 0 5 17 0xD9)
      (specA [opD 5, opA 17, opB 0xD9] r.2.1 (fun c => need c (opA 17) [1] ++ need c (opB 0xD9) [1]) fun _ => 1) (unbounded tagged)) = true ∧
    (floatRows3.all fun r => passesWith tagged (r.1 0 17 17 0xD9)
      (specA [opD 17, opA 17, opB 0xD9] r.2.1 (fun c => need c (opD 17) [1] ++ need c (opA 17) [1] ++ need c (opB 0xD9) [1]) fun _ => 1) (unbounded tagged)) = true ∧
    (floatRows1.all fun r => passesWith tagged (r.1 0 5 17) (specA [opD 5, opA 17] r.2.1 (fun c => need c (opA 17) [1]) fun _ => 1) (unbounded tagged)) = true ∧
    (transRows.all fun r => passesWith tagged (r.1 0 5 17) (specA [opD 5, opA 17] 0xC9000 (fun c => need c (opA 17) [1]) fun _ => 1) (unbounded tagged)) = true := by
  decide +kernel
theorem witness_TranscendentalValues : ((FVal.fin true 3 (-1)).lt (.fin false 128 0) && !(FVal.fin true 3 (-1)).lt (.fin true 256 0) && (3 : Nat) != 2 ^ Nat.log2 3 &&
    (FVal.fin false 3 1).lt (.fin false 9 0) && (ofInt (-149)).eq (f32Val 0xC3150000) && (ofInt 127).eq (f32Val 0x42FE0000) &&
    !(FVal.fin false 9 0).lt (.fin false 9 0)) = true := by decide +kernel
theorem witness_Packed : (packedRows.all fun r =>
    let t := BitVec.ofNat 4 r.2.1
    let a := vt t
    passesWith tagged (r.1 0 (a.setWidth 7) a a) (specA [opD (a.setWidth 7), opA a, opB a] 0xFF000
      (fun c => (if r.2.2.1 then need c (opD (a.setWidth 7)) [t] ++ need c (opA a) [t] else need c (opA a) [t]) ++ need c (opB a) [t]) fun _ => t)
      (unbounded tagged)) = true := by decide +kernel
theorem witness_Conversions :
    (([(3, 1), (1, 3), (10, 1), (1, 10), (15, 4), (4, 15)] : List (BitVec 4 × BitVec 4)).all fun e =>
      let a : BitVec 8 := 64 + 4 * e.2.setWidth 8
      let oa := (opA a).group (if selIsVec a then cvtSrcRegs e.1.toNat e.2.toNat else 1)
      let od := (opD 0).group (cvtDstRegs e.1.toNat e.2.toNat)
      passesWith tagged (.cvt 0 0 a e.1 e.2)
        { kinds := kindsA, modMask := modPlain ||| 0x0F000, opnds := [od, oa], resultTag := fun _ => e.1, tags := fun c => needGroup c oa [e.2] } (unbounded tagged)) = true ∧
    passesWith tagged (.qcvt 0 126 68 0xA 1)
      { kinds := kindsA, modMask := 0x0FE00, opnds := [(opD 126).group 2, (opA 68).group 4], fullMask := true, resultTag := fun _ => 0xA,
        tags := fun c => needGroup c ((opA 68).group 4) [1] } (unbounded tagged) = true ∧
    passesWith tagged (.qunp 0 124 104 1 0xA)
      { kinds := kindsA, modMask := 0x0FE00, opnds := [(opD 124).group 4, (opA 104).group 2], fullMask := true, resultTag := fun _ => 1,
        tags := fun c => need c (opA 104) [0xA] } (unbounded tagged) = true := by decide +kernel
theorem witness_Quantisation : compactCode 0xE = true ∧ (List.replicate 16 (FVal.fin true 0 0)).all FVal.isZero = true ∧
    (FVal.nan :: List.replicate 15 (FVal.fin false 0 0)).any FVal.notFinite = true ∧
    (FVal.fin false 1 9 :: List.replicate 15 (FVal.fin false 0 0)).all FVal.isZero = false := by decide +kernel

theorem witness_Rounding : Machine.decodeF .bf16 0x3F80 = .fin false 128 (-7) ∧ Machine.decodeF .bf16 0x3F81 = .fin false 129 (-7) ∧
    encodeF .bf16 0 false (.fin false 257 (-8)) = 0x3F80 ∧ (0x3F81 : Nat) < 2 ^ FFmt.bf16.width := by decide +kernel
theorem witness_Decoding : encode (.sadd 3 0x81 0x82) = some 0x20038182 ∧ encode (.brc 3 2 0x3FFFE) = some 0x026BFFFE ∧
    (∀ v, Instr.nop ≠ .illegalOp v) := ⟨by decide +kernel, by decide +kernel, fun _ h => by cases h⟩

/-- The state in which the agenda's turn issues the word 0, NOP. -/
def ready : State := placeWord State.reset 0

/-- The same for a FENCE that sends a stack's dirty bytes home and waits for their commit. -/
def awaitingBacks : State :=
  { placeWord State.reset 0xAA030001 with copies := [(copyKey (mkPa 1 0 0x40000 / 128) 0, { state := 0, bytes := [(3, 7)], dirty := 8, lease := some (0, 50) })] }

/-- What the statement on a step asks of a state whose agenda names scheduler 0 of core 0, with whether the path turns out to wait. -/
def steps (s : State) (word : Word) (waits : Bool) : Bool :=
  let n := noteWaits { s with agenda := s.agenda.tail } 0 0
  let sc : Sched := { vget (n.core 0).scheds 0 Sched.initial with chain := 0 }
  let s1 := { n with cur := { wave := 0, path := 0 } }
  s.agenda.head? == some (.issue 0 0) && s.issues && (s.waves.all fun e => (asyncDue e.2).isNone) && (vget (n.core 0).scheds 0 Sched.initial).last.isNone &&
  longestReady (readyPaths n 0 0) == some (0, 0) &&
  match issueCtx s1 with
  | some c => (breakpointHit s1 c).isNone && (match fetch s1 c c.path.pc with
    | .word s' w =>
      let u := checkUnit s' 0 (coreStack 0) 0 0 c.conv.context
      w == word && !u.2 && (match exec (decode w) (selectPath u.1 sc 0 0) with
        | .next t => ((t.pathOf 0 0).waitsAt s1.epoch || (t.pathOf 0 0).waitsAt t.epoch) == waits
        | _ => false)
    | _ => false)
  | none => false

theorem witness_AStep : steps ready 0 false = true ∧ steps awaitingBacks 0xAA030001 true = true := by decide +kernel
/-- And the step goes on to the next instruction. -/
theorem test_step_runs : (match step ready with | .next t => (tget t.waves 0).any fun w => (w.div.path 0).pc == 0x10004 | _ => false) = true := by decide +kernel
theorem test_step_waits : (match step awaitingBacks with | .next t => (tget t.waves 0).any fun w => (w.div.path 0).pc == 0x10000 | _ => false) = true := by decide +kernel
theorem witness_Invariants : Memory.wf base.mem = true ∧ Memory.wf base.waymark = true ∧ (match step ready with | .next _ => true | _ => false) = true := by decide +kernel
theorem witness_TablesInv : keysFrom 0 ready.convoys = true ∧ keysFrom 0 ready.waves = true ∧ keysFrom 0 ready.contexts = true ∧ keysFrom 0 ready.mem = true := by
  decide +kernel

/-- Each check that comes before an instruction's effect: an EXT that does not apply, an illegal field, an open transaction. -/
theorem witness_IssueChecks :
    (ordinary .nop && issuesWith (withExt base 2 0) fun c => c.ext.kinds &&& ~~~((kindsFor (opcode .nop)).setWidth 16) != 0) = true ∧
    (ordinary (.brc 0 0 1) && issuesWith base (fun c => c.ext.kinds == 0) && !fieldsOk (.brc 0 0 1) && (encode (.brc 0 0 1)).isSome) = true ∧
    (ordinary (.brd 0 1) && (refusedInTransactions.any fun r => r.1 ≤ opcode (.brd 0 1) && opcode (.brd 0 1) ≤ r.2) &&
      issuesWith (base.modWave 0 fun w => { w with txn := { w.txn with depth := 1 } }) fun c => c.w.txn.depth != 0 && c.ext.kinds == 0 && groupMember (.brd 0 1) c) = true := by
  decide +kernel
theorem witness_OperandSelects : issuesWith (withExt (withExt base 0 0xFFFFF) 1 0xFFF) (fun c => c.ext.has 0 && c.ext.has 1 && c.ext.imm == 0xFFFFFFFF) = true ∧
    issuesWith (withExt base 1 0x800) (fun c => !c.ext.has 0 && c.ext.imm == 0x80000000) = true ∧
    issuesWith (withExt base 0 0x80000) (fun c => !c.ext.has 1 && c.ext.imm == 0xFFF80000) = true ∧
    issuesWith (regs [(9, all 4 1)] [] []) (fun c => !c.w.apertureDirty.getLsbD 9 && (c.w.vreg 9).undef == 0 && (vget c.path.latches 0 Latch.empty).undef == 0) = true := by
  decide +kernel

/-! ### Control flow and traps -/

/-- The first wave's paths and strands changed. -/
def withDiv (s : State) (f : Div → Div) : State := s.modWave 0 fun w => { w with div := f w.div }

theorem witness_UniformBranches : passesWith base (.br 0x20000) {} (fun _ => true) = true ∧
    passesWith (regs [] [] [(3, 1)]) (.brc 3 1 1) {} (fun c => (c.w.preg 3).getLsbD 0 && c.acting.getLsbD 0) = true ∧
    passesWith (regs [] [] [(3, 0)]) (.brc 3 1 1) {} (fun c => c.w.preg 3 == 0) = true ∧
    ([4, 5].all fun a => passesWith (regs [] [(9, a), (63, a)] []) (.brx 9) {} (fun c => c.w.sreg 9 == a) &&
      passesWith (regs [] [(9, a)] []) (.callIndirect 9) {} (fun c => c.w.sreg 9 == a) && passesWith (regs [] [(63, a)] []) .ret {} fun c => c.w.sreg 63 == a) = true ∧
    passesWith base (.call 1) {} (fun c => (target c 1).toNat % 4 == 0) = true ∧
    passesWith (withDiv base fun d => d.setPath 0 { d.path 0 with pc := 2 }) (.call 1) {} (fun c => (target c 1).toNat % 4 != 0) = true ∧
    passesWith base .nop {} (fun _ => true) = true ∧ passesWith base .yield {} (fun _ => true) = true := by decide +kernel

/-- A wave with a second path: strands 0 to 3 at the first instruction, 4 to 7 parked at a REGANG at a lower address. -/
def split : State :=
  withDiv base fun d => (d.setPath 0 { d.path 0 with mask := 0x0F }).setPath 1 { d.path 0 with mask := 0xF0, pc := 0x8000, hold := .regang }

/-- The same, the second path parked at the first instruction too; a debugger steps it or not. -/
def together (stepping : Bool) : State := withDiv split fun d => d.setPath 1 { d.path 1 with pc := 0x10000, stepping := stepping }

/-- A stack with one entry in strand 0. -/
def stacked : State :=
  withDiv base fun d => d.setStrand 0 { d.strand 0 with active := 0xC, depth := 1, stack := (d.strand 0).stack.setIfInBounds 0 { mask := 3, pc := 0x10008 } }

/-- Every strand keeps R45, and no strand stands in two paths. -/
def stacksKept (c : Ctx) : Bool :=
  ((List.range 8).all fun p => (List.range 8).all fun q => p == q || (c.w.div.path p).mask &&& (c.w.div.path q).mask == 0) &&
  (List.range 8).all fun k => decide ((c.w.div.strand k).depth.toNat ≤ 4) &&
    ((c.w.div.strand k).depth.toNat != 4 || (c.w.div.strand k).entries.any fun e => e.mask == 0)

theorem witness_DivergentBranches : passesWith (regs [] [] [(2, 0xF0F0F0F1)]) (.brd 2 1) { inTx := false } stacksKept = true ∧
    passesWith split (.brdNot 2 1) { inTx := false } stacksKept = true ∧ passesWith stacked (.rejoin 2) { inTx := false } stacksKept = true := by decide +kernel
theorem test_brd_splits_lanes : leavesWave (.brd 2 2) (regs [] [] [(2, 0x00000003)])
    (fun w => (w.div.strand 0).active == 0xC && (w.div.strand 0).depth == 1 && (w.div.path 0).pc == 0x10004) = true := by decide +kernel
theorem test_rejoin_enters : leavesWave (.rejoin 2) stacked
    (fun w => (w.div.strand 0).active == 3 && (w.div.strand 0).entries == [{ mask := 0xC, pc := 0x10001 }]) = true := by decide +kernel
theorem witness_Regang : passesWith base .regang { inTx := false } (fun c => ((List.range 8).filter fun p => (c.w.div.path p).mask != 0) == [0]) = true ∧
    passesWith split .regang { inTx := false } (fun c => (c.w.div.path 1).hold == .regang && decide ((c.w.div.path 1).pc.toNat < (c.w.div.path 0).pc.toNat)) = true ∧
    passesWith (withDiv split fun d => d.setPath 1 { d.path 1 with hold := .none }) .regang { inTx := false }
      (fun c => (c.w.div.path 1).hold == .none && c.p == 0) = true ∧
    ([false, true].all fun b => passesWith (together b) .regang { inTx := false } fun c =>
      (c.w.div.path 1).hold == .regang && (c.w.div.path 1).pc == c.path.pc && (c.w.div.path 1).stepping == b && !c.path.stepping) = true := by decide +kernel
theorem test_regang_joins : leavesWave .regang (together false) (fun w => (w.div.path 0).mask == 0xFF && (w.div.path 0).hold == .none && (w.div.path 1).mask == 0 &&
      w.div.path 5 == (together false).pathOf 0 5) = true ∧ leavesWave .regang (together true) (fun w => (w.div.path 0).hold == .debug) = true := by decide +kernel
theorem test_regang_lowest : leavesWave .regang split (fun w => (w.div.path 1).pc == 0x8004 && (w.div.path 1).mask == 0xF0 && (w.div.path 0).hold == .regang) = true := by
  decide +kernel
theorem witness_Exit : passesWith base .exit { inTx := false } (fun c => c.w.div.valid.length == 1 && (List.range 8).all fun k => (exitRule (viewOf (c.w.div.strand k))).2.isNone) = true ∧
    passesWith stacked .exit { inTx := false } (fun c => (exitRule (viewOf (c.w.div.strand 0))).2 == some 0x10008) = true := by decide +kernel
theorem test_exit_resumes : leavesWave .exit stacked (fun w => (w.div.strand 0).active == 3 && (w.div.strand 0).live == 3 && !w.ended) = true := by decide +kernel
theorem test_exit_ends : leaves .exit base (fun t => t.waves.all fun e => e.2.ended) = true := by decide +kernel
theorem witness_TrapInstructions : passesWith base (.trap 0xFFFFFF) {} (fun _ => true) = true ∧ passesWith base .bkpt {} (fun _ => true) = true ∧
    issuesWith base (fun c => c.ext.kinds == 0 && !wordSelectsImm 0x00000001) = true := by decide +kernel
theorem test_trap_registers : leavesWave (.trap 0x1234) base
    (fun w => trapped w 0x0E && w.trap.addr == 0x1234 && w.trap.pc == 0x10000 && (w.shadow.path 0).pc == 0x10004 && (w.div.path 0).pc == 0x20000) = true := by decide +kernel
theorem test_tool_sub : leavesWave (.tool1 0x42) base (fun w => w.trap.cause == 0x01000014 && w.trap.addr == 0x1E000042) = true := by decide +kernel

/-- Address pairs v20, v21 that name 32 words from 0x40000, with data in v4 and in the pair v8. -/
def pointed : State :=
  regs [(20, { tag := 0, lanes := lanesOf fun L => BitVec.ofNat 32 (0x40000 + 8 * L) }), (21, all 0 0), (4, ramp 4), (8, ramp 0xF), (9, all 0xF 7)]
    [(10, 0x40000), (11, 0xF100000000000100), (12, 0xFFFFFFFF80000001)] []

/-- The context's page table maps the second gibibyte to package 1. -/
def foreign : State :=
  withRegs (withBytes pointed 0x102008 8 (fetchPte true (mkPa 1 0 0) 0x63)) [(20, { tag := 0, lanes := lanesOf fun L => BitVec.ofNat 32 (0x40040000 + 8 * L) })] [(10, 0x40040000)] []

/-- A line of package 1's far memory. -/
def away : Nat := mkPa 1 0 0x40000 / 128

/-- TRAMPBASE at 0x30000, its entry 5 an address. -/
def tramped (a : Nat) : State :=
  { withBytes base 0x30028 8 a with convoys := tmod base.convoys 0 fun v => { v with desc := { v.desc with trampBase := 0x30000 } } }

/-- The same with the table in package 1, and with the entry that it has answered. -/
def trampedAway : State := { foreign with convoys := tmod foreign.convoys 0 fun v => { v with desc := { v.desc with trampBase := 0x40030000 } } }
def trampedEntry (a : Nat) : State := withDiv base fun d => d.setPath 0 { d.path 0 with entry := some (0x10000, BitVec.ofNat 64 a) }

theorem witness_TrampAway : passesWith trampedAway (.tramp 5) {} (fun c => c.path.entry.isNone && match resolve trampedAway c .read 8 true [(0, c.conv.desc.trampBase + 40)] with
    | .ok s' [x] => x.tgt.foreign trampedAway && !isHeld trampedAway c.w.core x.tgt && !isLost s' 1 && s'.loads.isEmpty && x.tgt == .mem (mkPa 1 0 0x30028) 0 | _ => false) = true := by
  decide +kernel
theorem test_tramp_away : leaves (.tramp 5) trampedAway (fun t => t.loads.map (fun e => (e.2.package, e.2.dest)) == [(1, .entry 0 0x10000)]) = true ∧
    leavesWave (.tramp 5) (trampedEntry 0x40) (fun w => (w.div.path 0).pc == 0x40 && (w.div.path 0).entry.isNone) = true := by decide +kernel
theorem test_tramp : leavesWave (.tramp 5) (tramped 0x40) (fun w => (w.div.path 0).pc == 0x40) = true ∧
    leavesWave (.tramp 5) (tramped 0x41) (fun w => trapped w 0x06 && w.trap.addr == 0x41) = true := by decide +kernel
theorem witness_Tramp : ([0x40, 0x41].all fun a => passesWith (tramped a) (.tramp 5) {} fun c =>
    c.path.entry.isNone && match resolve (tramped a) c .read 8 true [(0, c.conv.desc.trampBase + 40)] with
    | .ok s' [x] => !x.tgt.foreign (tramped a) && !readsPoison (tramped a) 0 x.tgt && readAcc s' c 8 x.tgt == a | _ => false) = true ∧
    ([0x40, 0x41].all fun a => passesWith (trampedEntry a) (.tramp 5) {} fun c => c.path.entry == some (c.path.pc, BitVec.ofNat 64 a)) = true := by decide +kernel
theorem witness_Ext : issuesWith base (fun c => !c.ext.has 6 && (bitsSet c.ext.kinds).length == 0) = true ∧
    issuesWith (withExt base 0 1) (fun c => c.ext.has 0) = true ∧
    issuesWith (withExt (withExt (withExt base 0 1) 1 1) 2 0) (fun c => (bitsSet c.ext.kinds).length == 3) = true := by decide +kernel
theorem test_ext_pends : leavesWave (.ext 0 0x604) base (fun w => (w.div.strand 7).ext.payload 0 == 0x604 && (w.div.path 0).pc == 0x10004) = true ∧
    leavesWave (.ext 0 0) (withExt base 0 1) (fun w => trapped w 0x10 && w.trap.addr == 1) = true := by decide +kernel

/-- The convoy without a handler. -/
def unhandled : State := { base with convoys := tmod base.convoys 0 fun v => { v with desc := { v.desc with handler := 0 } } }

theorem witness_PreciseTrap : issuesWith base (fun c => c.conv.desc.handler != 0 && !c.w.inHandler && c.w.txn.depth == 0 && c.conv.halt.isNone) = true ∧
    issuesWith unhandled (fun c => c.conv.desc.handler == 0) = true := by decide +kernel

/-- The wave is in its handler, its shadow that of a path that stood at 0x40. -/
def handling : State :=
  base.modWave 0 fun w => { w with inHandler := true, shadow := { w.div with paths := w.div.paths.setIfInBounds 0 { w.div.path 0 with pc := 0x40 } } }

/-- A launch's part, of one convoy. -/
def part : Part :=
  { launch := 0, context := 0, card := fetchCard, rank := 0, total := 1, placed := 1, retired := 0, hostSeq := none, hostLaunch := false, uids := [0], progressAt := 0
    waiting := false }

/-- A second wave of the convoy, in slot 1. -/
def twoWaves : State := { base with waves := tput base.waves 1 (Wave.start 0 1 0x10000) }

theorem witness_TrapsEnd : issuesWith handling (fun c => c.w.inHandler && c.w.txn.depth == 0) = true ∧
    (let s : State := { unhandled with disp := { unhandled.disp with parts := [(0, part)] } }
     issuesWith s (fun c => c.conv.desc.handler == 0 && (tget s.disp.parts c.conv.part).isSome) && tablesB s) = true := by decide +kernel
theorem witness_Halting : issuesWith base (fun c => c.conv.halt.isNone) = true ∧
    (issuesWith twoWaves (fun c => c.conv.halt.isNone) && twoWaves.waves.any fun e => e.1 != 0 && keyConvoy e.1 == 0 && !e.2.ended) = true ∧
    ([false, true].all fun b => issuesWith (base.modWave 0 fun w => { w with txn := { w.txn with
      depth := 1, reads := [{ place := memPlace 8, changed := b, tabled := true }] } }) fun c => c.w.txn.depth != 0 && c.w.txn.reads.any (·.changed) == b) = true := by
  decide +kernel
theorem test_halt_spreads : leaves (.illegalOp 0x3B000000) twoWaves (fun t => (tget t.convoys 0).any fun v => v.halt.any fun h => h.waiting == [1] && h.cause == 1) = true := by
  decide +kernel
theorem test_trap_without_handler : leaves .bkpt unhandled (fun t => t.waves.isEmpty && t.logs.faults.length == 1) = true := by decide +kernel

/-! ### System registers, the shadow, ERET, asynchronous traps -/

theorem witness_SystemRegisters : (issuesWith base fun c => (systemRegisters base c).all fun r => passesWith base (.sread r.1 5) {} fun _ => true) = true ∧
    passesWith base (.swrite 0x21 6) {} (fun _ => true) = true ∧ passesWith base (.swrite 0x11 6) {} (fun _ => true) = true := by decide +kernel
theorem test_sread : leavesWave (.sread 0x18 5) twoWaves (fun w => w.sreg 5 == 0) = true ∧
    leavesWave (.sread 0x21 5) (base.modWave 0 fun w => { w with faultstat := 9 }) (fun w => w.sreg 5 == 9) = true := by decide +kernel
theorem test_swrite : leavesWave (.swrite 0x21 6) (withRegs (base.modWave 0 fun w => { w with faultstat := 0xB }) [] [(6, 3)] []) (fun w => w.faultstat == 8) = true ∧
    leavesWave (.swrite 0x11 6) base (fun w => trapped w 0x08 && w.trap.addr == 0x11) = true := by decide +kernel

/-- Each field of the shadow, at its first and last index. -/
def shadowFields : List (BitVec 8 × BitVec 8) :=
  [(0, 0), (0, 7), (1, 0), (1, 7), (2, 0), (2, 7), (3, 7), (4, 7), (5, 0), (5, 31), (6, 31), (7, 7), (8, 0), (8, 127), (9, 0), (9, 23)]

theorem witness_Shadow : (shadowFields.all fun e => passesWith handling (.pathrd e.1 e.2 5) {} fun c => c.w.inHandler && c.w.txn.depth == 0) = true ∧
    (shadowFields.all fun e => fieldsOk (.pathwr e.1 e.2 6)) = true ∧
    issuesWith (withRegs handling [] [(6, 0x40)] []) (fun c => c.w.inHandler && c.ext.kinds == 0 && c.w.sreg 6 == 0x40) = true := by decide +kernel
theorem test_pathrd : leavesWave (.pathrd 1 0 56) handling (fun w => w.sreg 56 == 0x40) = true ∧ leavesWave (.pathrd 3 0 57) handling (fun w => w.sreg 57 == 15) = true := by
  decide +kernel
theorem test_pathwr : leavesWave (.pathwr 1 0 6) (withRegs handling [] [(6, 0x80)] []) (fun w => (w.shadow.path 0).pc == 0x80) = true ∧
    leaves (.pathwr 1 0 6) (withRegs handling [] [(6, 0x81)] []) (fun t => t.waves.isEmpty) = true := by decide +kernel
theorem witness_Eret : passesWith handling .eret {} (fun c => c.w.inHandler && c.w.txn.depth == 0 && shadowOk c.w &&
      (List.range 8).all fun k => (c.w.shadow.strand k).active &&& (c.w.shadow.strand k).live != 0) = true ∧
    passesWith (handling.modWave 0 fun w => { w with shadow := w.shadow.setPath 0 Path.free }) .eret {} (fun c => c.w.inHandler && !shadowOk c.w) = true := by decide +kernel
theorem test_eret : leavesWave .eret handling (fun w => !w.inHandler && (w.div.path 0).pc == 0x40) = true ∧
    leavesWave .eret (handling.modWave 0 fun w => { w with shadow := w.shadow.setPath 0 Path.free }) (fun w => w.inHandler && w.faultstat == 8) = true := by decide +kernel

/-- A report of another wave's store. -/
def report : Report :=
  { cause := 0x09, sub := 1, addr := 0x100, pc := 0x44, lanes := 3, convoy := 0, crew := 0, wave := some 0, slot := 0, launch := 1, index := 0, context := 0, cluster := 0 }

/-- A SIBLING_HALT that has reached the wave. -/
def sibling (left : Nat) : Sibling := { left := left, used := 1, cause := 1, pc := 0x50, crew := 0, slot := 1, arrived := true }

/-- The wave with traps held. -/
def holding (reset : Option Dword) (halt : Option Sibling) (rep : Option Report) : State :=
  base.modWave 0 fun w => { w with heldReset := reset, heldSibling := halt, heldReport := rep }

/-- Its convoy is placed, has a handler, and no path is halted. -/
def canTake (s : State) : Bool :=
  match tget s.waves 0, tget s.convoys 0 with
  | some w, some v => v.residence == .placed && v.desc.handler != 0 && !w.ended && !w.inHandler && !w.halted && w.txn.depth == 0
  | _, _ => false

theorem witness_AsyncTraps : canTake (holding (some 7) none none) = true ∧ canTake (holding none (some (sibling 0)) none) = true ∧
    canTake (holding none (some (sibling 1)) (some report)) = true ∧ canTake (holding none none none) = true ∧
    ((tget handling.waves 0).any fun w => w.inHandler) = true := by decide +kernel
theorem test_async_order : leavesWave (.asyncTrapEntry 0) (holding (some 7) (some (sibling 0)) (some report)) (fun w => w.trap.cause == 0x800C && w.trap.addr == 7) = true ∧
    leavesWave (.asyncTrapEntry 0) (holding none (some (sibling 0)) (some report)) (fun w => w.trap.cause == 0x01008012 && w.trap.skid == 0x101) = true ∧
    leavesWave (.asyncTrapEntry 0) (holding none (some (sibling 1)) (some report)) (fun w => w.trap.cause == 0x09008015 && w.trap.lanes == 3) = true := by decide +kernel

/-- A halt in progress that waits for the wave. -/
def halting (s : State) : State :=
  { s with convoys := tmod s.convoys 0 fun v => { v with halt := some { cause := 1, pc := 0x50, crew := 0, slot := 1, waiting := [0] } } }

theorem witness_HaltsAndReports :
    ([base, handling, base.modWave 0 fun w => { w with asleep := true }].all fun s => (tget (halting s).convoys 0).any fun v => v.residence == .placed &&
      v.halt.any (fun h => h.waiting.contains 0) && (tget (halting s).waves 0).any fun w => w.heldSibling.isNone && !w.ended && w.heldReset.isNone) = true ∧
    ((tget base.waves 0).any fun w => !w.stalled && !w.inHandler) = true ∧ ((tget (base.modWave 0 fun w => { w with asleep := true }).waves 0).any fun w => w.stalled) = true ∧
    ([none, some report].all fun r => (tget (holding none none r).waves 0).any fun w => !w.ended && w.heldReport == r) = true := by decide +kernel
theorem test_skid : leavesWave (.siblingHalt 0 20) (halting base) (fun w => w.heldSibling.any fun h => h.left == 8) = true := by decide +kernel
theorem test_report_lost : leavesWave .asyncReport { (holding none none (some report)) with logs := { base.logs with reports := [report] } } (fun w => w.faultstat == 2) = true := by
  decide +kernel

/-! ### Loads, stores, atomics -/

/-- The checks of an access's addresses succeed, and what follows holds of the state and the accesses that they give. -/
def resolves (s : State) (kind : Kind) (n : Nat) (scalar : Bool) (lanes : Ctx → List (Nat × Dword)) (q : State → Ctx → List Acc → Bool) : Bool :=
  match issueCtx s with
  | some c => (match resolve s c kind n scalar (lanes c) with | .ok s' accs => q s' c accs | _ => false)
  | none => false

/-- A load can read all its lanes at once (`LoadsHere`). -/
def loadsB (s : State) (n stream : Nat) (scalar : Bool) (lanes : Ctx → List (Nat × Dword)) : Bool :=
  resolves s .read n scalar lanes fun s' c accs => c.w.txn.depth == 0 && !streamHeld c stream && !loadWaits s c stream accs &&
    let s1 := checkReads s' c accs
    (accs.all fun a => !readsPoison s1 (keyConvoy c.key) a.tgt && !a.tgt.foreign s) && (touchReads s1 c.w.core (bits (c.ext.payload 4).toNat 16 2 != 3) accs).isSome

/-- A core can write a target at once (`CanWrite`). -/
def canWriteB (s : State) (c : Ctx) : Target → Bool
  | .scratch k _ => k == keyCrew c.key && (tget s.crews (keyCrewKey c.key)).isSome
  | .mem pa cache => paPkg pa == s.pkg && paRegion pa != 3 && !isSwitching s pa && decide (c.w.core < 512) &&
      (!coherentHere s pa || (!leaseBlocks s (lineOf pa) 1 (.stack (coreStack c.w.core)) &&
        (cache != 0 || ((copyOf s (lineOf pa) (coreStack c.w.core)).any fun y => y.state == 3 && y.lease.isNone) &&
          (List.range 4).all fun k => k == coreStack c.w.core || (copyOf s (lineOf pa) k).all fun y => decide (y.state < 2))))
  | _ => false

/-- A store can perform all its lanes at once (`StoresHere`). -/
def storesB (s : State) (n stream scope : Nat) (release scalar : Bool) (lanes : Ctx → List (Nat × Dword)) : Bool :=
  resolves s .write n scalar lanes fun s' c accs =>
    let s2 := if release then cleanStack s' (coreStack c.w.core) (actScope scope accs) else s'
    c.w.txn.depth == 0 && !streamHeld c stream && (writeWaits s c stream release accs).isNone && !(release && backsOut s2 (coreStack c.w.core)) && (accs.all fun a => canWriteB s2 c a.tgt &&
      (match a.tgt with | .mem pa _ => decide (pa % 128 + n ≤ 128) | _ => true)) && bytesB s2

/-- `pointed` in a region that the hardware keeps coherent; the core's stack has the lines in M. -/
def coherent : State :=
  { pointed with
    regions := [(0, 1)]
    copies := [(copyKey 0x800 0, { state := 3, bytes := [(0, 9)], dirty := 0, lease := none }), (copyKey 0x801 0, { state := 3, bytes := [], dirty := 0, lease := none })]
    filters := [(0x800, { holders := 1, owner := some 0, order := 0 }), (0x801, { holders := 1, owner := some 0, order := 0 })] }

theorem witness_Loads : (loadRows.all fun r => [pointed, coherent].all fun s =>
      passesWith s (r.1 0 20 0 0 0 1) (loadSpec 0 20 0 r.2.1) (fun _ => true) &&
      loadsB s r.2.1 0 false fun c => laneAddrs s c 20 0 r.2.1 (c.acting &&& retryLanes c.w c.p c.path.pc)) = true ∧
    (scalarLoadRows.all fun r => [(10 : BitVec 6), 11].all fun a => passesWith pointed (r.1 0 a 0 0 0) { kinds := 0x18 } (fun _ => true) &&
      loadsB pointed r.2.1 0 true fun c => [(0, c.w.sreg a.toNat + c.off)]) = true := by decide +kernel
theorem test_sld_signs : leavesWave (.sldI8 5 10 0 0 0) (withBytes pointed 0x40000 4 0x80) (fun w => w.sreg 5 == 0xFFFFFFFFFFFFFF80) = true ∧
    leavesWave (.sldN16 5 10 0 0 0) (withBytes pointed 0x40000 4 0x8081) (fun w => w.sreg 5 == 0x8081) = true ∧
    leavesWave (.sldN64 5 10 0 0 0) (withExt (withBytes pointed 0x3FFF8 8 0x0123456789ABCDEF) 3 0xFFFF8) (fun w => w.sreg 5 == 0x0123456789ABCDEF) = true := by decide +kernel
theorem test_ld_lanes : leavesWave (.ldF32 7 20 0 0 0 0) (withBytes pointed 0x400F8 4 0x3F800000) (fun w => vecIs w 7 31 1 0x3F800000 && vecIs w 7 30 1 0) = true ∧
    leavesWave (.ldI64 30 20 0 0 0 0) (withBytes pointed 0x40008 8 0x0123456789ABCDEF) (fun w => vecIs w 30 1 0xF 0x89ABCDEF && vecIs w 31 1 0xF 0x01234567) = true := by
  decide +kernel
theorem test_ld_newest : leavesWave (.sldN8 5 10 0 0 0) (withBytes coherent 0x40000 1 5) (fun w => w.sreg 5 == 5) = true ∧
    leavesWave (.sldN8 5 10 0 0 0) coherent (fun w => w.sreg 5 == 9) = true := by decide +kernel
theorem test_sld_misaligned : leavesWave (.sldN32 5 10 0 0 0) (withRegs pointed [] [(10, 0x40002)] []) (fun w => trapped w 0x06 && w.trap.addr == 0x40002) = true := by decide +kernel

theorem witness_ForeignLoads : (loadRows.all fun r => passesWith foreign (r.1 0 20 0 0 0 0) (loadSpec 0 20 0 r.2.1) fun c => c.w.txn.depth == 0 && !streamHeld c 0) = true ∧
    (loadRows.all fun r => resolves foreign .read r.2.1 false (fun c => laneAddrs foreign c 20 0 r.2.1 (c.acting &&& retryLanes c.w c.p c.path.pc)) fun s' c accs =>
      !loadWaits foreign c 0 accs && !accs.isEmpty && !isLost foreign 1 && !leasedDirty foreign (awayAccs foreign c.w.core accs) &&
      accs.all fun x => !readsPoison (checkReads s' c accs) 0 x.tgt && !isHeld foreign c.w.core x.tgt && !isHeld s' c.w.core x.tgt &&
        (match x.tgt with | .mem pa _ => paPkg pa == 1 | _ => false)) = true := by decide +kernel

/-- A load on its way to lanes 0 and 1 of v7. -/
def awaiting : State :=
  { base with loads := [(3, { wave := 0, path := 0, pc := 0, stream := 0, package := 1, lanes := 3, addrs := [], dest := .vector 7 false 1, since := 0, acquire := none })] }

theorem witness_Stores : (([(0, 0), (2, 3)] : List (BitVec 2 × BitVec 3)).all fun e => [pointed, coherent].all fun s =>
      passesWith s (.stB32 4 20 0 0 e.2 e.1) (storeSpec 4 20 0 4) (fun _ => true) && storesB s 4 0 e.2.toNat (e.1 == 2) false (fun c => laneAddrs s c 20 0 4 (c.acting &&& retryLanes c.w c.p c.path.pc)) &&
      passesWith s (.stI64 8 20 0 0 e.2 e.1) (storeSpec 8 20 0 8) (fun _ => true) && storesB s 8 0 e.2.toNat (e.1 == 2) false fun c => laneAddrs s c 20 0 8 (c.acting &&& retryLanes c.w c.p c.path.pc)) = true ∧
    (scalarStoreRows.all fun r => [(10 : BitVec 6), 11].all fun a => passesWith pointed (r.1 12 a 0 0 2) { kinds := 0x18 } (fun _ => true) &&
      storesB pointed r.2 0 0 true true fun c => [(0, c.w.sreg a.toNat + c.off)]) = true := by decide +kernel
theorem test_sst_bytes : leaves (.sstN16 12 10 0 0 0) coherent (fun t => readByte t 0x40000 == 1 && readByte t 0x40001 == 0 && readByte t 0x40002 == 0) = true ∧
    leaves (.sstN32 12 11 0 0 0) pointed (fun t => byteAt (t.crew 0).scratch 0x103 == 0x80 && byteAt (t.crew 0).scratch 0x104 == 0) = true := by decide +kernel
theorem test_st_lane_order : leaves (.stB32 4 20 0 0 0 0) (withRegs coherent [(20, all 0 0x40000)] [] []) (fun t => readByte t 0x40000 == 31) = true := by decide +kernel

/-- The other spaces that a store may name: a register, a control byte, a peer crew's scratch, another package. -/
def elsewhere : State :=
  withRegs { foreign with
    convoys := tmod foreign.convoys 0 fun v => { v with card := { v.card with crews := 2 } }
    crews := tput foreign.crews 1 { scratchSize := 65536, scratch := [], windows := [], tiles := [], poolFree := 0 } } [] [(12, 0x11), (13, 0xF200000000000000 + 128 * 5), (14, 0xF300000000000003), (15, 0xF000000001000040)] []

theorem witness_StoresElsewhere : (scalarStoreRows.all fun r => ([(13, 0), (14, 1), (15, 2), (10, 3)] : List (BitVec 6 × Nat)).all fun e =>
    (e.2 == 1 && r.2 != 1) || (passesWith elsewhere (r.1 12 e.1 0 0 0) { kinds := 0x18 } (fun c => c.w.txn.depth == 0 && !streamHeld c 0) &&
    resolves elsewhere .write r.2 true (fun c => [(0, c.w.sreg e.1.toNat + c.off)]) fun s' c accs =>
      (writeWaits elsewhere c 0 false accs).isNone && accs.length == 1 && accs.all fun x => match x.tgt with
        | .aperture _ reg off => e.2 == 0 && reg == 5 && decide (off + r.2 ≤ 128)
        | .control i => e.2 == 1 && i == 3 && (tget s'.crews 0).isSome
        | .scratch k _ => e.2 == 2 && k == 1
        | .mem pa _ => e.2 == 3 && paPkg pa == 1 && !isLost elsewhere 1 && (List.range 4).all fun k => (copyOf s' (lineOf pa) k).isNone)) = true := by decide +kernel
theorem test_aperture_raw : leavesWave (.sstN8 12 13 0 0 0) elsewhere (fun w => vecIs w 5 0 0 0x11) = true := by decide +kernel
theorem witness_LoadReturn : tablesB awaiting = true ∧ ((tget awaiting.loads 3).any fun l => l.acquire.isNone && l.wave == 0) = true ∧
    ((tget awaiting.convoys 0).any fun v => v.residence == .placed) = true := by decide +kernel
theorem test_loadReturn : leaves (.loadReturn 3 (Vector.replicate 32 5) false) awaiting
    (fun t => t.loads.isEmpty && (tget t.waves 0).any fun w => vecIs w 7 1 1 5 && vecIs w 7 2 1 0) = true := by decide +kernel

/-! ### The waymark window, prefetches and flushes -/

/-- The context's waymark window is 65,536 bytes at offset 0. -/
def windowed : State :=
  { (withRegs pointed [(20, { tag := 0, lanes := lanesOf fun L => BitVec.ofNat 32 (0xFF00 + 8 * L) })] [] []) with
    waymark := [(0xFF08, 5)], convoys := tmod pointed.convoys 0 fun v => { v with desc := { v.desc with wmSize := 65536 } } }

theorem witness_Waymark : (([(.wldN32, 4, 5), (.wldN64, 8, 0xF)] : List ((BitVec 7 → BitVec 7 → BitVec 1 → BitVec 4 → BitVec 2 → Instr) × Nat × BitVec 4)).all fun r =>
    passesWith windowed (r.1 2 20 0 0 0) { kinds := 0x1C, modMask := modPlain, opnds := [(opD 2).group (r.2.1 / 4)] ++ opAdr 20 0, tags := fun c => needAdr c 20 0 } fun c =>
      c.w.txn.depth == 0 && !streamHeld c 0 && !acquireOut windowed c.key 0 && armed windowed 10 0 0 == 0 && (laneAddrs windowed c 20 0 r.2.1 c.acting).all fun l =>
        l.2.toNat % r.2.1 == 0 && decide (l.2.toNat + r.2.1 ≤ c.conv.desc.wmSize) && !windowed.poisoned.contains (waymarkPoison ((c.conv.desc.wmBase + l.2.toNat) / 128))) = true := by
  decide +kernel
theorem test_wld : leavesWave (.wldN32 2 20 0 0 0) windowed (fun w => vecIs w 2 1 5 5 && vecIs w 2 0 5 0) = true := by decide +kernel

/-- The core's stack, which is not the line's home, has a dirty copy of the line at 0x41000. -/
def dirty : State :=
  withRegs { pointed with copies := [(copyKey 0x820 0, { state := 3, bytes := [(4, 9)], dirty := 0x10, lease := none })] } [] [(10, 0x41000)] []

theorem witness_PrefetchesAndFlushes : ([pointed, coherent].all fun s => passesWith s (.pref 20 0 0 0) { kinds := 0x1C, modMask := modPlain, opnds := opAdr 20 0, tags := fun c => needAdr c 20 0 }
      (fun c => !streamHeld c 0) && resolves s .read 1 false (fun c => lineAddrs s c 20 0 (c.acting &&& retryLanes c.w c.p c.path.pc)) fun s' c accs =>
        accs.all fun x => match x.tgt with | .mem pa _ => !coherentHere s' pa || (copyOf s' (lineOf pa) (coreStack c.w.core)).isSome | _ => true) = true ∧
    passesWith dirty (.cflush 10 1 0 3) { kinds := 0x1C, modMask := modPlain, opnds := opAdr 10 1, inTx := false, tags := fun c => needAdr c 10 1 }
      (fun c => !streamHeld c 0 && dirty.loads.isEmpty && decide (c.w.core < 512)) = true ∧
    resolves dirty .read 1 true (fun c => lineAddrs dirty c 10 1 c.acting) (fun s' c accs => tablesB s' && bytesB s' && accs.length == 1 && accs.all fun x => match x.tgt with
      | .mem pa cache => isSoftware s' pa && cache == 0 && !isHome s' (coreStack c.w.core) pa && (copyOf s' (lineOf pa) (coreStack c.w.core)).isSome | _ => false) = true := by decide +kernel
theorem test_cflush_cleans : readByte dirty 0x41004 = 0 ∧ leaves (.cflush 10 1 0 3) dirty (fun t => readByte t 0x41004 == 9 && (copyOf t 0x820 0).isNone) = true := by decide +kernel

/-! ### Atomics -/

/-- One lane of the path acts. -/
def oneLane (s : State) : State := withDiv s fun d => (d.setPath 0 { d.path 0 with mask := 1 }).setStrand 0 { d.strand 0 with active := 1 }

/-- Every lane of v20, v21 names one word of own scratch. -/
def counting (tag : BitVec 4) : State :=
  withRegs pointed [(20, all 0 0x100), (21, all 0 0xF1000000), (4, { tag := tag, lanes := lanesOf fun L => BitVec.ofNat 32 (L + 1) }), (5, all tag 3), (6, all 0 0), (7, all 0 0)] [] []

/-- An atomic performs all its lanes in this package (`AtomsHere`). -/
def atomsB (s : State) (op : Nat) (red release : Bool) (scope : Nat) (one : Bool) : Bool :=
  match issueCtx s with
  | some c =>
    let n := atomBytes c 4
    let reg := (opD 4).reg c
    let float : Bool := (c.w.vreg reg).tag == 1 && decide (op ≤ 2)
    (match resolve s c .atomic n false (laneAddrs s c 20 0 n c.acting) with
    | .ok s0 accs =>
      let s' := if red then s0 else checkReads s0 c accs
      let s2 := if release then cleanStack s' (coreStack c.w.core) (actScope scope accs) else s'
      !streamHeld c 0 && (writeWaits s c 0 release accs).isNone && !loadWaits s c 0 accs &&
      !(release && backsOut s2 (coreStack c.w.core)) &&
      (accs.all fun x => !x.tgt.foreign s && !x.tgt.peer (keyCrew c.key) && !readsPoison s' (keyConvoy c.key) x.tgt) && (!one || accs.length == 1) && bytesB s2 &&
      (atomLocal s2 c { op := op, bytes := n, float := float, stream := 0, scope := actScope scope accs } red (atomData s c n reg) (atomData s c n (reg + n / 4)) accs).isSome
    | _ => false)
  | none => false

/-- The tag that a test gives the data of an operation. -/
def atomTag (op : Nat) : BitVec 4 := if op = 3 ∨ op = 4 then 5 else 4

theorem witness_Atomics : (atomRows.all fun r => [counting (atomTag r.2), oneLane (counting 15)].all fun s =>
      (match issueCtx s with | some c => passesWith s (r.1 4 20 0 0 3 2) (atomSpec c r.2 4 20 0) fun _ => true | none => false) && atomsB s r.2 false true 3 false) = true ∧
    (atomRows.all fun r => atomsB (oneLane (counting 15)) r.2 false false 3 true) = true := by decide +kernel
theorem witness_Reds : (redRows.all fun r => [counting (atomTag r.2), oneLane (counting 15)].all fun s =>
      (match issueCtx s with | some c => passesWith s (r.1 4 20 0 0 3 0) (atomSpec c r.2 4 20 0) fun _ => true | none => false) && atomsB s r.2 true false 3 false) = true := by
  decide +kernel
theorem test_atom_lane_order : leaves (.atomAdd 4 20 0 0 3 0) (counting 4) (fun t => byteAt (t.crew 0).scratch 0x100 == 0x10 && byteAt (t.crew 0).scratch 0x101 == 2 &&
    (tget t.waves 0).any fun w => vecIs w 4 0 4 0 && vecIs w 4 3 4 6) = true := by decide +kernel
theorem test_atom_smin : leaves (.atomSmin 4 20 0 0 3 0) (withRegs (oneLane (counting 4)) [(4, all 4 0xFFFFFFFF)] [] []) (fun t => byteAt (t.crew 0).scratch 0x103 == 0xFF) = true ∧
    leaves (.atomUmin 4 20 0 0 3 0) (withRegs (oneLane (counting 5)) [(4, all 5 0xFFFFFFFF)] [] []) (fun t => byteAt (t.crew 0).scratch 0x103 == 0) = true := by decide +kernel
theorem test_cas : leaves (.atomCas 4 20 0 0 3 0) (withRegs (oneLane (counting 4)) [(5, all 4 0)] [] []) (fun t => byteAt (t.crew 0).scratch 0x100 == 1) = true ∧
    leaves (.atomCas 4 20 0 0 3 0) (oneLane (counting 4)) (fun t => byteAt (t.crew 0).scratch 0x100 == 0) = true := by decide +kernel

/-! ### Fences, waits and transactions -/

/-- Stream 1 is held back by another path. -/
def heldStream : State :=
  withDiv base fun d => (d.setPath 0 { d.path 0 with mask := 0x0F }).setPath 1 { d.path 0 with mask := 0xF0, hold := .wait 13 0 2 }

/-- A packet of the wave that has not arrived, and one from another package that has not committed. -/
def packet (stream : Nat) : Packet :=
  { tag := 1, src := 0, dst := 1, context := 0, stream := stream, cls := 0, seq := 0, ordered := true, horizon := 0, payload := .store [], crcOk := true }
def sending : State :=
  { base with fabric := { base.fabric with
      sent := [{ packet := packet 2, stage := 0, sentAt := 0, backoff := 0, backing := false, wave := some 0, pc := 0, loss := none }]
      arrivals := [{ packet := packet 0, stamp := 3 }] } }

/-- The core's stack has a dirty byte of a line of package 1 that software manages, or has sent it home. -/
def backing (sent : Bool) : State :=
  if sent then { base with fabric := { base.fabric with
    sent := [{ packet := packet 0, stage := 1, sentAt := 0, backoff := 0, backing := false, wave := none, pc := 0, loss := none, back := some 0 }] } }
  else { base with copies := [(copyKey away 0, { state := 0, bytes := [(3, 7)], dirty := 8, lease := some (0, 50) })] }

theorem witness_Fences : passesWith base (.fence 0 0 1) { inTx := false } (fun c => heldStreams c == 0 && c.w.remoteStores == 0 && !releaseWaits base c.key 0) = true ∧
    passesWith base (.fence 0 5 0xFFFF) { inTx := false } (fun c => (List.range 16).all fun j => !releaseWaits base c.key j) = true ∧
    passesWith heldStream (.fence 0 3 2) { inTx := false } (fun c => heldStreams c &&& 2 != 0) = true ∧
    passesWith (base.modWave 0 fun w => { w with remoteStores := 1 }) (.fence 0 1 1) { inTx := false } (fun c => c.w.remoteStores != 0) = true ∧
    tablesB base = true ∧
    ([1, 3].all fun sc => passesWith base (.fence 0 sc 1) { inTx := false } fun c => !backsOut (cleanStack base (coreStack c.w.core) sc.toNat) 0) = true ∧
    ([false, true].all fun b => passesWith (backing b) (.fence 0 3 1) { inTx := false } fun c => heldStreams c == 0 && c.w.remoteStores == 0 && !releaseWaits (backing b) c.key 0 &&
      backsOut (cleanStack (backing b) (coreStack c.w.core) 3) 0) = true := by decide +kernel
theorem test_fence_backs : leaves (.fence 0 3 1) (backing false) (fun t => t.fabric.sent.map (fun p => (p.packet.dst, p.packet.payload)) == [(1, .store [(mkPa 1 0 0x40000 + 3, 7)])]) = true ∧
    leavesWave (.fence 0 3 1) (backing true) (fun w => (w.div.path 0).pc == 0x10000) = true := by decide +kernel
theorem witness_Opfence : passesWith base .opfence {} (fun _ => base.scratchOps.isEmpty) = true := by decide +kernel
theorem witness_Msfence : passesWith sending (.msfence 4) { inTx := false } (fun c => sending.fabric.sent.any fun p => p.wave == some c.key && p.stage == 0 && (4#16).getLsbD p.packet.stream) = true ∧
    passesWith sending (.msfence 8) { inTx := false } (fun c => heldStreams c == 0 && sending.fabric.sent.all fun p => !(8#16).getLsbD p.packet.stream) = true := by decide +kernel
theorem witness_Mswait : passesWith (withRegs sending [] [(7, 1)] []) (.mswait 7 1) { inTx := false } (fun c => decide (sending.ring.applied < c.w.sreg 7)) = true ∧
    passesWith (withRegs { sending with ring := { sending.ring with applied := 4 } } [] [(7, 4)] []) (.mswait 7 1) { inTx := false } (fun c => sending.fabric.arrivals.any fun a => decide (a.stamp < c.w.sreg 7)) = true ∧
    passesWith (withRegs { sending with ring := { sending.ring with applied := 4 } } [] [(7, 3)] []) (.mswait 7 1) { inTx := false }
      (fun c => heldStreams c == 0 && sending.fabric.arrivals.all fun a => decide (c.w.sreg 7 ≤ a.stamp)) = true := by decide +kernel
theorem witness_MatrixWaits : passesWith base .opfence {} (fun _ => true) = true ∧ passesWith base (.mwait 0) {} (fun c => c.w.outstanding == 0) = true ∧
    passesWith (base.modWave 0 fun w => { w with outstanding := 4 }) (.mwait 3) {} (fun c => decide (3 < c.w.outstanding)) = true := by decide +kernel
theorem test_mwait_waits : leavesWave (.mwait 3) (base.modWave 0 fun w => { w with outstanding := 4 }) (fun w => (w.div.path 0).pc == 0x10000) = true ∧
    leavesWave (.mwait 4) (base.modWave 0 fun w => { w with outstanding := 4 }) (fun w => (w.div.path 0).pc == 0x10004) = true := by decide +kernel

/-- The wave in a transaction. -/
def inTxn (s : State) (f : Txn → Txn) : State := s.modWave 0 fun w => { w with txn := f w.txn }

/-- An open level `n` whose fail labels and buffer are set, with or without a change of its read set. -/
def open' (n : BitVec 3) (changed : Bool) (s : State) : State :=
  inTxn s fun t => { t with depth := n, start := 0x10, fails := ⟨#[0x20, 0x24, 0x28, 0x2C], rfl⟩, reads := [{ place := memPlace 0x800, changed := changed, tabled := true }],
                            buffer := [{ place := scratchPlace 0 2, level := n.toNat, ea := 0xF100000000000100, bytes := [(0, 7)] }] }

theorem witness_Levels : ([0, 1, 2, 3, 4].all fun n => [Instr.tbegin 0x8000, .tcommit, .tabort 7, .telse 1, .tretry, .tstat 63].all fun i =>
    passesWith (open' n false base) i oneSpec fun c => c.w.txn.depth == n) = true := by decide +kernel
theorem witness_Alternatives : ([true, false].all fun b => passesWith (inTxn (open' 2 b base) fun t => { t with alts := t.alts.setIfInBounds 0 (some { label := 0x80, taken := false }) }) .tretry oneSpec
      fun c => (vget c.w.txn.alts 0 none).any (fun a => !a.taken) && (vget c.w.txn.alts 1 none).isNone) = true ∧
    ([true, false].all fun b => passesWith (open' 1 b base) .tretry oneSpec fun c => c.w.txn.reads.any (·.changed) == b) = true ∧
    passesWith (inTxn base fun t => { t with retained := false }) .tretry oneSpec (fun c => c.w.txn.depth == 0 && !c.w.txn.retained) = true := by decide +kernel
theorem test_tbegin : leavesWave (.tbegin 2) base (fun w => w.txn.depth == 1 && vget w.txn.fails 0 0 == 0x10008 && w.txn.start == 0x10000) = true ∧
    leavesWave (.tbegin 2) (open' 4 false base) (fun w => trapped w 0x0F) = true := by decide +kernel
theorem test_tabort : leavesWave (.tabort 7) (open' 2 false base) (fun w => w.txn.depth == 1 && w.txn.code == 7 && (w.div.path 0).pc == 0x24 && w.txn.buffer.isEmpty) = true := by decide +kernel
theorem test_tretry : leavesWave .tretry (open' 1 false base) (fun w => w.asleep && (w.div.path 0).pc == 0x10) = true ∧
    leavesWave .tretry (open' 1 true base) (fun w => !w.asleep && (w.div.path 0).pc == 0x10) = true := by decide +kernel
theorem test_tstat : leavesWave (.tstat 9) (inTxn base fun t => { t with cause := 9, code := 7, retained := true }) (fun w => w.sreg 9 == 0x0000000700400009) = true := by decide +kernel
theorem witness_Commit : ([true, false].all fun b => passesWith (open' 1 b coherent) .tcommit oneSpec fun c =>
      c.w.txn.depth == 1 && c.w.txn.reads.any (·.changed) == b && (List.range 16).all (fun k => !releaseWaits coherent c.key k) &&
      c.w.txn.buffer.all fun l => decide (1 ≤ l.level) && decide (l.level ≤ c.w.txn.depth.toNat) && keysFrom 0 l.bytes && (l.bytes.all fun e => decide (e.1 < 128)) &&
        canWriteB (cleanStack (open' 1 b coherent) 0 3) c (placeTarget l.place) && l.place.owner == keyCrewKey c.key) = true ∧
    ([false, true].all fun b => let s := open' 1 b coherent
      !backsOut (cleanStack s 0 3) 0 && (windowCause s 0 0 0 2 true).isNone) = true ∧
    tablesB (open' 1 false coherent) = true ∧ bytesB (open' 1 false coherent) = true := by decide +kernel
theorem test_commit : leaves .tcommit (open' 1 false base) (fun t => byteAt (t.crew 0).scratch 0x100 == 7 && (tget t.waves 0).any fun w => w.txn.depth == 0) = true ∧
    leaves .tcommit (open' 1 true base) (fun t => byteAt (t.crew 0).scratch 0x100 == 0 && (tget t.waves 0).any fun w => w.txn.cause == 2 && (w.div.path 0).pc == 0x20) = true := by
  decide +kernel
theorem witness_Buffering : (scalarStoreRows.all fun r => passesWith (open' 1 false pointed) (r.1 12 11 0 0 0) { kinds := 0x18 } (fun c => c.w.txn.depth != 0 && !streamHeld c 0) &&
      resolves (open' 1 false pointed) .write r.2 true (fun c => [(0, c.w.sreg 11 + c.off)]) fun s' c accs => accs.length == 1 && accs.all fun x => (trackedPlace s' c x.tgt).isSome) = true ∧
    (scalarLoadRows.all fun r => passesWith (open' 1 false pointed) (r.1 5 11 0 0 0) { kinds := 0x18 } (fun c => c.w.txn.depth != 0 && !c.w.txn.pageMode) &&
      resolves (open' 1 false pointed) .read r.2.1 true (fun c => [(0, c.w.sreg 11 + c.off)]) fun s' c accs => accs.length == 1 && accs.all fun x =>
        let s1 := checkReads s' c [x]
        !x.tgt.foreign (open' 1 false pointed) && !streamHeld c 0 && !readsPoison s1 (keyConvoy c.key) x.tgt &&
        (match trackedPlace s' c x.tgt, touchReads s1 c.w.core true [x] with | some p, some s2 => !(addRead s2 c.key p).2 | _, _ => false)) = true := by decide +kernel
theorem test_buffered : leaves (.sstN8 12 11 0 0 0) (open' 1 false pointed) (fun t => byteAt (t.crew 0).scratch 0x100 == 0 && (tget t.waves 0).any fun w =>
      bufferedByte w.txn (scratchPlace 0 2) 0 == some 1) = true ∧
    leavesWave (.sldN8 5 11 0 0 0) (open' 1 false pointed) (fun w => w.sreg 5 == 7) = true := by decide +kernel

/-- The wave sleeps; one entry of its read set stands in no wake table. -/
def sleeping (changed tabled : Bool) : State :=
  { (base.modWave 0 fun w => { w with asleep := true, sleptAt := 0, txn := { w.txn with reads := [{ place := memPlace 0x800, changed := changed, tabled := tabled }] } }) with
    clock := 4 * Config.cyclesPerUs }

theorem witness_Waking : ((tget (sleeping true true).waves 0).any fun w => !w.ended && w.asleep && w.txn.reads.any fun e => e.changed && e.tabled) = true ∧
    ((tget (open' 1 true base).waves 0).any fun w => !w.asleep && w.txn.depth != 0 && w.div.valid == [0] && w.txn.reads.any fun e => e.changed && e.tabled) = true ∧
    ((sleeping false false).waves.any fun e => timedDue (sleeping false false) e.2 && isPlaced (sleeping false false) e.1) = true ∧ tablesB (sleeping false false) = true := by decide +kernel
theorem test_wakes : leavesWave (.wake 0) (sleeping true true) (fun w => !w.asleep && w.txn.cause == 9) = true ∧
    leavesWave .timedWake (sleeping false false) (fun w => !w.asleep && w.txn.cause == 10) = true := by decide +kernel

/-! ### Matrix and tile instructions -/

/-- Operands in own scratch: A at 0 with its plane at 0x1800, B at 0xC00 with its plane at 0x1C00. Tile 2 is I32. -/
def operands : State :=
  let a (n : Nat) : Dword := BitVec.ofNat 64 (0xF1 * 2 ^ 56 + n)
  withRegs (base.setTile 0 2 { tag := 4, elems := [(0, 100)] }) [] [(10, a 0), (11, a 0x1800), (20, a 0xC00), (21, a 0x1C00), (13, a 0x2000), (14, 0x80)] []

/-- The kinds with their formats and the tile of the accumulator's tag. -/
def matKinds : List (Nat × BitVec 4 × BitVec 4 × BitVec 4) := [(0, 1, 0, 0), (0, 2, 4, 4), (0, 0, 3, 2), (0, 2, 6, 6), (1, 0, 8, 8), (1, 0, 9, 9), (2, 0, 7, 7), (2, 0, 7, 9)]

/-- What joins the queue: the checks of `MatrixInstructionsJoinTheQueuePart`. -/
def joinsB (s : State) (m : MatSpec) (c : Ctx) : Bool :=
  (matTrap s c m).isNone && (matWait s c m.tile).isNone && !tileBusy s (keyCrewKey c.key) m.tile c.key false &&
  (matOperands c m).all fun x => (linesOf (x.ea.toNat % 2 ^ 24) x.size).all fun l => !unordered s c.key c.w (crewKey (keyConvoy c.key) x.crew) l

theorem witness_MatrixJoins : (matRows.all fun r => matKinds.all fun k => k.1 != r.2 || (
      let m := matFields r.2 false k.2.1 k.2.2.1 k.2.2.2 10 20
      passesWith operands (r.1 k.2.1 k.2.2.1 k.2.2.2 10 20) (matSpec operands m) (joinsB operands m))) = true ∧ tablesB operands = true := by decide +kernel

/-- The wave is held at a joint matrix instruction, alone in its group. -/
def joined (i : Instr) (f : State → Ctx → Bool) : Bool :=
  match exec i operands with
  | .next z => (match tget z.waves 0 with
    | some w => (match memberCtx z 0 w with
      | some (x, i') => i' == i && x.key == 0 && tget z.waves x.key == some w && groupMembers z 0 0 == [(0, w)] && memberIssued 0 w && !x.path.stepping && f z x
      | none => false)
    | none => false)
  | _ => false

theorem witness_JointMatrix : (matJointRows.all fun r => matKinds.all fun k => k.1 != r.2 || (
      let m := matFields r.2 true k.2.1 k.2.2.1 k.2.2.2 10 20
      let i := r.1 k.2.1 k.2.2.1 k.2.2.2 10 20
      passesWith operands i (matIssueSpec operands m) (fun _ => true) && joined i fun z x => tablesB z && joinsB z m x)) = true := by decide +kernel

/-- An MMA of I8 on tile 2 with A and B of threes and of minus twos, queued on core 0. -/
def threes : MatrixOp :=
  { wave := 0, pc := 0x10000, kind := 0, tile := 2, fa := 4, fb := 4, rows := 32, cols := 32, crewA := 0, crewB := 0, addrA := 0, addrB := 0xC00,
    planeA := 0, planeB := 0, ta := false, tb := false, rnd := 0, ftz := false, sat := false, undefined := false,
    started := some (List.replicate 3072 3, List.replicate 3072 0xFE, [], []) }

/-- The same in E4M3 on tile 0: 1.0 times 2.0. -/
def floats : MatrixOp := { threes with tile := 0, fa := 2, fb := 2, started := some (List.replicate 3072 0x38, List.replicate 3072 0x40, [], []) }

/-- The sequencer of core 0 runs an instruction, or has it queued. -/
def running (m : MatrixOp) : State := (operands.modWave 0 fun w => { w with outstanding := 1 }).setCore 0 { Core.initial with running := some m }
def queued (m : MatrixOp) : State := operands.setCore 0 { Core.initial with queue := [{ m with started := none }] }

theorem witness_MatrixStart : ((queued threes).core 0).running = none ∧ ((queued threes).core 0).queue = [{ threes with started := none }] ∧ ((queued threes).core 0).resetting = false ∧
    operandsPoisoned (queued threes) { threes with started := none } = false ∧ armed (queued threes) 1 0 0 = 0 ∧ tablesB (queued threes) = true := by decide +kernel
theorem witness_MatrixComplete : ([threes, floats].all fun m => ((running m).core 0).running == some m && !((running m).core 0).resetting && !m.undefined &&
      m.freeRows.isEmpty && m.freeCols.isEmpty && (m.started.any fun o => o.1.length == 96 * m.rows && o.2.1.length == 96 * m.cols) && (tget (running m).waves m.wave).isSome && (tget (running m).crews (keyCrewKey m.wave)).isSome &&
      tablesB (running m) && bytesB (running m) && matBits m.fa == matBits m.fb) = true := by decide +kernel

/-- R226 by hand: 96 products of 3 and -2 and the old 100; the sum of 96 products 1.0 x 2.0. -/
theorem test_mma : dotInt 100 (List.replicate 96 3) (List.replicate 96 (-2)) = wrapNat 32 (-476) ∧
    dotFloat 0 false false 0 (List.replicate 6 (some (List.replicate 16 (matVal 2 0x38)))) (List.replicate 6 (some (List.replicate 16 (matVal 2 0x40)))) = 0x43400000 := by decide +kernel
theorem test_mma_rows : matIntRow 4 32 31 false (List.replicate 3072 3) = List.replicate 96 3 ∧ matIntRow 6 32 31 false (List.replicate 3072 0x7F) =
    (List.range 192).map (fun k => if k % 2 = 0 then -1 else 7) := by decide +kernel

/-- The same with the tile's address in memory of package 1. -/
def operandsAway : State := withRegs (withBytes operands 0x102008 8 (fetchPte true (mkPa 1 0 0) 0x63)) [] [(13, 0x40040000)] []

/-- What the statement on TLD asks, with whether the elements lie in another package. -/
def tileLoads (s : State) (f : BitVec 4) (other : Bool) : Bool :=
  passesWith s (.tld 1 f 0 13 14) { kinds := 0x10, tiles := [1], inTx := false } (fun c =>
    (tileMisaligned c (tileBytes f.toNat) 13 14).isNone && (tileWait s c 1).isNone && !streamHeld c 0) &&
  resolves s .tileRead (tileBytes f.toNat) true (fun c => tileAddrs c (tileBytes f.toNat) 13 14) fun s' c accs =>
    let s1 := checkReads s' c accs
    let away := awayAccs s1 c.w.core accs
    !loadWaits s c 0 accs && accs.length == 1024 && away.length == (if other then 1024 else 0) && (accs.all fun x => !readsPoison s1 0 x.tgt) && !isLost s 1 &&
    !leasedDirty s (awayAccs s c.w.core accs) &&
    (match touchReads s1 c.w.core true (if other then [] else accs) with | some s2 => !tileBusy s2 0 1 0 true | none => false)

theorem witness_TileLoad : tileLoads operands 5 false = true ∧ tileLoads operandsAway 0 true = true := by decide +kernel
/-- Own scratch with 1.0 in BF16 at the first element of the second row. -/
def tiled : State := { operands with crews := tmod operands.crews 0 fun y => { y with scratch := [(0x2080, 0x80), (0x2081, 0x3F)] } }

/-- TLD reads at once what its package holds, and TLD_COMPLETE writes the tile. -/
theorem test_tld : (match exec (.tld 1 1 0 13 14) tiled with
    | .next u => (tget u.waves 0).any (fun w => w.tldTiles == 2 && (w.div.path 0).pc == 0x10004) && (u.tile 0 1).elem 1 0 == 0 &&
        leaves (.tldComplete 0 1 []) u fun t => (t.tile 0 1).tag == 1 && (t.tile 0 1).elem 1 0 == 0x3F800000 && (t.tile 0 1).elem 0 0 == 0
    | _ => false) = true := by decide +kernel

/-- Tile 1 is being loaded with I32 elements: element 0 has been read, elements 1 and 64 have been asked of package 1. -/
def loading : State :=
  { (operands.modWave 0 fun w => { w with tldTiles := 2, tldData := [(1, (5, [(0, 7)]))] }) with
    loads := [(3, { wave := 0, path := 0, pc := 0, stream := 0, package := 1, lanes := 0, addrs := [(tileBase + 1, 0), (tileBase + 64, 0)], dest := .tile 1 5, since := 0,
                    acquire := none })] }

theorem witness_TileLoaded : ((tget loading.waves 0).any fun w => tget w.tldData 1 == some (5, [(0, 7)]) && keysFrom 0 w.tldData) = true ∧
    ((tget loading.convoys 0).any fun v => v.residence == .placed) = true ∧ tablesB loading = true ∧ bytesB loading = true ∧ (tget loading.crews 0).isSome = true ∧
    tileBusy loading 0 1 0 true = false ∧ (loading.loads.flatMap fun e => e.2.addrs.map fun a => a.1 - tileBase) = [1, 64] := by decide +kernel
theorem test_tldComplete : leaves (.tldComplete 0 1 [8, 9]) loading (fun t => (t.tile 0 1).tag == 4 && (t.tile 0 1).elem 0 0 == 7 && (t.tile 0 1).elem 0 1 == 8 &&
      (t.tile 0 1).elem 1 0 == 9 && t.loads.isEmpty && (tget t.waves 0).any fun w => w.tldTiles == 0) = true := by decide +kernel

/-- What the statement on TST asks: the elements go to places that the core can write, or to another package. -/
def tileStores (s : State) (t f : BitVec 4) (other : Bool) : Bool :=
  passesWith s (.tst t f 0 13 14) { kinds := 0x34, modMask := 0x0F000, tiles := [t.toNat], inTx := false, tags := fun c => needTile s c t.toNat (tileTag f.toNat),
                                    resultTag := fun _ => BitVec.ofNat 4 (tileCode f.toNat) } (fun c =>
    (tileMisaligned c (tileBytes f.toNat) 13 14).isNone && (tileWait s c t.toNat).isNone && !streamHeld c 0 && !c.ext.has 5) &&
  resolves s .tileWrite (tileBytes f.toNat) true (fun c => tileAddrs c (tileBytes f.toNat) 13 14) fun s' c accs => (writeWaits s c 0 false accs).isNone &&
    !tileBusy s' 0 t.toNat 0 true && bytesB s' && accs.length == 1024 && accs.all fun x =>
      if other then (match x.tgt with | .mem pa _ => paPkg pa == 1 && !isLost s 1 && (List.range 4).all fun k => (copyOf s' (lineOf pa) k).isNone | _ => false)
      else canWriteB s' c x.tgt && (match x.tgt with | .mem pa _ => decide (pa % 128 + tileBytes f.toNat ≤ 128) | _ => true)

theorem witness_TileStore : tileStores operands 2 6 false = true ∧ tileStores operandsAway 2 5 true = true := by decide +kernel
theorem test_tst : ((issueCtx operands).any fun c => (tileOut operands c 5 (operands.tile 0 2) [{ lane := tileBase, ea := 0, tgt := .scratch 0 0x2000 }]).1.map (·.2) == [bytesOf 4 100]) = true := by
  decide +kernel
theorem witness_TileZero : ([0, 5].all fun f => passesWith operands (.tzero 3 f) { tiles := [3], inTx := false } fun c =>
    (tileWait operands c 3).isNone && (tget operands.crews 0).isSome && !tileBusy operands 0 3 0 true) = true ∧ tablesB operands = true ∧ bytesB operands = true := by decide +kernel
theorem test_tzero : leaves (.tzero 2 0) operands (fun t => (t.tile 0 2).tag == 1 && (t.tile 0 2).elems.isEmpty && (tget t.waves 0).any fun w => (w.div.path 0).pc == 0x10004) = true := by
  decide +kernel

/-- The slab of core 0 has run its instruction for the hang limit, or is being reset. -/
def hung : State := { running threes with clock := 1048576 }
def resetting : State := (running threes).setCore 0 { Core.initial with running := some threes, resetting := true }

theorem witness_Slab : operands.settings.selftest ≠ 0 ∧ (operands.core (drivingCore operands 0)).ops = [] ∧ (operands.core (drivingCore operands 0)).resetting = false ∧
    (armed operands 9 (coreStack 0) 0).getLsbD 2 = false ∧ tablesB operands = true ∧ (hung.core 0).running = some threes ∧ (hung.core 0).resetting = false ∧
    (hung.core 0).runningSince + hung.settings.hanglimit ≤ hung.clock ∧ tablesB hung = true ∧ (resetting.core 0).resetting = true ∧ slabsOf resetting 0 = 1 ∧ tablesB resetting = true ∧
    ((resetting.core 0).ops.find? fun o => o.wave == 0) = some threes ∧ ((tget resetting.waves 0).any fun w => !w.ended) = true ∧
    ((tget resetting.convoys 0).any fun y => y.cores == [0] && decide (0 < y.card.tiles) && y.residence == .placed) = true := by decide +kernel
theorem test_selftest : leaves (.selfTestInjection 0 none) operands (fun t => (t.core 0).pattern == 1 && t.logs.errors.isEmpty) = true ∧
    leaves (.selfTestInjection 0 (some (2, false))) operands (fun t => (t.core 0).fenced == 0 && t.logs.errors.length == 1) = true ∧
    leaves (.selfTestInjection 0 (some (2, true))) operands (fun t => (t.core 0).fenced == 4 && t.logs.errors.length == 1) = true := by decide +kernel
theorem test_slabReset : leaves (.slabResetDone 0 [(0, 1, true)]) resetting (fun t => !(t.core 0).resetting && (t.core 0).running.isNone && (t.core 0).fenced == 2 && (t.crew 0).tiles.isEmpty &&
    (tget t.waves 0).any fun w => w.outstanding == 0 && w.heldReset == some 0x10000) = true := by decide +kernel
theorem test_hang : leaves (.matrixHang 0) hung (fun t => (t.core 0).resetting && t.logs.errors.length == 1) = true ∧
    leaves (.matrixHang 0) { hung with clock := 1048575 } (fun t => t.logs.errors.isEmpty) = true := by decide +kernel

/-! ### Groups, grants and scratch queues -/

/-- Bytes of the first crew's scratch. -/
def scratched (s : State) (o n v : Nat) : State :=
  { s with crews := tmod s.crews 0 fun y => { y with scratch := ((bytesOf n v).zipIdx).foldl (fun m e => tset 0 m (o + e.2) e.1) y.scratch } }

/-- A queue of 2^capl elements at 0x400 of own scratch, its ring at `ring`; s10 names it, s11 holds an element. -/
def queueing (head capl ring tail : Nat) : State :=
  withRegs (scratched (scratched (scratched (scratched base 0x400 4 head) 0x404 1 capl) 0x408 4 ring) 0x480 4 tail) [] [(10, 0xF100000000000400), (11, 0x55667788)] []

/-- The same queue, with two elements, in the second crew's scratch, whose windows let every access in. -/
def peerQueue : State :=
  withRegs { elsewhere with crews := tmod elsewhere.crews 1 fun y => { y with scratchSize := 0x700, windows := (List.range 14).map fun l => (l, 1), scratch := ((queueing 0 2 0x500 2).crew 0).scratch } } []
    [(10, 0xF000000001000400), (11, 0x55667788)] []

theorem witness_Groups : ([1, 15].all fun g => passesWith base (.gjoin g) { inTx := false } (fun _ => true) && passesWith base (.gleave g) { inTx := false } fun _ => true) = true := by decide +kernel
theorem test_gjoin : leavesWave (.gjoin 15) base (fun w => w.groups == 0x8001) = true ∧ leavesWave (.gleave 15) (base.modWave 0 fun w => { w with groups := 0x8001 }) (fun w => w.groups == 1) = true := by decide +kernel
theorem witness_Grants : passesWith base (.racq 2) {} (fun c => c.w.txn.depth == 0 && !c.w.grant) = true ∧ ((tget base.crews 0).any fun y => y.poolFree != 0) = true ∧
    passesWith (base.modWave 0 fun w => { w with grant := true }) (.racq 2) {} (fun c => c.w.grant) = true ∧
    passesWith (base.modWave 0 fun w => { w with grant := true }) .rrel { inTx := false } (fun c => c.w.grant) = true ∧
    passesWith base .rrel { inTx := false } (fun c => !c.w.grant) = true := by decide +kernel
theorem test_racq : leaves (.racq 2) base (fun t => (t.crew 0).poolFree == 0 && (tget t.waves 0).any fun w => w.preg 2 == 0xFFFFFFFF && w.grant) = true := by decide +kernel
theorem test_rrel : leaves .rrel (base.modWave 0 fun w => { w with grant := true }) (fun t => (t.crew 0).poolFree == 2) = true := by decide +kernel
theorem witness_Queues : ([(0, 2, 0x500, 0), (0xFFFFFFFE, 2, 0x500, 2), (0, 2, 0x500, 3), (0, 13, 0x500, 0), (0, 12, 0xFFFC, 1)].all fun q =>
      let s := queueing q.1 q.2.1 q.2.2.1 q.2.2.2
      bytesB s && tablesB s && passesWith s (.qpush 1 10 11) { inTx := false, onePath := true } (fun c => !streamHeld c 0 && !releaseWaits s c.key 0 && c.conv.card.crews == 1 &&
        decodeEa 0 (c.w.sreg 10) == .scratch 0 0x400 && s.poisoned.isEmpty) &&
      passesWith s (.qpop 1 10 11) { inTx := false, onePath := true } fun c => !releaseWaits s c.key 0) = true ∧
    ((List.range 512).all fun l => (windowCause (queueing 0 2 0x500 0) 0 0 0 l true).isNone) = true ∧
    (let b := ((queueing 0xFFFFFFFE 2 0x500 2).crew 0).scratch
     readNat b 0x400 4 = 0xFFFFFFFE ∧ readNat b 0x404 1 = 2 ∧ readNat b 0x408 4 = 0x500 ∧ readNat b 0x480 4 = 2) ∧
    (let s := peerQueue
     bytesB s && tablesB s && passesWith s (.qpush 1 10 11) { inTx := false, onePath := true } (fun c => !streamHeld c 0 && !releaseWaits s c.key 0 && c.conv.card.crews == 2 &&
       decodeEa 0 (c.w.sreg 10) == .scratch 1 0x400 && decide (c.w.remoteStores.toNat + 3 ≤ 0xFFFF) &&
       s.poisoned.isEmpty && (s.crew 1).scratchSize == 0x700 && (List.range 14).all fun l => (windowCause s 0 1 0 l true).isNone) &&
     passesWith s (.qpop 1 10 11) { inTx := false, onePath := true } fun c => !releaseWaits s c.key 0) = true := by decide +kernel
theorem test_peerQueue : leaves (.qpush 1 10 11) peerQueue (fun t => readNat (t.crew 1).scratch 0x508 4 == 0x55667788 && readNat (t.crew 1).scratch 0x480 4 == 3 &&
      (t.crew 0).scratch == (peerQueue.crew 0).scratch) = true ∧ leavesWave (.qpop 1 10 11) peerQueue (fun w => w.preg 1 == 0xFFFFFFFF) = true := by decide +kernel
theorem test_qpush : leaves (.qpush 1 10 11) (queueing 0 2 0x500 3) (fun t => readNat (t.crew 0).scratch 0x50C 4 == 0x55667788 && readNat (t.crew 0).scratch 0x480 4 == 4 &&
      (tget t.waves 0).any fun w => w.preg 1 == 0xFFFFFFFF) = true ∧
    leavesWave (.qpush 1 10 11) (queueing 0xFFFFFFFE 2 0x500 2) (fun w => w.preg 1 == 0) = true := by decide +kernel
theorem test_qpop : leaves (.qpop 1 10 11) (scratched (queueing 0xFFFFFFFF 2 0x500 2) 0x50C 4 0x12345678) (fun t => readNat (t.crew 0).scratch 0x400 4 == 0 &&
      (tget t.waves 0).any fun w => w.preg 1 == 0xFFFFFFFF && w.sreg 11 == 0x12345678) = true ∧
    leavesWave (.qpop 1 10 11) (queueing 2 2 0x500 2) (fun w => w.preg 1 == 0 && w.sreg 11 == 0x55667788) = true := by decide +kernel

/-! ### Arrivals -/

theorem witness_GridArrivals : ([1, 2].all fun n => passesWith (withRegs base [] [(7, n)] []) (.gridarr 30 7 9) { inTx := false, onePath := true } fun c =>
      !streamHeld c 0 && !releaseWaits base c.key 0 && !backsOut (cleanStack base (coreStack c.w.core) 3) (coreStack c.w.core) && keysFrom 0 (base.context c.conv.context).grid &&
      let a := c.conv.desc.gridPa.toNat + 128 * 30
      paPkg a == base.pkg && paRegion a != 3 && decide (a % 128 + 4 ≤ 128)) = true ∧ tablesB base = true ∧ bytesB (cleanStack base 0 3) = true := by decide +kernel
theorem test_gridarr : leaves (.gridarr 30 7 9) (withRegs base [] [(7, 1)] []) (fun t => peekNat t (128 * 30) 4 == 1 && (t.context 0).grid.isEmpty) = true ∧
    leaves (.gridarr 30 7 9) (withRegs base [] [(7, 2)] []) (fun t => peekNat t (128 * 30) 4 == 0 && (t.context 0).grid == [(30, 1)]) = true := by decide +kernel

/-- s10 names a barrier in own scratch, in coherent memory of the package, or in package 1; the barrier in scratch expects two. -/
def barriers : State :=
  withRegs { (scratched foreign 0x400 16 (2 + 2 ^ 32)) with regions := [(0, 1)], copies := coherent.copies, filters := coherent.filters } [] [(10, 0xF100000000000400), (11, 0x40000), (12, 0x40040000)] []

theorem witness_Arrivals : (([(10, 0), (11, 1), (12, 2)] : List (BitVec 6 × Nat)).all fun e =>
    passesWith barriers (.garrive 0 0 e.1 0 3 9) { inTx := false, onePath := true } (fun c => (arriveWait barriers c false 3).isNone) &&
    (match issueCtx barriers with
     | some c => (match resolve (cleanStack barriers (coreStack c.w.core) 1) c .atomic 16 true [(0, c.w.sreg e.1.toNat)] with
       | .ok s' [x] => !readsPoison s' 0 x.tgt && bytesB s' && (match x.tgt with
          | .scratch k _ => e.2 == 0 && k == 0 && (tget s'.crews 0).isSome
          | .mem pa _ => if e.2 == 1 then coherentHere s' pa && pa % 16 == 0 && canWriteB s' c x.tgt && !lineHeld s' pa 1
                         else e.2 == 2 && paPkg pa == 1 && !isLost barriers 1 && !leasedDirty s' [x]
          | _ => false)
       | _ => false)
     | none => false)) = true := by decide +kernel
theorem test_garrive : leaves (.garrive 0 0 10 0 3 9) barriers (fun t => readNat (t.crew 0).scratch 0x400 16 == 2 + 2 ^ 96) = true ∧
    leaves (.garrive 0 0 11 0 3 9) barriers (fun t => peekNat t 0x40000 16 == 9 + 2 ^ 32) = true := by decide +kernel

/-- A wave held at a joint instruction, alone in its group. -/
def alone (s : State) (i : Instr) (g : Nat) (f : State → Ctx → Bool) : Bool :=
  match exec i s with
  | .next z => (match tget z.waves 0 with
    | some w => (match memberCtx z 0 w with
      | some (x, i') => i' == i && x.key == 0 && tget z.waves x.key == some x.w && groupMembers z 0 g == [(0, x.w)] && memberIssued g x.w && !x.path.stepping && tablesB z && bytesB z && f z x
      | none => false)
    | none => false)
  | _ => false

theorem witness_JointArrivals : (([10, 11] : List (BitVec 6)).all fun b =>
    passesWith barriers (.garrive 1 1 b 0 3 9) { inTx := false, onePath := true, fields := fun c => c.inGroup 0 } (fun c => (arriveWait barriers c true 3).isNone) &&
    alone barriers (.garrive 1 1 b 0 3 9) 0 fun z x => match resolve z x .atomic 16 true [(0, x.w.sreg b.toNat)] with
      | .ok s' [y] => !readsPoison s' 0 y.tgt && bytesB s' && tablesB s' && (match y.tgt with
        | .scratch k _ => k == 0
        | .mem pa _ => coherentHere s' pa && pa % 16 == 0 && canWriteB s' x y.tgt && !lineHeld s' pa 1
        | _ => false)
      | _ => false) = true := by decide +kernel

/-! ### Cards and collectives -/

/-- A card of one wave in G1 at 0x40000, of `count` convoys, in own scratch at 0x400. -/
def carded (count bind : Nat) (s : State) : State :=
  withRegs (scratched s 0x400 64 (0x40000 + pack [(246, bind), (217, 1), (212, 1), (208, 1), (256, count)])) [] [(10, 0xF100000000000400)] []

/-- One core is bound. -/
def bound : State := { base with binding := [(0, 0xFFFFFFFF), (1, 0xFFFFFFFF), (2, 0xFFFFFFFF), (3, 0xFFFFFFFF)] }

/-- What JPOST's statement asks, with the status that follows. -/
def posts (s : State) (status : Nat) : Bool :=
  passesWith s (.jpost 10 1 9) { inTx := false, onePath := true } fun c =>
    let n := ownScratch s c (c.w.sreg 10) 64
    let s1 := cleanStack s (coreStack c.w.core) 3
    (firstCause s c [(c.w.sreg 10, 64, 64, .own)]).isNone && cardOk n &&
    status == (if neverFits s1 (cardOf n) (List.range 64) (cardOf n).count then 2
      else if c.conv.desc.cardQuota ≤ (s.disp.cards.filter fun e => e.2.context == c.conv.context).length then 1 else 0)

/-- The same, the context's one card being in the store already. -/
def quota (s : State) : State :=
  let x : StoredCard :=
    { launch := 1, context := 0, card := fetchCard, part := 0, queue := none, age := 0, held0 := false, held1 := false, failed0 := false, failed1 := false, next := 0, last := 1, ready := [],
      gate := [], chosenAt := none }
  { s with disp := { s.disp with nextCard := 1, cards := [(0, x)] } }

theorem witness_Posts : posts (carded 1 2 base) 2 = true ∧ posts (carded (2 ^ 24) 1 bound) 0 = true ∧ posts (quota (carded 1 1 bound)) 1 = true := by decide +kernel
theorem test_jpost : leaves (.jpost 10 1 9) (carded 3 1 bound) (fun t => t.disp.cards.length == 1 && t.disp.posted == 1 && (tget t.waves 0).any fun w => w.preg 1 == 0xFFFFFFFF && w.sreg 9 == 0) = true ∧
    leavesWave (.jpost 10 1 9) (quota (carded 3 1 bound)) (fun w => w.preg 1 == 0 && w.sreg 9 == 0x100000000) = true := by decide +kernel

/-- An all-reduce over packages 0 and 1 in the switch, and a broadcast from package 0, of 256 F32 bytes from 0x1000 to 0x2000 of own scratch. -/
def collective (kind flags sched : Nat) : State :=
  let a (n : Nat) : Nat := 0xF1 * 2 ^ 56 + n
  withRegs (scratched { base with settings := { base.settings with ringOrder := ⟨((List.range 128).map fun i => BitVec.ofNat 8 (if i < 2 then i else 0xFF)).toArray, by simp⟩ }
                                  waysides := base.waysides.setIfInBounds 0 { image := some [1], next := none } } 0x400 128
    (pack [(0, a 0x1000), (64, a 0x2000), (128, a 0x600), (256, 3), (384, 256), (416, 256), (448, 77), (480, kind), (504, flags), (520, sched), (536, 1)])) [] [(10, 0xF100000000000400)] []

theorem witness_Collectives : (([(0, 4, 3), (3, 0, 1)] : List (Nat × Nat × Nat)).all fun e =>
    let s := collective e.1 e.2.1 e.2.2
    passesWith s (.coll 10 3 0) { inTx := false, onePath := true, fields := fun c => c.inGroup 0 } (fun c => (firstCause s c [(c.w.sreg 10, 128, 128, .own)]).isNone) &&
    alone s (.coll 10 3 0) 0 fun z x =>
      let n := ownScratch z x (x.w.sreg 10) 128
      let k := collOf x n 3
      z.poisoned.isEmpty && (collTrap z x n 3 (wordOf (.coll 10 3 0))).isNone && !imageAwaited z k && !sessionsFull z k (bits n 520 8) && (k.tile.all fun t => !x.w.tldTiles.getLsbD t) && (match collPending z k with
        | .ok s' => scheduleOk s' k (bits n 520 8) (bits n 506 1 == 1) && tget s'.waves x.key == some x.w && tget s'.convoys 0 == some x.conv
        | _ => false)) = true := by decide +kernel

/-! ### Copies -/

/-- A descriptor at 0x400 of own scratch: `len` bytes from 0x1000 to `dst` with a stamp of 5 at 0x3000 and a barrier at 0x3010. -/
def copying (src dst len mask : Nat) : State :=
  let a (n : Nat) : Nat := 0xF1 * 2 ^ 56 + n
  withRegs (scratched base 0x400 64 (pack [(0, src), (64, a dst), (128, len), (160, 5), (192, a 0x3000), (256, a 0x3010), (328, mask)])) []
    [(10, 0xF100000000000400), (11, 0xF100000000001000), (12, 0x0002000700000005), (13, 0xF100000000003000), (14, 0x00028107FFFFFFFF)] []

theorem witness_CopyIssue : ([false, true].all fun multi =>
    let s := copying (if multi then 0x41000 else 0xF1 * 2 ^ 56 + 0x1000) 0x2000 64 multi.toNat
    passesWith s (if multi then .cpym 10 3 2 9 else .cpy 10 3 2 9) { kinds := 0x10, inTx := false } fun c =>
      let n := ownScratch s c (c.w.sreg 10) 64
      (firstCause s c [(c.w.sreg 10, 64, 64, .own)]).isNone && copyFieldsOk n multi c.conv.card.crews && (firstCause s c (copyAddrs n multi)).isNone &&
      decide ((s.core c.w.core).chain.length < 64) && tablesB s && bytesB s && match barrierAdd s c.agent 2 (bits n 320 2) (BitVec.ofNat 64 (bits n 256 64)) (bits n 128 32) with
        | .ok _ => true | _ => false) = true := by decide +kernel
theorem witness_RowIssue : (([12, 14] : List (BitVec 6)).all fun h => passesWith (copying 0 0 0 0) (.vsend 11 h 13) { inTx := false } fun c =>
    let n := (c.w.sreg h.toNat).toNat
    bits n 48 16 == 2 && (sendCause (copying 0 0 0 0) c (c.w.sreg 11) (bits n 48 16 * (if bits n 47 1 = 1 then 4 else 2)) (c.w.sreg 13)).isNone &&
    decide (((copying 0 0 0 0).core c.w.core).chain.length < 64)) = true := by decide +kernel
theorem test_cpy : leaves (.cpy 10 3 2 9) (copying (0xF1 * 2 ^ 56 + 0x1000) 0x2000 64 0) (fun t => (t.core 0).chain.length == 1 && readNat (t.crew 0).scratch 0x3018 4 == 64 &&
    (tget t.waves 0).any fun w => w.sreg 9 == 1) = true := by decide +kernel

/-- A command at the head of core 0's chain. -/
def command (x : CopyCmd) : State := (scratched base 0x1000 4 0x11223344).setCore 0 { Core.initial with chain := [x], accepted := 1 }

/-- A copy of 4 bytes from 0x1000 to 0x2000 of own scratch, and a row of two F32 elements for a slot of package `peer`. -/
def copyOne : CopyCmd :=
  { kind := 0, wave := 0, convoy := 0, crew := 0, context := 0, pc := 0x10000, scope := 3, stream := 2, src := 0xF100000000001000, dst := 0xF100000000002000, len := 4, stampAddr := 0,
    stampVal := 5, barrier := 0, cls := 0, mask := 0, row := none, peer := 0, done := 0, moved := false, waiting := false, conflict := [] }
def rowOne (peer : Nat) : CopyCmd := { copyOne with kind := 2, dst := BitVec.ofNat 64 (2 ^ 49 + 2 ^ 47 + peer * 2 ^ 40 + 7), peer := peer, len := 8 }

/-- `ScratchOpen` for an address of own scratch. -/
def openB (s : State) (ea : Dword) (n off : Nat) (store : Bool) : Bool :=
  decodeEa 0 ea == .scratch 0 off && decide (off + n ≤ (s.crew 0).scratchSize) && decide (off + n ≤ 2 ^ 24) && (List.range 512).all fun l => (windowCause s 0 0 0 l store).isNone

theorem witness_CopyMoves : ((tget (command copyOne).convoys 0).any fun v => v.card.crews == 1) = true ∧ copyReady (command copyOne) copyOne = true ∧ tablesB (command copyOne) = true ∧
    bytesB (command copyOne) = true ∧ openB (command copyOne) copyOne.src 4 0x1000 false = true ∧ openB (command copyOne) copyOne.dst 4 0x2000 true = true ∧ backsOut (cleanStack (command copyOne) 0 3) 0 = false ∧
    ([0, 1].all fun p => let s := { command (rowOne p) with settings := (collective 0 0 0).settings }
      copyReady s (rowOne p) && !isLost s p && inPod s p && (tget s.convoys 0).isSome) = true := by decide +kernel
theorem test_copy_moves : leaves (.copyCommandStart 0 []) (command copyOne) (fun t => readNat (t.crew 0).scratch 0x2000 4 == 0x11223344) = true ∧
    leaves (.copyCommandStart 0 []) { command (rowOne 1) with settings := (collective 0 0 0).settings } (fun t => (t.fabric.sent.map fun p => p.packet.payload) == [.row 7 0 2 true 0 [0x11223344, 0]]) = true := by
  decide +kernel

/-- The copy has been made, with a stamp or with a barrier that has 4 bytes pending and expects one arrival, which has come. -/
def stamped : CopyCmd := { copyOne with moved := true, done := 4, stampAddr := 0xF100000000003000 }
def pending : CopyCmd := { copyOne with moved := true, done := 4, barrier := 0xF100000000003010 }
def ending (x : CopyCmd) : State := scratched (command x) 0x3010 16 (pack [(0, 1), (32, 1), (64, 4)])

theorem witness_CopyEnds : ([stamped, pending].all fun x => !agentPackets (ending x) 0 x.pc && (tget (ending x).convoys 0).isSome && tablesB (ending x) && bytesB (ending x) && !backsOut (cleanStack (ending x) 0 x.scope) 0) = true ∧
    openB (ending stamped) stamped.stampAddr 4 0x3000 true = true ∧ openB (ending pending) pending.barrier 16 0x3010 true = true := by decide +kernel
theorem test_copy_ends : leaves (.copyCompletion 0 0) (ending stamped) (fun t => readNat (t.crew 0).scratch 0x3000 4 == 5 && (t.core 0).completed == 1) = true ∧
    leaves (.copyCompletion 0 0) (ending pending) (fun t => readNat (t.crew 0).scratch 0x3010 16 == 1 + 2 ^ 96) = true := by decide +kernel

/-! ### Coherence -/

/-- Line 0x800 of a hardware-coherent region, with a filter entry and a request that its home serves. -/
def homed (f : Filter) (cs : List (Nat × Copy)) (h : HomeLine) : State :=
  { base with regions := [(0, 1)], filters := [(0x800, f)], home := [(0x800, h)], copies := cs.map fun e => (copyKey 0x800 e.1, e.2) }

/-- A copy in a state with one byte known. -/
def copyIn (state : Nat) : Copy := { state := state, bytes := [(0, 9)], dirty := 0, lease := none }

/-- Stacks 0 to 3 but the line's home. -/
def others : List Nat := (List.range 4).filter fun k => k != lineHome 0x800
def s0 : Nat := others.getD 0 0
def s1 : Nat := others.getD 1 0
def s2 : Nat := others.getD 2 0
def bits2 (l : List Nat) : BitVec 4 := l.foldl (fun m k => m ||| (1#4 <<< k)) 0

/-- `HomeIdle`. -/
def idleB (s : State) (req : Requester) : Bool :=
  requestOk s 0x800 req && (s.homeLine 0x800).openReq.isNone && (s.homeLine 0x800).waiting.isEmpty && !requestHeld s 0x800 req &&
  ([0, 1].all fun k => !leaseBlocks s 0x800 k req) && (match req with | .stack k => k == lineHome 0x800 || (filterVictim s 0x800).isNone | _ => true) && tablesB s

/-- `NothingWaits` and `RoomFor`. -/
def quietB (s : State) : Bool := s.home.all fun e => e.2.waiting.isEmpty
def roomB (s : State) (line k : Nat) : Bool :=
  let home := isHome s k (128 * line)
  decide ((heldLines s k home).length < (if home then Config.l2Lines else Config.rdcLines))

/-- No copy; one stack owns the line; two stacks share it. -/
def nobody : State := homed { holders := 0, owner := none, order := 0 } [] HomeLine.idle
def owned : State := homed { holders := 1#4 <<< s0, owner := some s0, order := 0 } [(s0, copyIn 3)] HomeLine.idle
def shared : State := homed { holders := bits2 [s0, s1], owner := none, order := 0 } [(s0, copyIn 0), (s1, copyIn 0)] HomeLine.idle

theorem witness_Requests : ([nobody, owned, shared].all fun s => [Requester.stack s0, .stack s2, .stack (lineHome 0x800), .package 1 0].all (idleB s)) = true ∧
    (copyOf shared 0x800 s0).isSome = true ∧ others.length = 3 := by decide +kernel
theorem test_rds : leaves (.rds 0x800 (.stack s2)) nobody (fun t => (t.homeLine 0x800).openReq.any fun r => r.granted == 1 && r.data.isSome) = true ∧
    leaves (.rds 0x800 (.stack s2)) owned (fun t => (t.homeLine 0x800).openReq.any fun r => r.forward == some s0 && r.granted == 0) = true := by decide +kernel
theorem test_rdx : leaves (.rdx 0x800 (.stack s2)) shared (fun t => (t.homeLine 0x800).openReq.any fun r => r.orders == bits2 [s0, s1] && !r.complete) = true := by decide +kernel
theorem test_upg : leaves (.upg 0x800 (.stack s0)) shared (fun t => (t.homeLine 0x800).openReq.any fun r => r.orders == bits2 [s1] && r.kind == 2 && r.delivered) = true := by decide +kernel

/-- A request being served for stack `s2`. -/
def opened (kind : Nat) (req : Requester) (orders acks : BitVec 4) (forward : Option Nat) (data : Option (Table Byte)) (delivered complete : Bool) : OpenReq :=
  { kind := kind, req := req, orders := orders, acks := acks, forward := forward, granted := if kind = 0 then 0 else 3, data := data, delivered := delivered, complete := complete }
def serving (r : OpenReq) (cs : List (Nat × Copy)) (wb : List (Nat × Table Byte × Bool)) : State :=
  homed { holders := bits2 [s0, s1], owner := some s0, order := 0 } cs { openReq := some r, waiting := [], writeback := wb }

theorem witness_Queueing : (let s := serving (opened 0 (.stack s2) 0 0 none none false true) [] []
    requestOk s 0x800 (.stack s1) = true ∧ ([0, 1].all fun k => !leaseBlocks s 0x800 k (.stack s1)) = true ∧ tablesB s = true) := by decide +kernel
theorem witness_Holders : (let b := bits2 [s0]
    let s (kind : Nat) (f : Option Nat) := serving (opened kind (.stack s2) b b f none false false) [(s0, copyIn 3)] []
    ([(0, some s0), (1, some s0), (1, none), (2, none), (3, none)].all fun e => (((s e.1 e.2).homeLine 0x800).openReq.any fun r => r.orders.getLsbD s0 && r.kind == e.1 && r.forward == e.2) &&
      (copyOf (s e.1 e.2) 0x800 s0).isSome && tablesB (s e.1 e.2)) = true) := by decide +kernel
theorem test_holders : leaves (.fwds 0x800 s0) (serving (opened 0 (.stack s2) (bits2 [s0]) (bits2 [s0]) (some s0) none false true) [(s0, copyIn 3)] [])
      (fun t => (copyOf t 0x800 s0).any fun c => c.state == 2) = true ∧
    leaves (.inv 0x800 s0) (serving (opened 1 (.stack s2) (bits2 [s0]) (bits2 [s0]) none none false false) [(s0, copyIn 0)] []) (fun t => (copyOf t 0x800 s0).isNone) = true := by decide +kernel
theorem test_fwdx : leaves (.fwdx 0x800 s0) (serving (opened 1 (.stack s2) (bits2 [s0]) (bits2 [s0]) (some s0) none false false) [(s0, copyIn 3)] [])
      (fun t => (copyOf t 0x800 s0).isNone && (t.homeLine 0x800).openReq.any fun r => r.data == some [(0, 9)]) = true := by decide +kernel
theorem test_binv : leaves (.binv 0x800 s0) (serving (opened 3 (.stack s2) (bits2 [s0]) (bits2 [s0]) none none false false) [(s0, copyIn 3)] [])
      (fun t => (t.homeLine 0x800).writeback == [(s0, [(0, 9)], true)]) = true := by decide +kernel
theorem witness_Messages : (let d : Option (Table Byte) := some [(0, 9)]
    let k := Requester.stack s2
    ([(opened 0 k 0 0 none d false true, none), (opened 1 k 0 0 none d false false, none), (opened 1 k 0 0 none d true false, none),
      (opened 2 k 0 0 none none true false, some (copyIn 0)), (opened 0 (.package 1 0) 0 0 none d false true, none), (opened 1 (.package 1 0) 0 0 none d false true, none)] :
        List (OpenReq × Option Copy)).all fun e =>
      let s := serving e.1 (e.2.toList.map fun c => (s2, c)) []
      (s.homeLine 0x800).openReq == some e.1 && copyOf s 0x800 s2 == e.2 && quietB s && roomB s 0x800 s2 && tablesB s && s.leases.isEmpty && coherentHere s (128 * 0x800)) = true := by
  decide +kernel
theorem test_data : leaves (.data 0x800 (.stack s2) none) (serving (opened 0 (.stack s2) 0 0 none (some [(0, 9)]) false true) [] [])
      (fun t => (copyOf t 0x800 s2).any fun c => c.state == 0 && byteAt c.bytes 0 == 9) = true ∧
    leaves (.data 0x800 (.package 1) none) (serving (opened 0 (.package 1) 0 0 none (some [(0, 9)]) false true) [] []) (fun t => t.leases.length == 1) = true := by decide +kernel
theorem test_cmp : leaves (.cmp 0x800 (.stack s2)) (serving (opened 1 (.stack s2) 0 0 none (some [(0, 9)]) true false) [] [])
      (fun t => (copyOf t 0x800 s2).any fun c => c.state == 3 && c.dirty == BitVec.allOnes 128) = true := by decide +kernel

/-- A wave of stack 0 has asked package 1 for its line: to read it, or with a store. -/
def asking (write : Bool) : State :=
  if write then { base with
    modes := [(128 * away / 2 ^ 26, true)]
    fabric := { base.fabric with
      sent := [{ packet := { packet 0 with payload := .store [(128 * away + 3, 7)] }, stage := 0, sentAt := 6, backoff := 0, backing := false, wave := some 0, pc := 0, loss := none }] } }
  else { base with loads := [(3, { wave := 0, path := 0, pc := 0, stream := 0, package := 1, lanes := 1, addrs := [], dest := .vector 7 false 1, since := 5, acquire := none,
                                   spans := [(128 * away, 4)] })] }

theorem witness_Leased : paPkg (128 * away) = 1 ∧ base.pkg = 0 ∧ hasMode (128 * away) = true ∧ ([false, true].all fun w => let s := asking w
    (copyOf s away 0).isNone && tablesB s && askedAt s 0 away w == some (if w then 6 else 5) && roomB s away 0 && (!w || lineCoherent s (128 * away))) = true := by decide +kernel
theorem test_lease : ([false, true].all fun w => leaves (.data away (.stack 0) (some (w, 50, [1, 2]))) (asking w)
    (fun t => (copyOf t away 0).any fun c => c.state == w.toNat && c.lease == some (if w then (6, 50) else (5, 50)) && byteAt c.bytes 1 == 2)) = true ∧
    leaves (.data away (.stack 1) (some (false, 50, [1, 2]))) (asking false) (fun t => (copyOf t away 1).isNone) = true := by decide +kernel
/-- The filter's entry of the line that stack `s0` alone holds, evicted or written back. -/
def lastHolder (r : Option OpenReq) (wb : List (Nat × Table Byte × Bool)) : State :=
  homed { holders := bits2 [s0], owner := some s0, order := 0 } [] { openReq := r, waiting := [], writeback := wb }

theorem witness_WriteBacks : ([[(s0, [(0, 9)], true)], [(s0, [(0, 9)], false)], []].all fun wb => [opened 1 (.stack s2) 0 (bits2 [s1]) none none false false,
      opened 2 (.stack s0) 0 (bits2 [s1]) none none true false].all fun r =>
    let s := serving r [(s0, copyIn 0)] wb
    (s.homeLine 0x800).openReq == some r && (s.homeLine 0x800).writeback == wb && roomB s 0x800 (lineHome 0x800) && tablesB s && r.acks.getLsbD s1 && !r.orders.getLsbD s1) = true ∧
    (let s := lastHolder none [(s0, [(0, 9)], true)]
     (s.homeLine 0x800).openReq.isNone && (s.homeLine 0x800).waiting.isEmpty && (filterOf s 0x800).holders &&& ~~~(1#4 <<< s0) == 0 && s.leases.isEmpty && tablesB s && roomB s 0x800 (lineHome 0x800)) = true ∧
    (let s := lastHolder (some (opened 3 (.stack s2) 0 (bits2 [s0]) none none true true)) []
     quietB s && tablesB s && roomB s 0x800 (lineHome 0x800) && (s.homeLine 0x800).writeback.isEmpty && ((s.homeLine 0x800).openReq.any fun r => r.acks == 1#4 <<< s0)) = true := by decide +kernel
theorem test_wb : leaves (.wb 0x800 s0) (serving (opened 1 (.stack s2) 0 (bits2 [s1]) none none false false) [] [(s0, [(0, 9)], true)])
      (fun t => (t.homeLine 0x800).writeback.isEmpty && (copyOf t 0x800 (lineHome 0x800)).any fun c => c.state == 2) = true ∧
    leaves (.wb 0x800 s0) (lastHolder none [(s0, [(0, 9)], true)]) (fun t => (copyOf t 0x800 (lineHome 0x800)).any fun c => c.state == 3) = true := by decide +kernel
theorem test_ack : leaves (.ack 0x800 s1) (serving (opened 1 (.stack s2) 0 (bits2 [s1]) none none false false) [] []) (fun t => (t.homeLine 0x800).openReq.any fun r => r.acks == 0) = true ∧
    leaves (.ack 0x800 s0) (lastHolder (some (opened 3 (.stack s2) 0 (bits2 [s0]) none none true true)) []) (fun t => (t.homeLine 0x800).openReq.isNone && (tget t.filters 0x800).isNone) = true := by
  decide +kernel

/-! ### Leases and regions -/

/-- Stack 1 has a leased copy of the line of package 1, asked for at time 0 with a term of 50 µs; the time is `clock`. -/
def leasing (clock state : Nat) : State := { base with clock := clock, copies := [(copyKey away 1, { state := state, bytes := [(3, 7)], dirty := 8, lease := some (0, 50) })] }

/-- The same line is one that the hardware keeps coherent. -/
def hardLeasing (clock state : Nat) : State := { leasing clock state with modes := [(128 * away / 2 ^ 26, true)] }

/-- `renewalDue` and `holderDue`. -/
def renewalB (s : State) (c : Copy) : Bool := c.lease.any fun x =>
  decide (x.1 + min (3 * (x.2 * Config.cyclesPerUs) / 4) (x.2 * Config.cyclesPerUs - 4 * Config.cyclesPerUs) ≤ s.clock) && decide (s.clock < x.1 + (x.2 * Config.cyclesPerUs - 2 * Config.cyclesPerUs))
def holderB (s : State) (c : Copy) : Bool := c.lease.any fun x => decide (x.1 + (x.2 * Config.cyclesPerUs - 2 * Config.cyclesPerUs) ≤ s.clock)

theorem witness_LeaseHolder : (let T := 50 * Config.cyclesPerUs
    ([leasing, hardLeasing].all fun f => [0, 1].all fun st =>
      tablesB (f 0 st) && (copyOf (f 0 st) away 1).any (fun c => c.lease == some (0, 50) && c.state == st) && lineCoherent (hardLeasing 0 st) (128 * away) && !lineCoherent (leasing 0 st) (128 * away) &&
      ((f (3 * T / 4) st).copies.all fun e => renewalB (f (3 * T / 4) st) e.2) && ((f (3 * T / 4 - 1) st).copies.all fun e => !renewalB (f (3 * T / 4 - 1) st) e.2) &&
      ((f (48 * Config.cyclesPerUs) st).copies.all fun e => holderB (f (48 * Config.cyclesPerUs) st) e.2) &&
      (f (48 * Config.cyclesPerUs - 1) st).copies.all fun e => !holderB (f (48 * Config.cyclesPerUs - 1) st) e.2) = true) ∧ paPkg (128 * away) = 1 ∧ base.pkg = 0 := by decide +kernel
theorem test_leaseRenewal : leaves .leaseRenewal (leasing (3 * (50 * Config.cyclesPerUs) / 4) 0) (fun t => t.fabric.leaseMail.map (fun m => (m.kind, m.lines)) == [(0, [away])] &&
      (copyOf t away 1).any fun c => c.lease == some (3 * (50 * Config.cyclesPerUs) / 4, 50)) = true ∧
    leaves .leaseRenewal (leasing (3 * (50 * Config.cyclesPerUs) / 4 - 1) 0) (fun t => t.fabric.leaseMail.isEmpty) = true := by decide +kernel
theorem test_leaseHolderExpiry : leaves .leaseHolderExpiry (leasing (48 * Config.cyclesPerUs) 0) (fun t => (copyOf t away 1).isNone && t.fabric.sent.map (·.packet.payload) == [.store [(128 * away + 3, 7)]]) = true ∧
    leaves .leaseHolderExpiry (hardLeasing (48 * Config.cyclesPerUs) 1) (fun t => (copyOf t away 1).isNone && t.fabric.sent.isEmpty) = true ∧
    leaves .leaseHolderExpiry (leasing (48 * Config.cyclesPerUs - 1) 1) (fun t => (copyOf t away 1).isSome) = true := by decide +kernel
theorem test_leaseRecall : leaves (.leaseRecall 1 away) (hardLeasing 0 1) (fun t => (copyOf t away 1).isNone && t.fabric.leaseMail.map (fun m => (m.kind, m.dirty)) == [(2, [(3, 7)])]) = true ∧
    leaves (.inv away 1) (leasing 0 0) (fun t => (copyOf t away 1).isNone && t.fabric.leaseMail.map (fun m => (m.kind, m.dirty)) == [(2, [])] &&
      t.fabric.sent.map (·.packet.payload) == [.store [(128 * away + 3, 7)]]) = true := by decide +kernel

/-- Packages 1 and 2 hold leases of line 0x820 of this package until times 10 and 20; the time is `clock`. -/
def leased (write : Bool) (clock : Nat) : State := { base with clock := clock, leases := [(0x820, { write := write, holders := [(1, 10), (2, 20)] })] }

theorem witness_LeaseHome : ([true, false].all fun b => let s := leased b 10
      (tget s.leases 0x820).isSome && tablesB s && bytesB s && quietB s && s.switches.isEmpty && dueLease s == some (0x820, 1, b) && dueLease (leased b 9) == none &&
      isLocal s (128 * 0x820)) = true ∧ hasMode (128 * 0x820) = true ∧ regionNumber (128 * 0x820) = 0 := by decide +kernel
theorem test_renewed : leaves (.leaseRenewal (some (2, [0x820]))) (leased false 10) (fun t =>
      (tget t.leases 0x820).any fun l => l.holders == [(1, 10), (2, 10 + base.settings.leaseterm * Config.cyclesPerUs)]) = true ∧
    leaves (.leaseRenewal (some (1, [0x820]))) (leased false 10) (fun t => (tget t.leases 0x820).any fun l => l.holders == [(1, 10), (2, 20)]) = true := by decide +kernel
theorem test_leaseHomeExpiry : leaves .leaseHomeExpiry (leased true 10) (fun t => (tget t.leases 0x820).any (fun l => l.holders == [(2, 20)]) && regionWord t 0 == 0x1014) = true ∧
    leaves .leaseHomeExpiry (leased false 10) (fun t => (tget t.leases 0x820).any (fun l => l.holders == [(2, 20)]) && regionWord t 0 == 0) = true := by decide +kernel
theorem test_leaseRelease : leaves (.leaseRelease 0x820 1 [(5, 6)] true) (leased true 10) (fun t => readByte t (128 * 0x820 + 5) == 6 && regionWord t 0 == 0 && t.poisoned == [0x820]) = true ∧
    leaves (.leaseRelease 0x820 3 [(5, 6)]) (leased true 10) (fun t => readByte t (128 * 0x820 + 5) == 0) = true := by decide +kernel

/-- Region 0 is being switched; this package waits for the write-backs of packages 1 and 2, and has those of 1. -/
def switching (mode : Bool) (ended : List Nat) : State :=
  { base with regions := [(0, 8)], switches := [(0, { milestone := 5, mode := mode, collected := [(5, [(0x41000, 7)])], ended := ended })]
              settings := { base.settings with ringOrder := ⟨((List.range 128).map fun i => BitVec.ofNat 8 (if i < 3 then i else 0xFF)).toArray, by simp⟩ } }

theorem witness_Switch : ([true, false].all fun m => [[], [1]].all fun l => let s := switching m l
      (tget s.switches 0).isSome && tablesB s && bytesB s && quietB s && !s.fabric.lost.contains 2 && !l.contains 2 && (writeLeases s (regionGranule s 0)).isEmpty &&
      !(regionWord s 0).getLsbD 0 && isSoftware s 0x41000) = true ∧
    livePeers (switching true []) = [1, 2] ∧ (switching true []).pkg = 0 := by decide +kernel
theorem test_regionStatusClear : leaves (.regionStatusClear 0 6) { base with regions := [(0, 0x1017)] } (fun t => regionWord t 0 == 0x1011) = true := by decide +kernel
theorem test_regionWriteback : leaves (.regionWriteback 0 9 5 [(0x41000, 8)] true) (switching true [1]) (fun t => regionWord t 0 == 3 && (tget t.switches 0).isNone && readByte t 0x41000 == 8) = true ∧
    leaves (.regionWriteback 0 9 5 [(0x41000, 8)] true) (switching false [1]) (fun t => regionWord t 0 == 2 && readByte t 0x41000 == 8) = true ∧
    leaves (.regionWriteback 0 9 4 [(0x41000, 8)] true) (switching false [1]) (fun t => regionWord t 0 == 8) = true := by decide +kernel

/-! ### Peer scratch and page misses -/

/-- A store of two bytes to offset 0x40 of the second crew's scratch is on its way, or has arrived. -/
def peering (arrived : Bool) (window : Byte) : State :=
  { (elsewhere.modWave 0 fun w => { w with remoteStores := 1 }) with
    crews := tmod elsewhere.crews 1 fun y => { y with windows := [(0, window)] }
    scratchOps := [(4, { wave := 0, slot := 0, pc := 0x10000, crew := 0, target := 1, stream := 0, op := 0, width := 2, float := false, writes := [(0, 0x40, 0x3456)], arrived := arrived })] }

theorem witness_PeerScratch : ([0, 1].all fun b => (tget (peering false b).scratchOps 4).isSome && (tget (peering false b).convoys 0).isSome && tablesB (peering false b) && bytesB (peering false b) &&
      (tget (peering false b).crews 1).isSome && (tget (peering false b).scratchOps 4).any fun x => !arrivesLater (peering false b) 4 x) = true ∧
    ((peering true 0).scratchOps.find? fun e => e.2.arrived).isSome = true ∧ tablesB (peering true 0) = true ∧
    (windowCause (peering false 0) 0 1 0 0 true).isSome = true ∧ windowCause (peering false 1) 0 1 0 0 true = none := by decide +kernel
theorem test_scratchArrival : leaves (.scratchAccessArrival 4) (peering false 1) (fun t => readNat (t.crew 1).scratch 0x40 2 == 0x3456 && t.logs.reports.isEmpty) = true ∧
    leaves (.scratchAccessArrival 4) (peering false 0) (fun t => readNat (t.crew 1).scratch 0x40 2 == 0 && t.logs.reports.length == 1) = true := by decide +kernel
theorem test_remoteStoreAck : leaves .remoteStoreAck (peering true 0) (fun t => t.scratchOps.isEmpty && (tget t.waves 0).any fun w => w.remoteStores == 0) = true := by decide +kernel

/-- The address 0x80000000 is on no page. Its page has an entry in the fault buffer of stack 0, or none. -/
def missing (l : Table FaultEntry) : State := { base with perStack := base.perStack.setIfInBounds 0 { Stack.initial with faults := l } }

theorem witness_Misses : ([[], [(3, { context := 0, vpage := 0x8000, kind := 1, waiters := 1 })]].all fun l => let s := missing l
      walkFrom s 0x80000000 walkLevels (s.context 0).desc.root.toNat == .absent && tablesB s && keysFrom 0 (s.stack 0).faults && decide (l.length < (s.context 0).desc.faultQuota)) = true := by
  decide +kernel
theorem test_miss : leaves (.secondLevelTlbMiss 0 0 0x80001234 1 none) (missing []) (fun t => ((t.stack 0).faults.map (·.2)) == [{ context := 0, vpage := 0x8000, kind := 1, waiters := 1 }]) = true ∧
    leaves (.secondLevelTlbMiss 0 0 0x80001234 1 none) (missing [(3, { context := 0, vpage := 0x8000, kind := 1, waiters := 1 })])
      (fun t => ((t.stack 0).faults.map fun e => e.2.waiters) == [2]) = true := by decide +kernel
theorem witness_Blocking : ((tget (withDiv base fun d => d.setPath 0 { d.path 0 with hold := .wait 7 0 0 }).waves 0).any fun w => match (w.div.path 0).hold with
    | .wait 7 _ _ => true | _ => false) = true := by decide +kernel
theorem test_blocking : leavesWave .remoteLoadBlocking { (withDiv base fun d => d.setPath 0 { d.path 0 with hold := .wait 7 0 0 }) with clock := 2 * Config.cyclesPerUs + 1 }
    (fun w => (w.div.path 0).waitedLong) = true := by decide +kernel

/-! ### The fabric -/

/-- Port 0 of package 0 faces package 1, port 7 package 8; packages 0 to 9 are in the pod. -/
def podded (s : State) : State :=
  { s with settings := { s.settings with tapEn := true, ringOrder := ⟨((List.range 128).map fun i => BitVec.ofNat 8 (if i < 10 then i else 0xFF)).toArray, by simp⟩ } }

/-- A flit to a package. -/
def flit (dst hops : Nat) : Flit := { dst := dst, cls := 0, hops := hops, tag := 4 }

/-- `FirstAtOutput`. -/
def firstB (a b : Flit × Nat) : Bool := (a.1.cls == 0 && b.1.cls != 0) || (a.1.cls == b.1.cls && (decide (b.1.hops < a.1.hops) || (a.1.hops == b.1.hops && decide (a.2 < b.2))))

theorem witness_Flits : tablesB (podded base) = true ∧ ([1, 8, 9].all fun d => !isLost (podded base) d && (minimalPorts (podded base) d).any fun p => decide (p < 24) && (0x81#24).getLsbD p && portUp (podded base) p) = true ∧
    ((minimalPorts (podded base) 1).all fun p => !(0x80#24).getLsbD p || !portUp (podded base) p) = true ∧ portUp (podded base) 7 = true ∧
    isLost { podded base with fabric := { base.fabric with lost := [1] } } 1 = true ∧
    ([((flit 1 0, 3), ({ flit 8 9 with cls := 1 }, 2)), ((flit 1 2, 3), (flit 1 1, 2)), ((flit 1 2, 2), (flit 8 2, 3))].all fun e => firstB e.1 e.2) = true := by decide +kernel
theorem test_flit : leaves (.flitRoute (flit 0 14) 3 0x81) (podded base) (fun t => t.fabric.routed == [(flit 0 14, 24)] && t.fabric.ingress == [flit 0 14]) = true ∧
    leaves (.flitRoute (flit 1 15) 3 0x81) (podded base) (fun t => t.fabric.routed == []) = true ∧
    nextFlit (podded base) [0, 7] [(flit 1 1, 2), (flit 1 5, 3), ({ flit 1 9 with cls := 1 }, 1)] = some (flit 1 5, 3) := by decide +kernel

/-- A packet from package 1 to this one, and packets of this package that have been sent or have arrived. -/
def incoming (payload : Payload) (crc : Bool) : Packet :=
  { tag := 7, src := 1, dst := 0, context := 0, stream := 2, cls := 0, seq := 0, ordered := true, horizon := 0, payload := payload, crcOk := crc }
/-- The flits of a packet have come to its package's ingress. -/
def withFlits (p : Packet) (s : State) : State := { s with fabric := { s.fabric with ingress := flitsOf p } }
def sentOne (stage : Nat) (backing : Bool) : SentPacket :=
  { packet := { (incoming (.store []) true) with src := 0, dst := 1 }, stage := stage, sentAt := 0, backoff := 4, backing := backing, wave := none, pc := 0, loss := none }
def sentState (stage : Nat) (backing : Bool) : State := { base with clock := 4 * Config.cyclesPerUs, fabric := { base.fabric with sent := [sentOne stage backing] } }
def arrived (payload : Payload) : State := { base with fabric := { base.fabric with arrivals := [{ packet := incoming payload true, stamp := 0 }], arrived := [(1, 7)] } }

theorem witness_Packets : (incoming (.store []) true).dst = base.pkg ∧ isLost base 1 = false ∧ (sentState 0 false).fabric.sent = [sentOne 0 false] ∧ flowBehind (sentState 1 false) (sentOne 1 false) = false ∧
    ([Payload.store [(0x41000, 5), (0x41001, 6)], .atomic 0 4 false [(0x41000, 5, 0)]].all fun p =>
      let s := arrived p
      s.fabric.arrivals.length == 1 && (s.fabric.arrivals.all fun a => mayCommit s a) && bytesB s && tablesB s && ownAddr s 0x41000 && ownAddr s 0x41001) = true ∧
    ([Payload.store [], .store [(0x41000, 5)]].all fun p => reassembled (withFlits (incoming p true) base) (incoming p true) && !reassembled base (incoming p true) && !chunkRefused base (incoming p true)) = true ∧
    chunkRefused { base with sessions := [(6, { op := 0, fmt := 0, rsxn := 1, inputs := 3, output := 25, perChunk := 1, chunks := (List.range 64).map fun i => (i, []), began := [], collective := 5 })] }
      (incoming (.chunk 6 64 0 [1] 0) true) = true := by decide +kernel
theorem test_arrival : leaves (.packetArrival (incoming (.store []) false)) (withFlits (incoming (.store []) false) base) (fun t => t.fabric.replies == [(1, 7, 1)] && t.fabric.arrivals.isEmpty) = true ∧
    leaves (.packetArrival (incoming (.store []) true)) (withFlits (incoming (.store []) true) base) (fun t => t.fabric.replies == [(1, 7, 0)] && t.fabric.arrivals.length == 1 && t.fabric.ingress.isEmpty) = true ∧
    leaves (.packetArrival (incoming (.store []) true)) base (fun t => t.fabric.replies.isEmpty) = true := by decide +kernel
theorem test_ackNack : leaves (.packetAck 7) (sentState 0 false) (fun t => t.fabric.sent.map (·.stage) == [1]) = true ∧
    leaves (.packetNack 7 true) (sentState 0 false) (fun t => t.fabric.sent.map (·.backoff) == [8]) = true := by decide +kernel
theorem test_resend : leaves (.resendTimeout 7) (sentState 0 true) (fun t => t.fabric.sent.map (·.backing) == [false]) = true ∧
    leaves (.resendTimeout 7) { sentState 0 true with clock := 4 * Config.cyclesPerUs - 1 } (fun t => t.fabric.sent.map (·.backing) == [true]) = true := by decide +kernel
theorem test_commits : leaves (.packetCommit 1 7) (arrived (.store [(0x41000, 5), (0x41001, 6)])) (fun t => readByte t 0x41001 == 6 && t.fabric.arrivals.isEmpty) = true ∧
    leaves (.packetCommit 1 7) (arrived (.atomic 0 4 false [(0x41000, 5, 0)])) (fun t => peekNat t 0x41000 4 == 5) = true := by decide +kernel
theorem test_linkLoss : leaves (.linkLoss 7) (podded base) (fun t => !portUp t 7 && portUp t 0) = true := by decide +kernel

/-! ### The token and the records -/

/-- A record of a kind with a payload; `intact` gives a record the CRC over it. -/
def rec (m kind payload : Nat) : Record :=
  { milestone := BitVec.ofNat 64 m, context := 0, origin := 1, cls := 0, length := 24, kind := kind, payload := bytesOf 48 payload }
def intact (r : Record) : Record := { r with crc := recordCrc r }

/-- The check value of CRC-32C: that of the bytes of "123456789". -/
theorem test_crc : crc32c ((List.range 9).map fun i => BitVec.ofNat 8 (0x31 + i)) = 0xE3069283 := by decide +kernel

/-- The tap takes part in the ring, with records queued in class 0 and class 2. -/
def tapped (f : Ring → Ring) : State := let s := podded base; { s with ring := f { s.ring with queues := ⟨#[[(rec 0 0 0, none), (rec 0 1 0, none), (rec 0 2 0, none)], [], [(rec 0 3 0, none), (rec 0 4 0, none)]], rfl⟩ } }

theorem witness_Token : tapOn (tapped id) = true ∧ ((3 : BitVec 16) - (tapped id).ring.epoch).slt 0 = false ∧ (tapped id).ring.stopped = false ∧ tablesB (tapped id) = true ∧
    recordIntact (intact (rec 5 0 0)) = true ∧ recordIntact (rec 5 0 0) = false ∧
    (tapped id).ring.hasSeen 5 = false ∧ (tapped fun r => { r with applied := 5 }).ring.hasSeen 5 = true := by decide +kernel
theorem test_token : leaves (.tokenArrival 10 3) (tapped id) (fun t => t.ring.emitted.map (fun r => (r.milestone, r.kind)) == [(11, 0), (12, 1), (13, 2), (14, 3)] &&
      t.ring.emitted.all recordIntact && t.ring.messages.head? == some (.token 14 3)) = true := by decide +kernel
theorem test_receive : leaves (.recordReceive (intact (rec 5 0 0))) (tapped id) (fun t => t.ring.seen == 5 && t.ring.emitted.length == 1 && t.ring.messages == [.fetch 9 1]) = true ∧
    leaves (.recordReceive (rec 5 0 0)) (tapped id) (fun t => t.ring.emitted.isEmpty) = true := by decide +kernel

/-- A record has been seen and is missing, and tap number `asked` upstream has been asked for it; the token has not come for the wait. -/
def gap (asked : Nat) (stopSent : Bool) : State :=
  { (tapped fun r => { r with seen := 3, applied := 0, fetching := some (1, asked), stopSent := stopSent, window := [intact (rec 7 0 0)] }) with clock := 40 * Config.cyclesPerUs }

theorem witness_Gap : tapOn (gap 0 false) = true ∧ tablesB (gap 0 false) = true ∧ (gap 0 false).ring.applied.toNat < (rec 1 0 0).milestone.toNat ∧ (rec 1 0 0).milestone.toNat ≤ (gap 0 false).ring.seen.toNat ∧
    tget (gap 0 false).ring.held 1 = none ∧ missingRecord (gap 0 false).ring = some 1 ∧ (gap 7 false).ring.outOfStep = false ∧ upstreamTaps (gap 0 false) = [9, 8, 7, 6, 5, 4, 3, 2] ∧
    (gap 0 false).ring.stopped = false ∧ max (gap 0 false).ring.lastToken (gap 0 false).ring.masterSince + 2 * (gap 0 false).settings.tokenwait * Config.cyclesPerUs ≤ (gap 0 false).clock ∧
    isMaster (gap 0 false) = true ∧ (2 ∈ livePackages (gap 0 false)) ∧ masterOf (gap 0 false) = 0 := by decide +kernel
theorem test_gap : leaves (.recordGapFetch (.answer none)) (gap 0 false) (fun t => t.ring.messages == [.fetch 8 1] && t.ring.fetching == some (1, 1)) = true ∧
    leaves (.recordGapFetch (.answer none)) (gap 7 false) (fun t => t.ring.outOfStep && t.ring.fetching.isNone) = true ∧
    leaves (.recordGapFetch (.answer (some (intact (rec 1 0 0))))) (gap 0 false) (fun t => (tget t.ring.held 1).isSome && t.ring.gapFetches == 1) = true ∧
    leaves (.recordGapFetch (.request 5 7)) (gap 0 false) (fun t => t.ring.messages == [.answer 5 (some (intact (rec 7 0 0)))]) = true := by decide +kernel
theorem test_tokenwait : leaves .tokenwaitExpiry { gap 0 false with clock := 20 * Config.cyclesPerUs } (fun t => t.ring.messages == [.missing]) = true ∧
    leaves .tokenwaitExpiry { gap 0 false with clock := 20 * Config.cyclesPerUs - 1 } (fun t => t.ring.messages == []) = true := by decide +kernel
theorem test_master : leaves .masterTimeout (gap 0 false) (fun t => t.ring.master == some 1) = true ∧
    leaves .masterTimeout { gap 0 false with clock := 40 * Config.cyclesPerUs - 1 } (fun t => t.ring.master == none) = true ∧
    leaves .tokenStop (gap 0 false) (fun t => t.ring.stopped && t.ring.messages == [.count 3 0]) = true := by decide +kernel

/-- The counts that the other taps report. -/
def counts (n : Dword) : List (Nat × Dword) := (List.range 9).map fun i => (i + 1, n)
/-- This tap, the master, has applied all that it has seen, and STOP has been sent. -/
def recovering : State := let s := gap 0 true; { s with ring := { s.ring with applied := 3 } }

theorem witness_Recovery : isMaster recovering = true ∧ recovering.ring.stopSent = true ∧ recovering.ring.seen = 3 ∧ recovering.ring.applied = 3 ∧
    ((livePackages recovering).all fun p => p == 0 || (counts 3).any fun x => x.1 == p && decide (3 ≤ x.2.toNat)) = true ∧ (4 ∈ livePackages recovering) := by decide +kernel
theorem test_recoveries : leaves (.tokenRecovery [] []) (gap 0 false) (fun t => t.ring.messages == [.stop] && t.ring.stopped && t.ring.stopSent) = true ∧
    leaves (.tokenRecovery (counts 3) (counts 3)) recovering (fun t => t.ring.messages == [.token 3 1] && !t.ring.stopped) = true ∧
    leaves (.tokenRecovery (counts 4) (counts 3)) recovering (fun t => t.ring.messages.isEmpty) = true := by decide +kernel
theorem witness_Lost : ((gap 0 false).settings.lostlimit * Config.cyclesPerUs ≤ { gap 0 false with clock := 10000 * Config.cyclesPerUs }.clock) ∧ (2 ∈ livePackages (gap 0 false)) ∧
    (gap 0 false).fabric.sent = [] := by decide +kernel
theorem test_lostLimit : leaves (.lostLimitExpiry 2 (some 0)) { gap 0 false with clock := 10000 * Config.cyclesPerUs } (fun t => (vget t.ring.queues 0 []).length == 4) = true ∧
    leaves (.lostLimitExpiry 2) { gap 0 false with clock := 10000 * Config.cyclesPerUs } (fun t => (vget t.ring.queues 0 []).length == 3) = true := by decide +kernel

/-- A descriptor of RWAY at 0x400 of own scratch: four bytes at offset 0x10 of the window; its RESULT at 0x500. -/
def rwaying (result : Nat) : State :=
  { (withRegs (scratched base 0x400 64 (pack [(0, 0x10), (32, 4), (64, 0x11223344), (384, result)])) [] [(10, 0xF100000000000400)] []) with
    convoys := tmod base.convoys 0 fun v => { v with desc := { v.desc with wmSize := 64 } } }

theorem witness_Rway : ([(0, 0), (1, 0xF1 * 2 ^ 56 + 0x500), (2, 0), (3, 0), (4, 0)].all fun e => let s := rwaying e.2
    passesWith s (.rway 10 2 (BitVec.ofNat 4 e.1)) { inTx := false } fun c =>
      let n := ownScratch s c (c.w.sreg 10) 64
      (firstCause s c [(c.w.sreg 10, 64, 64, .own)]).isNone && (rwayTrap s c (wordOf (.rway 10 2 (BitVec.ofNat 4 e.1))) (c.w.sreg 10) e.1 n).isNone && !fenceWaits c.w && decide (queuedRecords s < 256)) = true := by
  decide +kernel
theorem test_rway : leaves (.rway 10 2 0) (rwaying 0) (fun t => (vget t.ring.queues 2 []).map (fun x => (x.1.length, x.2)) == [(12, none)]) = true := by decide +kernel

/-- Record `r` is the next one; context 0 has a window of 64 bytes at 0x100, whose first word is 9. -/
def applying (r : Record) : State :=
  let s := tapped fun x => { x with held := [(1, r)] }
  { s with waymark := [(0x100, 9)], contexts := tmod s.contexts 0 fun x => { x with desc := { x.desc with wmBase := 0x100, wmSize := 64 } } }

/-- A waymark record for `size` bytes at the window's offset `o`. -/
def wmRec (kind o size flags data : Nat) : Record := rec 1 kind (pack [(0, o), (32, size), (40, flags), (64, data)])

/-- The premises of the statement on waymark records, and whether the bytes lie in the window. -/
def wmB (r : Record) (inside : Bool) : Bool :=
  let s := applying r
  let p := payOf r
  nextRecord s == some r && r.cls != 3 && r.payload.length == 48 && tablesB s && bytesB s && r.milestone.toNat == s.ring.applied.toNat + 1 &&
  keysFrom 0 s.mem && keysFrom 0 s.waymark && (s.mem.all fun e => e.2 != 0) && (s.waymark.all fun e => e.2 != 0) &&
  (payloadOk r.kind p && decide (bits p 0 32 + bits p 32 8 ≤ ((s.context 0).desc.wmSize))) == inside

theorem witness_WaymarkRecords : (([(0, 0, 40), (0, 63, 1), (1, 56, 8), (2, 0, 4), (3, 4, 4), (4, 0, 8)] : List (Nat × Nat × Nat)).all fun e => wmB (wmRec e.1 e.2.1 e.2.2 0 5) true) = true ∧
    (([(0, 0, 41), (0, 63, 2), (1, 64, 4), (2, 2, 4), (4, 0, 5)] : List (Nat × Nat × Nat)).all fun e => wmB (wmRec e.1 e.2.1 e.2.2 0 5) false) = true := by decide +kernel
theorem test_write : leaves .recordWrite (applying (wmRec 0 63 1 0 5)) (fun t => byteAt t.waymark 0x13F == 5 && t.ring.applied == 1) = true ∧
    leaves .recordWrite (applying (wmRec 0 63 2 0 5)) (fun t => t.waymark == [(0x100, 9)] && t.ring.applied == 1 && t.ring.errors == 1) = true := by decide +kernel
theorem test_rmw : leaves .recordAdd (applying (wmRec 1 0 4 0 5)) (fun t => readNat t.waymark 0x100 4 == 14) = true ∧
    leaves .recordMax (applying (wmRec 3 0 4 1 0xFFFFFFFF)) (fun t => readNat t.waymark 0x100 4 == 9) = true := by decide +kernel
theorem test_recordCas : leaves .recordCas (applying (wmRec 2 0 4 0 9)) (fun t => t.waymark == []) = true ∧ leaves .recordCas (applying (wmRec 2 0 4 0 8)) (fun t => t.waymark == [(0x100, 9)]) = true ∧
    leaves .recordBitset (applying (wmRec 4 0 8 0 6)) (fun t => readNat t.waymark 0x100 8 == 15) = true := by decide +kernel
theorem test_recovery : leaves (.outOfStepRecovery 9 [(0x200, 3)]) (tapped fun r => { r with outOfStep := true }) (fun t => t.ring.applied == 9 && byteAt t.waymark 0x200 == 3 && !t.ring.outOfStep) = true := by
  decide +kernel

/-- The next record is of a kind with a payload; package 0's context and its parts. -/
def sysB (r : Record) (q : State → Bool) : Bool :=
  let s := applying r
  nextRecord s == some r && r.cls != 3 && r.payload.length == 48 && tablesB s && r.milestone.toNat == s.ring.applied.toNat + 1 && q s

theorem witness_Launch : ([1, 2, 3].all fun mask => sysB (rec 1 5 (pack [(0, 0x80000001), (64, mkPa 1 0 0x1000), (128, mask)])) fun s => (s.hostq.commands.find? fun c => c.op == 1).isNone &&
    decide (s.disp.cards.length < 4096)) = true ∧ cardOk (0x40000 + pack [(246, 1), (217, 1), (212, 1), (208, 1), (256, 5)]) = true := by decide +kernel
theorem test_launch : leaves (.recordLaunch (bytesOf 64 (0x40000 + pack [(246, 1), (217, 1), (212, 1), (208, 1), (256, 5)]))) (applying (rec 1 5 (pack [(0, 0x80000001), (64, mkPa 1 0 0x1000), (128, 3)])))
    (fun t => t.disp.cards.map (fun e => (e.2.next, e.2.last, e.2.launch)) == [(0, 3, 0x80000001)]) = true := by decide +kernel
theorem witness_Pte : sysB (rec 1 6 0) (fun s => s.ring.waitingPte.isNone && (contextAccesses (cleanAll s) 0).isEmpty) = true ∧
    sysB (rec 1 6 0) (fun s => !(contextAccesses (cleanAll { s with fabric := { s.fabric with sent := [sentOne 0 false] } }) 0).isEmpty && accessesDone s [(0, 7)]) = true := by decide +kernel
theorem test_pte : leaves .recordPte (applying (rec 1 6 0)) (fun t => t.ring.applied == 1) = true ∧
    leaves .recordPte { applying (rec 1 6 0) with fabric := (sentState 0 false).fabric } (fun t => t.ring.applied == 0 && t.ring.waitingPte == some [(0, 7)]) = true := by decide +kernel
theorem witness_Region : ([0, mkPa 1 0 0].all fun a => sysB (rec 1 7 (pack [(0, a), (64, 1)])) fun s => regionPayloadOk (pack [(0, a), (64, 1)]) && !regionBusy s (pack [(0, a), (64, 1)]) &&
    !(livePeers s).isEmpty) = true := by decide +kernel
theorem test_region : leaves .recordRegion (applying (rec 1 7 (pack [(0, 0), (64, 1)]))) (fun t => regionWord t 0 == 8 && t.switches.length == 1) = true := by decide +kernel
theorem witness_Snapshots : ([8, 9].all fun k => sysB (rec 1 k 77) (fun _ => bits 77 64 320 == 0) && sysB (rec 1 k (2 ^ 64)) fun _ => bits (2 ^ 64) 64 320 != 0) = true := by decide +kernel
theorem test_trigger : leaves .recordTrigger (applying (rec 1 8 77)) (fun t => t.snapshot.tag == 77 && t.snapshot.count == 1) = true ∧
    leaves .recordTrigger (applying (rec 1 8 (2 ^ 64))) (fun t => t.snapshot.count == 0 && t.ring.errors == 1) = true := by decide +kernel
theorem test_snap : leaves .recordSnap (applying (rec 1 9 (2 ^ 64))) (fun t => t.ring.errors == 1 && !t.ckpt.busy) = true := by decide +kernel
theorem witness_Rings : ([0, 1, 2, 3].all fun k => sysB (rec 1 10 (pack [(0, k), (8, 2)])) fun _ => true) = true := by decide +kernel
theorem test_rings : leaves .ringLost (applying (rec 1 10 (pack [(0, 0), (8, 2)]))) (fun t => isLost t 2) = true ∧
    leaves .ringJoin (let s := applying (rec 1 10 (pack [(0, 1), (8, 2)])); { s with fabric := { s.fabric with lost := [2] } }) (fun t => !isLost t 2) = true := by decide +kernel

/-- A collective 77 of packages 0, 1 and 2 is in flight. -/
def inFlight (f : Collective → Collective) : Collective :=
  f { wave := 0, context := 0, convoy := 0, crew := 0, core := 0, pc := 0x10000, collid := 77, kind := 0, op := 0, fmt := 0, rsxn := 1, members := 7, len := 256, chunk := 256
      src := 0xF100000000001000, dst := 0xF100000000002000, barrier := 0xF100000000000600, status := 0, tile := none, root := 0, stream := 3, cls := 0, session := none, combined := []
      moved := false, conflict := [], undefined := false, stopped := false, waiting := false, lost := [], dropped := [], reports := [] }

theorem witness_Done : (let s := { applying (rec 1 10 (pack [(0, 2), (8, 2), (32, 77), (64, 1), (256, 7)])) with collectives := [(5, inFlight id)] }
    ((s.collectives.find? fun e => e.2.context == 0 && e.2.collid == 77).any fun e => e.1 == 5) = true ∧ (1 ∈ bitsSet (inFlight id).members) ∧ isLost s 1 = false ∧
    leaves .ringDone s (fun t => ((tget t.collectives 5).any fun x => x.reports == [{ package := 2, count := 1, members := 7 }])) = true) := by decide +kernel

/-! ### The Vat -/

/-- A descriptor at 0x400 of own scratch: `count` experts 3, 4, ... with weights 1.0, rows of `len` elements, deadline in µs. s12 holds a handle. -/
def vatDesc (count len deadline handle : Nat) (s : State) : State :=
  withRegs (scratched s 0x400 128 (pack ([(384, count), (352, len), (368, deadline), (392, 3), (448, 0x41000), (512, 0)] ++ (List.range count).flatMap fun k => [(8 * k, 3 + k), (64 + 32 * k, 0x3F800000)])))
    [] [(10, 0xF100000000000400), (12, BitVec.ofNat 64 handle)] []

/-- A slot for experts 3 and 4 with rows of one F32 element and weights 2.0. -/
def slotOf (f : VatSlot → VatSlot) : VatSlot :=
  f { VatSlot.free with state := 1, generation := 6, experts := [3, 4], weights := [0x40000000, 0x40000000], len := 1, outfmt := true, infmt := true, dst := 0x41000, acc := [0x80000000], desc := (base.context 0).desc }

/-- The Vat with a slot in place 5, or with few free pages. -/
def vatted (f : VatSlot → VatSlot) : State := { (podded base) with clock := 100, vat := { base.vat with slots := [(5, slotOf f)] } }

theorem witness_VatOpens : (([(0, 4, 0), (1, 1, 0), (8, 16384, 9), (2, 0, 0)] : List (Nat × Nat × Nat)).all fun e => let s := vatDesc e.1 e.2.1 e.2.2 0 base
    passesWith s (.vopen 10 9) { inTx := false } fun c => (firstCause s c [(c.w.sreg 10, 128, 128, .own)]).isNone) = true ∧
    (base.vatSlot 0).state = 0 := by decide +kernel

/-- The bytes of a descriptor of eight experts. -/
def vatNumber : Nat := readNat ((vatDesc 8 16384 9 0 base).crew 0).scratch 0x400 128

theorem witness_VatDescOk : VatDescOk vatNumber := by
  have h : ∀ i < 8, i + 1 < bits vatNumber 384 8 → bits vatNumber (8 * i) 8 < bits vatNumber (8 * (i + 1)) 8 := by decide +kernel
  have h8 : bits vatNumber 384 8 = 8 := by decide +kernel
  exact ⟨by decide +kernel, by decide +kernel, by decide +kernel, by decide +kernel, by decide +kernel, by decide +kernel, fun i hi => h i (by omega) hi, by decide +kernel, by decide +kernel,
    by decide +kernel, by decide +kernel⟩
theorem test_vopen : leaves (.vopen 10 9) (vatDesc 2 1 0 0 base) (fun t => (t.vatSlot 0).experts == [3, 4] && (t.vatSlot 0).state == 1 && t.vat.freePages == base.vat.freePages - 1) = true ∧
    leavesWave (.vopen 10 9) (vatDesc 0 1 0 0 base) (fun w => w.sreg 9 == 0x400000000) = true := by decide +kernel
theorem witness_VatDrops : (([(0x6005, false), (0x6005, true), (0x5005, false)] : List (Nat × Bool)).all fun e =>
    passesWith (vatDesc 0 0 0 e.1 (vatted fun v => { v with inOrder := e.2 })) (.vdrop 12 9) { inTx := false } fun c => decide ((c.w.sreg 12).toNat < 2 ^ 32)) = true := by decide +kernel
theorem test_vdrop : leaves (.vdrop 12 9) (vatDesc 0 0 0 0x6005 (vatted id)) (fun t => (t.vatSlot 5).state == 0 && (t.vatSlot 5).generation == 7) = true ∧
    leavesWave (.vdrop 12 9) (vatDesc 0 0 0 0x5005 (vatted id)) (fun w => w.sreg 9 == 2) = true := by decide +kernel

/-- A row of one element from a package. -/
def row (src handle expert : Nat) : VatRow := { id := 9, src := src, context := 0, handle := BitVec.ofNat 32 handle, expert := expert, len := 1, infmt := true, elems := [0x40400000], poison := false }

/-- The same row sent by core 0's chain to its own package. -/
def rowSent (handle : Nat) : State := (vatted id).setCore 0 { Core.initial with chain := [{ rowOne 0 with row := some (row 0 handle 3) }] }

theorem witness_Rows : isLost (vatted id) 1 = false ∧ (([(0x6005, 3, 1), (0x6005, 4, 1), (0x6005, 5, 4), (0x7005, 3, 3)] : List (Nat × Nat × Nat)).all fun e => vatCode (vatted id) (row 1 e.1 e.2.1) == e.2.2) = true ∧
    vatCode (vatted fun v => { v with arrivedMask := 1 }) (row 1 0x6005 3) = 5 ∧ (senderOf (rowSent 0x6005) (row 0 0x6005 3)).isSome = true ∧ tablesB (vatted id) = true := by decide +kernel
theorem test_vatArrival : leaves (.vatArrival (row 1 0x6005 4)) (vatted id) (fun t => t.vat.answers == [(1, 9, 1)] && (t.vatSlot 5).arrivedMask == 2) = true ∧
    leaves (.vatArrival (row 1 0x7005 4)) (vatted id) (fun t => t.vat.answers == [(1, 9, 3)] && t.vat.late == 1) = true := by decide +kernel

/-- A row for the lowest position is held, or for the last one. -/
def heldRow (position : Nat) : HeldRow := { row := 9, position := position, src := 1, complete := false, pages := 0, elems := [0x40400000], poison := false }

theorem witness_Folds : (let v := slotOf fun v => { v with held := [heldRow 0], arrivedMask := 1 }
    ((vatted fun v => { v with held := [heldRow 0], arrivedMask := 1 }).vat.slots.find? fun e => e.2.held.any fun x => x.src == 1 && x.row == 9 && !x.complete) = some (5, v) ∧ v.lowest = 0 ∧
    v.acc.length = 1) := by decide +kernel
theorem test_fold : leaves (.vatRowComplete 1 9) (vatted fun v => { v with held := [heldRow 0], arrivedMask := 1 }) (fun t => (t.vatSlot 5).acc == [0x40C00000] && (t.vatSlot 5).state == 1) = true ∧
    leaves (.vatRowComplete 1 9) (vatted fun v => { v with held := [heldRow 1], arrivedMask := 3, foldedMask := 1, acc := [0x40C00000] })
      (fun t => (t.vatSlot 5).acc == [0x41400000] && (t.vatSlot 5).state == 3) = true := by decide +kernel
theorem witness_VatDeadline : (let v := (vatted fun v => { v with deadline := 100, arrivedMask := 1, foldedMask := 1 }).vatSlot 5
    v.state = 1 ∧ v.byDeadline = false ∧ v.inOrder = false ∧ v.deadline ≠ 0 ∧ v.experts.length ≤ 8 ∧ v.deadline ≤ (vatted id).clock ∧ v.held = [] ∧ v.arrivedMask = v.foldedMask) := by decide +kernel
theorem test_vatDeadline : leaves (.vatDeadline 5) (vatted fun v => { v with deadline := 100, arrivedMask := 1, foldedMask := 1 }) (fun t => (t.vatSlot 5).subMask == 2 && (t.vatSlot 5).state == 3) = true ∧
    leaves (.vatDeadline 5) (vatted fun v => { v with deadline := 101 }) (fun t => (t.vatSlot 5).state == 1) = true := by decide +kernel

/-- A slot that releases its row, of which `written` bytes have been written. -/
def releasing (written : Nat) : State := vatted fun v => { v with state := 3, arrivedMask := 3, foldedMask := 3, acc := [0x41400000], written := written }

theorem witness_Releases : ([0, 4].all fun n => match (releasing n).vat.slots with
    | [(5, v)] => v.state == 3 && !v.waiting && v.stampAddr == 0 && v.lowest == v.experts.length && !v.stamped && decide (v.dst.toNat % 128 + v.rowBytes.length ≤ 128) && v.rowBytes.length == 4 && !unitPackets (releasing n) 0 && (match unitWrite (releasing n) 0 v.desc v.dst v.rowBytes false with
      | .ok s1 => !unitPackets s1 0 | _ => false)
    | _ => false) = true := by decide +kernel
theorem test_release : leaves .vatReleaseDone (releasing 0) (fun t => peekNat t 0x41000 4 == 0x41400000 && (t.vatSlot 5).state == 0) = true := by decide +kernel

/-! ### Collectives -/

/-- Collective 5 in flight with session 6, whose inputs are port 0 (package 1) and its own. -/
def combining (chunks : Table (Table (List Word))) (x : Collective) : State :=
  { podded base with
    clock := 20 * Config.cyclesPerUs
    collectives := [(5, { x with session := some 6, members := 3 })]
    sessions := [(6, { op := 0, fmt := 0, rsxn := 1, inputs := 0x1000001, output := 25, perChunk := 64, chunks := chunks, began := chunks.map fun e => (e.1, 0), collective := 5 })] }

/-- A chunk of 64 elements. -/
def chunk (x : Word) : List Word := List.replicate 64 x

theorem witness_Combines : ([[], [(0, [(24, chunk 0x3F800000)])]].all fun l => let s := combining l (inFlight id)
    (tget s.sessions 6).isSome && tablesB s && (inFlight id).chunks == 1 && (inFlight id).chunkLen 0 == 256 && (inFlight id).done.isEmpty && (inFlight id).combined.isEmpty && (tget (tgetD l 0 []) 0).isNone && keysFrom 0 l &&
      ((tget s.sessions 6).any fun y => y.fits 0 && y.output == 25 && keysFrom 0 y.began && y.inputs.getLsbD 0) && (l.all fun e => e.2.all fun x => x.2.length == 64)) = true := by decide +kernel
theorem test_combine : leaves (.combineChunk 6 0 0 (chunk 0x40000000)) (combining [(0, [(24, chunk 0x3F800000)])] (inFlight id))
      (fun t => ((tget t.collectives 5).any fun x => x.combined == [(0, chunk 0x40400000)]) &&
        t.fabric.sent.map (fun p => (p.packet.dst, p.packet.payload)) == [(1, .member 0 77 0 0 0 (bytesOfWords 0 (chunk 0x40400000)))]) = true ∧
    leaves (.combineChunk 6 0 0 (chunk 0x40000000)) (combining [] (inFlight id)) (fun t => (tget t.collectives 5).any fun x => x.combined.isEmpty) = true := by decide +kernel
/-- Package 1 is overdue: an input of the session, the one that owes the next chunk, or one that no link leads to. -/
def overdue : List State :=
  [combining [(0, [(24, chunk 0)])] (inFlight id), combining [] (inFlight fun x => { x with sched := 1, root := 1 }),
   (combining [] (inFlight id)).modPort 0 fun p => { p with down := true }]

/-- The three reasons of the statement on members. -/
def overdueB (s : State) : List Bool := match tget s.collectives 5 with
  | some x => [(minimalPorts s 1).all fun k => !portUp s k,
      1 == x.owner && decide (0 < x.chunks) && !x.done.contains 0 && (x.nextChunk s).isNone && decide (x.since + (if x.sched = 3 ∨ x.cls = 0 then 20 else 2000) * Config.cyclesPerUs ≤ s.clock),
      (x.session.bind fun k => tget s.sessions k).any fun y => (portTo s.pkg 1).any fun port => inputLate s y port 0]
  | none => []

theorem witness_Overdue : overdue.map overdueB = [[false, false, true], [false, true, false], [true, false, false]] ∧ overdueB (combining [] (inFlight id)) = [false, false, false] ∧
    ((combining [] (inFlight id) :: overdue).all fun s => tablesB s && s.pkg == 0 && (tget s.collectives 5).any fun x => !x.stopped && x.members.getLsbD 1 && !x.dropped.contains 1 && x.lost.isEmpty &&
      decide (x.completed < 2 ^ 32) && decide (x.collid < 2 ^ 32)) = true ∧ portPeer 0 0 = some 1 ∧
    (let s := combining [(0, [(24, chunk 0)])] (inFlight id)
     ((tget s.sessions 6).any fun y => y.collective == 5 && y.inputs.getLsbD 0 && (tget y.chunks 0).any fun e => (tget e 0).isNone && decide (tgetD y.began 0 s.clock + 20 * Config.cyclesPerUs ≤ s.clock)) = true) := by
  decide +kernel
theorem test_overdue : (overdue.all fun s => leaves (.memberOverdue 5 1 0) s fun t => (tget t.collectives 5).any fun x => x.dropped == [1]) = true ∧
    leaves (.memberOverdue 5 1 0) (combining [] (inFlight id)) (fun t => (tget t.collectives 5).any fun x => x.dropped == []) = true ∧
    leaves (.sessionInputTimeout 6 0 0) (combining [(0, [(24, chunk 0)])] (inFlight id)) (fun t => (tget t.collectives 5).any fun x => x.dropped == [1]) = true := by decide +kernel

/-- The collective's chunk has been combined, or its bytes written; its barrier has 256 bytes pending. -/
def completing (moved : Bool) : State := scratched (combining [] (inFlight fun x => { x with combined := [(0, chunk 0x40400000)], moved := moved })) 0x600 16 (pack [(0, 1), (32, 1), (64, 256)])

theorem witness_Completes : ([false, true].all fun m => let s := completing m
    ((tget s.collectives 5).any fun x => collReady s x && x.freeRanges.isEmpty && x.destLen == 256 && x.owed == 0 && !x.sends s.pkg && !x.stopped && !x.reused && x.part == 0 && !x.waiting && x.lost.isEmpty && x.done.isEmpty && x.chunks == 1) && !backsOut (cleanStack s 0 4) 0 && (tget s.convoys 0).isSome && tablesB s && bytesB s && !agentPackets s 0 0x10000 &&
    openB s 0xF100000000002000 256 0x2000 true && openB s 0xF100000000000600 16 0x600 true) = true := by decide +kernel
theorem test_completes : leaves (.collectiveCompletion 5 []) (completing false) (fun t => readNat (t.crew 0).scratch 0x20FC 4 == 0x40400000) = true ∧
    leaves (.collectiveCompletion 5 []) (completing true) (fun t => t.collectives.isEmpty && t.sessions.isEmpty && readNat (t.crew 0).scratch 0x600 16 == 1 + 2 ^ 96) = true := by decide +kernel

/-! ### The dispatcher -/

/-- A card in the store for two convoys, and its part. -/
def stored (f : StoredCard → StoredCard) (s : State) : State :=
  let x : StoredCard :=
    { launch := 0x80000001, context := 0, card := { fetchCard with count := 2 }, part := 3, queue := none, age := 0, held0 := true, held1 := true, failed0 := false, failed1 := false, next := 0, last := 2, ready := [],
      gate := [], chosenAt := none }
  let p : Part := { launch := 0x80000001, context := 0, card := x.card, rank := 0, total := 2, placed := 0, retired := 0, hostSeq := none, hostLaunch := false, uids := [], progressAt := 0, waiting := false }
  { s with disp := { s.disp with cards := [(7, f x)], parts := [(3, p)] } }

/-- A word of memory, and one in a coherent region. -/
def conditional (kind : Nat) : State := stored (fun x => { x with held0 := false, held1 := false, card := { x.card with w0kind := kind, w0 := 0x40000, v0 := 9 } }) (withBytes coherent 0x40000 4 9)

theorem witness_Conditions : ([1, 2].all fun k => match (conditional k).disp.cards with
    | [(7, x)] => x.card.w1kind == 0 && x.card.w0kind == k && !x.held0 && !x.failed0 && (match unitXlat (conditional k) ((conditional k).context 0).desc.root .read 0x40000 with
      | .ok t1 pa _ => coherentHere (conditional k) pa && !lineHeld t1 pa 0 | _ => false)
    | _ => false) = true := by decide +kernel
theorem test_poll : leaves (.cardConditionPoll []) (stored (fun x => { x with held0 := false, card := { x.card with w0kind := 2, w0 := 5 } }) { base with ring := { base.ring with applied := 5 } })
      (fun t => t.disp.cards.all fun e => e.2.held0) = true ∧
    leaves (.cardConditionPoll []) (stored (fun x => { x with held0 := false, card := { x.card with w0kind := 2, w0 := 6 } }) { base with ring := { base.ring with applied := 5 } })
      (fun t => t.disp.cards.all fun e => !e.2.held0) = true := by decide +kernel

/-- The premises of placement and of restoring: whose turn it is, with one run of cores. -/
def turnB (s : State) (saved : Bool) : Bool :=
  mayPlace s && match turnOf s with
    | (_, some (x, 0, [run])) => x.saved == saved && decide (run.2.length ≤ 8) && (saved || run.2.all fun c => (freeSlotsOf s c 1).length == 1)
    | _ => false

theorem witness_Placement : turnB (stored id bound) false = true := by decide +kernel
theorem test_placement : leaves .convoyPlacement (stored id bound) (fun t => (tget t.convoys 1).any fun v => v.index == 0 && v.launch == 0x80000001) = true := by decide +kernel
theorem witness_QuadChange : (let s := { base with quads := [(2, { mode := 1, change := some (2, 1600) })], clock := 1600 }
    (s.quads.find? fun e => match e.2.change with | some c => decide (c.2 ≤ s.clock) | none => false) = some (2, { mode := 1, change := some (2, 1600) }) ∧ tablesB s = true ∧
    leaves .quadModeChangeDone s (fun t => (t.quad 2).mode == 2) = true) := by decide +kernel

/-- A candidate of the lowest and of the highest priority has waited since time 0, and no core is bound. -/
def waitingCard (s : State) (clock : Nat) : State := { (stored (fun x => { x with chosenAt := some 0, card := { x.card with prio := 3 } }) s) with clock := clock }

theorem witness_Waits : (let s := waitingCard base (50 * Config.cyclesPerUs)
    ((ordered s).map (·.since)) = [some 0] ∧ (s.convoys.any fun e => e.2.residence == .evicting) = false ∧
    ((ordered s).all fun x => (findPlan s x fun _ => true).isNone) = true ∧ tablesB s = true ∧ s.settings.preemptwait = 50) ∧
    (let s := waitingCard bound (50 * Config.cyclesPerUs)
     keptFor s (ordered s) = [] ∧ ((ordered s).map (·.since)) = [some 0] ∧ ((ordered s).all fun x => (nearest s x).isSome) = true) := by decide +kernel

theorem test_reservation : leaves .placementReservation (waitingCard bound (50 * Config.cyclesPerUs)) (fun t => t.disp.reserved.length == 1) = true ∧
    leaves .placementReservation (waitingCard bound (50 * Config.cyclesPerUs - 1)) (fun t => t.disp.reserved.isEmpty) = true := by decide +kernel

/-- The wave has ended. -/
def doneState : State := base.modWave 0 fun w => { w with ended := true }

theorem witness_Retire : ((doneState.convoys.find? fun e => e.2.residence == .placed && (doneState.waves.all fun w => keyConvoy w.1 != e.1 || w.2.ended) && !convoyBusy doneState e.1).any fun e => e.1 == 0) = true ∧
    tablesB doneState = true := by decide +kernel
theorem test_retire : leaves .convoyRetire doneState (fun t => t.convoys.isEmpty && t.waves.isEmpty && t.crews.isEmpty) = true := by decide +kernel

/-- A part whose convoys have all retired, with a stamp at an address or none; one that has made no progress. -/
def parted (stamp : Dword) (f : Part → Part) : State :=
  let s := stored id base
  { s with
    clock := 2000 * Config.cyclesPerUs
    contexts := tmod s.contexts 0 fun x => { x with desc := { x.desc with watchdog := 2 } }
    disp := { s.disp with cards := [], parts := s.disp.parts.map fun e => (e.1, f { e.2 with card := { e.2.card with stampAddr := stamp, stampVal := 6 } }) } }

theorem witness_Parts : ([0, 0x41000].all fun a => let s := parted a fun p => { p with placed := 2, retired := 2 }
      (s.disp.parts.find? fun e => partDone s e.2).isSome && tablesB s && (a == 0 || (match unitWrite ((List.range 4).foldl (fun z i => cleanStack z i 4) s) 0 (s.context 0).desc a (bytesOf 8 6) false with
        | .ok _ => (List.range 4).all fun i => !backsOut ((List.range 4).foldl (fun z i => cleanStack z i 4) s) i | _ => false))) = true ∧
    (let s := parted 0 id
     s.disp.parts.length = 1 ∧ (s.context 0).desc.watchdog = 2 ∧ (s.disp.parts.all fun e => decide (e.2.progressAt + 2 * 1000 * Config.cyclesPerUs ≤ s.clock)) = true ∧
     s.logs.faults.length < Config.faultLogEntries ∧ tablesB s = true) := by decide +kernel
theorem test_completion : leaves .cardCompletion (parted 0x41000 fun p => { p with placed := 2, retired := 2 }) (fun t => peekNat t 0x41000 8 == 6 && t.disp.parts.isEmpty) = true := by decide +kernel
theorem test_watchdog : leaves .watchdogExpiry (parted 0 id) (fun t => t.disp.parts.isEmpty && t.logs.faults.length == 1) = true ∧
    leaves .watchdogExpiry { parted 0 id with clock := 2000 * Config.cyclesPerUs - 1 } (fun t => t.disp.parts.length == 1) = true := by decide +kernel

/-! ### Eviction -/

/-- The convoy is being evicted; its context has `slots` save slots of 1 MiB at 0x200000. -/
def evicting (slots : Nat) : State :=
  { base with convoys := tmod base.convoys 0 fun v => { v with residence := .evicting, desc := { v.desc with saveBase := 0x200000, saveSlots := slots, slotSize := 16 } } }

theorem witness_Saves : ([0, 1].all fun n => let s := evicting n
    s.convoys.length == 1 && drained s 0 && tablesB s && (s.context 0).saveUsed.isEmpty && s.convoys.all fun e => decide (recordSize s 0 e.2 ≤ e.2.desc.slotSize * 65536)) = true := by decide +kernel
theorem test_noSlot : leaves .evictionSave (evicting 0) (fun t => (tget t.convoys 0).any fun v => v.residence == .placed && v.noEvictUntil == 50 * Config.cyclesPerUs) = true := by decide +kernel

/-- The convoy has been saved in slot 2. -/
def savedConvoy : State :=
  { bound with
    contexts := tmod bound.contexts 0 fun x => { x with saveUsed := [2] }
    crews := tmod bound.crews 0 fun y => { y with scratchSize := 0 }
    convoys := tmod bound.convoys 0 fun v => { v with
      residence := .saved 2, cores := [], card := { v.card with scratch := 0, tiles := 0, ext := 0, regs := 1 }, desc := { v.desc with saveBase := 0x200000, saveSlots := 4, slotSize := 16 } } }

theorem witness_Restores : turnB savedConvoy true = true ∧ tablesB savedConvoy = true ∧ ((tget savedConvoy.convoys 0).any fun v => v.residence == .saved 2 && !v.card.gang && (match readBack savedConvoy 0 2 v with | .ok _ => true | .error _ => false)) = true := by decide +kernel
theorem test_restore : leaves .convoyRestore savedConvoy (fun t => ((tget t.convoys 0).any fun v => v.residence == .placed && v.cores.length == 1) && (t.context 0).saveUsed.isEmpty) = true := by decide +kernel

/-- A small convoy whose waves have all ended is being evicted. -/
def tiny : State := { evicting 1 with crews := [], waves := [], convoys := tmod (evicting 1).convoys 0 fun v => { v with card := { v.card with scratch := 0, tiles := 0, ext := 0, regs := 1 } } }

theorem witness_SaveWrites : drained tiny 0 = true ∧
    (tiny.convoys.all fun e => match writeRuns tiny 0 e.2.desc e.2.desc.saveBase (convoyRuns tiny 0 e.2) with | .ok _ => true | _ => false) = true := by decide +kernel
theorem test_save : leaves .evictionSave tiny (fun t => ((tget t.convoys 0).any fun v => v.residence == .saved 0) && peekNat t 0x200000 8 == 0x10000) = true := by decide +kernel

/-! ### Errors, reset, power -/

theorem witness_Detectors : (([(0, 0, 127), (1, 3, 0), (2, 0, 0), (3, 1, 0), (5, 2, 0), (6, 3, 7), (9, 0, 127), (13, 0, 5), (15, 0, 0)] : List (Nat × Nat × Nat)).all fun e => detectorOk e.1 e.2.1 e.2.2) = true ∧
    tablesB base = true ∧ (readerOf base 1 0 0 0).isSome = true := by decide +kernel
theorem test_ecc : leaves (.eccError 2 0 0 0x41005 true) base (fun t => t.poisoned == [0x820] && t.logs.errors.length == 1) = true ∧
    leaves (.eccError 1 0 0 0 true) base (fun t => (tget t.waves 0).all fun w => w.ended) = true := by decide +kernel
theorem test_inject : leaves (.injectUncorrectable 9 0 127) base (fun t => armed t 9 0 127 == 2) = true ∧ leaves (.injectCorrected 9 0 127) base (fun t => armed t 9 0 127 == 1) = true ∧
    leaves (.injectSelfTest 0 127) base (fun t => armed t 9 0 127 == 4) = true := by decide +kernel
theorem witness_HostLink : (tget base.waves 0).isSome = true ∧ (tget base.convoys (keyConvoy 0)).isSome = true := by decide +kernel
theorem test_hostLink : leaves (.hostLinkError 0 0x10000 0x40000 1) base (fun t => t.logs.reports.map (fun r => (r.cause, r.sub, r.addr)) == [(9, 1, 0x40000)]) = true := by decide +kernel
theorem test_reset : leaves (.packageReset { package := 5, imageVersion := 0, firmwareOk := true, memoryOk := true }) { base with mem := (mkPa 0 8 4, 7) :: base.mem }
      (fun t => t.bootState == 1 && t.pkg == 5 && t.mem == [(mkPa 0 8 4, 7)]) = true ∧
    leaves (.packageReset { package := 5, imageVersion := 0, firmwareOk := true, memoryOk := false }) base (fun t => t.bootState == 2 && t.failStage == 2) = true := by decide +kernel
theorem test_power : leaves (.powerMeasurement 2801) base (fun t => t.power.point == 0 && t.power.paused == some (30 * Config.cyclesPerUs)) = true ∧
    leaves (.powerMeasurement 2800) base (fun t => t.power.point == 1) = true := by decide +kernel
theorem test_temperature : leaves (.junctionTemperature 110) base (fun t => t.power.stopped) = true ∧ leaves (.junctionTemperature 109) base (fun t => !t.power.stopped && t.power.point == 0) = true := by decide +kernel
theorem test_dvfs : leaves (.dvfsPointSelect 2) base (fun t => t.power.point == 2 && t.power.selected == 2) = true ∧ leaves (.dvfsPointSelect 3) base (fun t => t.power.point == 1) = true := by decide +kernel

/-- Issue is paused until time 10; processor 2 waits for an image. -/
def pausing : State := { base with clock := 10, power := { base.power with paused := some 10 }, waysides := base.waysides.setIfInBounds 2 { image := none, next := some [1] } }

theorem witness_Pause : pausing.power.paused = some 10 ∧ 10 ≤ pausing.clock ∧ (pausing.wayside 2).next = some [1] ∧ ((List.range 2).all fun j => (pausing.wayside j).next.isNone) = true ∧
    pausing.collectives = [] := by decide +kernel
theorem test_pause : leaves .dvfsPauseEnd pausing (fun t => t.power.paused == none) = true ∧ leaves .waysideImageLoad pausing (fun t => (t.wayside 2).image == some [1]) = true ∧
    leaves .packagePowerLoss pausing (fun t => t.power.stopped) = true := by decide +kernel

/-! ### Samples, the debugger, checkpoints -/

/-- The wave's context samples every 16 cycles, into a ring at 0x300000 of far memory or none; its paths are halted, the debugger has its rights. -/
def sampling (ringBase : Dword) : State :=
  { (withDiv base fun d => d.setPath 0 { d.path 0 with hold := .debug }) with
    clock := 32, contexts := tmod base.contexts 0 fun x => { x with log2n := 4, sampBase := ringBase, rights := true } }

theorem witness_Samples : ([0, 0x300000].all fun a => let s := sampling a
    sampleLog s 0 == some 4 && s.clock % 2 ^ 4 == 0 && (vget (s.core 0).scheds 0 Sched.initial).sampledAt != s.clock && (residentWaves s 0 0).map (·.2.1) == [0] && tablesB s && bytesB s) = true := by
  decide +kernel
theorem test_sample : leaves (.pcSample 0 0) (sampling 0) (fun t => (t.context 0).sampDrop == 1) = true ∧
    leaves (.pcSample 0 0) (sampling 0x300000) (fun t => (t.context 0).sampWr == 1 && (t.context 0).sampDrop == 0) = true := by decide +kernel
theorem witness_Debug : debugMay (sampling 0) 0 = true ∧ ((tget (sampling 0).waves 0).any fun w => allHalted w && (w.div.path 0).hold == .debug && (editDiv w.div 2 7 0xF).isSome) = true := by decide +kernel
theorem test_debug : leavesWave (.debugStep 0 0) (sampling 0) (fun w => (w.div.path 0).stepping && (w.div.path 0).hold == .none) = true ∧
    leavesWave (.debugResume 0 0) (sampling 0) (fun w => !(w.div.path 0).stepping && (w.div.path 0).hold == .none) = true := by decide +kernel
theorem test_debugEdit : leaves (.debugEdit 0 (.vlane 200 31 9)) (sampling 0) (fun t => (t.context 0).modified && (tget t.waves 0).any fun w => vecIs w 200 31 0 9) = true ∧
    leavesWave (.debugEdit 0 (.scalar 5 9)) base (fun w => w.sreg 5 == 0) = true := by decide +kernel
theorem test_revoke : leaves (.rightsRevoke 0) (sampling 0) (fun t => !(t.context 0).rights && (tget t.waves 0).any fun w => (w.div.path 0).hold == .none) = true := by decide +kernel
theorem test_triggerWrite : leaves (.triggerWrite 9) (sampling 0) (fun t => t.snapshot.tag == 9 && t.snapshot.clock == 32) = true := by decide +kernel

/-- The checkpoint engine has one granule left, to write at 0x500000 of far memory; of a context it is the only one. -/
def checkpointing : State :=
  { base with settings := { base.settings with ckptBase := 0x500000 }, ckpt := { base.ckpt with granules := [{ vpage := 4, base := 0x40000, bytes := [(0, 7), (65535, 8)] }] } }

theorem witness_Granules : checkpointing.ckpt.granules.length = 1 ∧ bytesB checkpointing = true ∧ checkpointing.settings.buddyBase = 0 ∧ checkpointing.settings.ckptBase.toNat % 4096 = 0 ∧
    paPkg (0x500000 + granuleOffset 1 0 + 65535) = 0 ∧ paRegion (0x500000 + granuleOffset 1 0 + 65535) = 0 := by decide +kernel

/-! ### The host -/

/-- A completion. -/
def completion (m : Nat) : Completion := { cseq := BitVec.ofNat 64 m, seq := 3, launch := 0, status := 0, result := 0 }

/-- The host's queues: a completion is held, two have been written, the ring has 16 entries at 0x10000 of host memory. -/
def hosted (held : List Completion) : State :=
  { base with hostq := { base.hostq with dqBase := 0x10000, lastCseq := 2, heldCpl := held, written := [completion 1, completion 2], gap := false } }

theorem witness_HostQueues : (hosted []).hostq.heldCpl = [] ∧ ((hosted []).hostq.lastCseq - 2).toNat < 2 ^ (hosted []).hostq.dqLog ∧ 2 ^ (hosted []).hostq.dqLog ≤ ((hosted []).hostq.lastCseq - 5).toNat ∧
    tablesB (hosted [completion 0]) = true ∧ bytesB (hosted [completion 0]) = true ∧ (hosted []).hostq.written = [completion 1] ++ [completion 2] ∧ ¬ (1 ≤ (0 : Dword).toNat) := by decide +kernel
theorem test_dqhead : leaves (.dqheadWrite 2) (hosted [completion 0]) (fun t => t.hostq.heldCpl.isEmpty && t.hostq.lastCseq == 3 && peekNat t (mkPa 0 8 0x10060) 32 == 3 * 2 ^ 128 + 3 * 2 ^ 192) = true ∧
    leaves (.dqreplayWrite 3) (hosted []) (fun t => t.hostq.gap) = true := by decide +kernel
theorem test_doorbell : leaves (.doorbellWrite 7) base (fun t => t.hostq.doorbell == 7) = true ∧ leaves .gapClear { base with hostq := { base.hostq with gap := true } } (fun t => !t.hostq.gap) = true ∧
    leaves (.ringctlWrite 3) { podded base with settings := { (podded base).settings with tapEn := false } } (fun t => t.settings.tapEn && t.settings.master && t.ring.messages == [.token 0 0]) = true ∧
    leaves (.ringctlWrite 3 (some 1)) base (fun t => t.ring.marked == [1] && !t.settings.tapEn) = true := by decide +kernel
theorem test_registers : leaves (.registerWrite 0x200 8 1200) base (fun t => t.power.pcap == 1200) = true ∧ leaves (.registerWrite 0x200 8 1199) base (fun t => t.power.pcap == 2800) = true := by decide +kernel
theorem test_readConfig : readConfig { base with hostq := { base.hostq with gap := true } } 0x40028 8 = some 1 ∧ readConfig base 0x3C0010 8 = some 0x100000 ∧
    readConfig base 0x3C0014 4 = some 0 ∧ readConfig base 0x3C0012 4 = none ∧ readConfig base 0x40000 2 = none ∧ readConfig base 0x310000 8 = some 0 ∧
    readConfig { base with ckpt := { base.ckpt with busy := true } } 0x3C0054 4 = some 1 ∧ readConfig { base with bootState := 2, failStage := 3 } 0x100 4 = some 0x32 := by
  decide +kernel
theorem test_ringOrder : leaves (.registerWrite 0x3C0100 8 0xFFFFFFFFFFFF0100) base (fun t => t.settings.ringOrder[1]? == some 1) = true ∧
    leaves (.registerWrite 0x3C0100 8 0xFFFFFFFFFFFF8001) base (fun t => t.settings.ringOrder[0]? == base.settings.ringOrder[0]?) = true := by decide +kernel
theorem test_boundTable : leaves (.boundTableWrite 63 5) base (fun t => tget t.bound 63 == some 5) = true ∧ leaves (.boundTableWrite 64 5) base (fun t => t.bound == []) = true := by decide +kernel
theorem test_msi : leaves (.msiXMessage 5) { base with msi := base.msi.setIfInBounds 5 { pending := true, sent := 1, lastSent := none } } (fun t => (vget t.msi 5 { pending := true, sent := 0, lastSent := none }).sent == 2) = true := by
  decide +kernel
theorem test_fqrd : leaves (.fqrdWrite 0 1) base (fun t => (t.context 0).fqRd == 0) = true ∧
    leaves (.fqrdWrite 0 1) { base with contexts := tmod base.contexts 0 fun x => { x with fqWr := 1 } } (fun t => (t.context 0).fqRd == 1) = true := by decide +kernel
theorem test_ringBlock : leaves (.ringBlockBaseWrite 0 .sampLog 20) base (fun t => (t.context 0).sampLog == 20) = true ∧ leaves (.ringBlockBaseWrite 0 .sampLog 21) base (fun t => (t.context 0).sampLog == 7) = true := by
  decide +kernel

/-- A descriptor for a context, with a waymark window of 64 KiB and its grid page at 0x600000 or at 0. -/
def descriptor (context grid : Nat) : List Byte := bytesOf 128 (descBits context { (base.context 0).desc with wmSize := 65536, gridPa := BitVec.ofNat 64 grid })

theorem witness_Descriptors : ([0, 0x600000].all fun g => descOk base.pkg 0 (leNat (descriptor 0 g)) && (descriptor 0 g).length == 128) = true ∧ descOk base.pkg 1 (leNat (descriptor 0 0)) = false ∧
    ((List.range 4).all fun k => (base.stack k).held.isEmpty) = true := by decide +kernel
theorem test_descriptor : leaves (.contextDescriptorWrite 0 (descriptor 0 0)) base (fun t => (t.context 0).desc.wmSize == 65536) = true ∧
    leaves (.contextDescriptorWrite 1 (descriptor 0 0)) base (fun t => (t.context 1).desc.wmSize == 0) = true := by decide +kernel
theorem test_teardown : leaves (.contextTeardown 0) (vatted id) (fun t => (t.vatSlot 5).state == 0 && (t.vatSlot 5).generation == 7 && t.disp.cards.isEmpty) = true := by decide +kernel

/-- An entry of the command queue. -/
def entry (seq op arg extra : Nat) (payload : Nat) : Nat := pack [(0, seq), (80, op), (128, arg), (192, extra), (512, payload)]

/-- The host has posted an entry whose bytes from 32 on are zero. -/
def posted (n : Nat) : State := pokeBytes { base with hostq := { base.hostq with cqBase := 0x20000, doorbell := 1 } } (mkPa 0 8 0x20100) (bytesOf 32 n)

theorem witness_Accepts : ([entry 1 3 0 0 0, entry 1 10 0 0 0, entry 1 2 0 1 0, entry 5 3 0 0 0].all fun n => let s := posted n
    s.bootState == 1 && !s.hostq.gap && !s.hostq.cplFull && decide (s.hostq.lastAcc.toNat < s.hostq.doorbell.toNat) && peekNat s (hostAddress s 0x20100) 256 == n) = true ∧
    entryStatus (entry 1 3 0 0 0) = 0 ∧ entryStatus (entry 1 10 0 0 0) = 1 ∧ entryStatus (entry 1 2 0 1 0) = 2 := by decide +kernel
theorem test_accept : leaves .commandAccept (posted (entry 1 3 0 0 0)) (fun t => t.hostq.commands.map (·.op) == [3] && t.hostq.lastAcc == 1) = true ∧
    leaves .commandAccept (posted (entry 5 3 0 0 0)) (fun t => t.hostq.gap && t.hostq.commands.isEmpty) = true := by decide +kernel

/-- A command has been accepted, or has started. -/
def commanded (op arg payload : Nat) (started : Bool) : State :=
  { podded base with hostq := { base.hostq with
      lastAcc := 3, cqBase := 0x20000
      commands := [{ seq := 3, op := op, context := 0, arg := BitVec.ofNat 64 arg, payload := bytesOf 128 payload, started := started, gate := [] }] } }

/-- `CommandReady`, and what else a command's clause asks. -/
def readyB (s : State) (op : Nat) (q : Command → Bool) : Bool := (s.hostq.commands.find? fun x => !x.started).any fun c => c.op == op && c.seq != 0 && q c

/-- A card of `count` convoys, a mask of packages and a launch. -/
def launching (count mask launch : Nat) : State := commanded 1 0 (0x40000 + pack [(246, 1), (217, 1), (212, 1), (208, 1), (256, count), (512, mask), (640, launch)]) false

theorem witness_Commands : (([(0, 1, 0x80000001), (1, 1, 1), (1, 1, 0x80000001), (1, 3, 0x80000001), (1, 2, 0x80000001)] : List (Nat × Nat × Nat)).all fun e => readyB (launching e.1 e.2.1 e.2.2) 1 fun c =>
      cardOk (leNat (c.payload.take 64)) == (e.1 == 1) && leNat ((c.payload.drop 64).take 16) == e.2.1 && leNat ((c.payload.drop 80).take 4) == e.2.2) = true ∧
    ([2, 3, 4, 7, 8, 9].all fun op => readyB (commanded op 0 0 false) op (fun _ => true) && tablesB (commanded op 0 0 false)) = true ∧ readyB (commanded 5 0x27 0 false) 5 (fun c => decide (bits c.arg.toNat 4 2 ≤ 2)) = true ∧
    ([2, 4].all fun op => ((commanded op 0 0 true).hostq.commands.find? fun x => x.op == op && x.started).any fun c => accessesDone (commanded op 0 0 true) c.gate && !evictingNow (commanded op 0 0 true) c.context) = true ∧
    readyB (commanded 7 0 0 false) 7 (fun c => c.payload.length == 128) = true ∧ bytesB (commanded 7 0 0 false) = true := by decide +kernel
theorem witness_NoShape : shapeMatches (commanded 8 0 0 false) 0 = false := by unfold shapeMatches; simp [commanded, podded, show base.settings.ckptBase = 0 from by decide +kernel]
theorem test_launchCommand : leaves .launch (launching 1 1 0x80000001) (fun t => t.disp.cards.map (fun e => e.2.launch) == [0x80000001]) = true ∧
    leaves .launch (launching 1 1 1) (fun t => t.hostq.heldCpl.map (·.status) == [2] || t.hostq.written.map (·.status) == [2]) = true := by decide +kernel
theorem test_inval : leaves .inval (commanded 2 0 0 false) (fun t => t.hostq.commands.all (·.started)) = true ∧ leaves .inval (commanded 2 0 0 true) (fun t => t.hostq.commands.isEmpty) = true := by decide +kernel
theorem test_replay : leaves .replay (commanded 3 0 0 false) (fun t => t.hostq.commands.isEmpty) = true ∧
    leaves .replay { commanded 3 0 0 false with perStack := (missing [(3, { context := 0, vpage := 0x8000, kind := 1, waiters := 1 })]).perStack } (fun t => (t.stack 0).faults.isEmpty) = true := by decide +kernel
theorem test_evict : leaves .evict ((commanded 4 0 0 false).modWave 0 fun w => { w with asleep := true }) (fun t => t.convoys.all fun e => e.2.residence == .evicting) = true ∧
    leaves .evict (commanded 4 0 0 false) (fun t => t.convoys.all fun e => e.2.residence == .placed) = true := by decide +kernel
theorem test_ringpost : leaves .ringpost (commanded 5 0x27 0 false) (fun t => (vget t.ring.queues 2 []).map (fun x => x.1.kind) == [7]) = true := by decide +kernel
theorem test_resetcore : leaves .resetcore (commanded 9 3 0 false) (fun t => (t.core 3).resetting) = true := by decide +kernel

/-! ### A checkpoint that a RESTORE finds (R368) -/

/-- The command, with the checkpoint area at 0x500000 of far memory. -/
def areaAt : State := { commanded 8 0 0 false with settings := { (podded base).settings with ckptBase := 0x500000 } }

/-- A header for `n` granules; the table of its pages that follows it names page 0. -/
def header (n : Nat) : List Byte := ckptHeader areaAt 0 0 n
def restoring (n : Nat) : State := { areaAt with mem := writeRun base.mem 0x500000 (header n) }

theorem memInv_base : Memory.wf base.mem = true := by decide +kernel
theorem header_length (n : Nat) : (header n).length = 104 := by simp [header, ckptHeader, bytesOf]
theorem restoring_plain (n : Nat) : (restoring n).regions = [] ∧ (restoring n).copies = [] ∧ (restoring n).pkg = 0 ∧ (restoring n).poisoned = [] ∧ (restoring n).leases = [] := by
  have h : areaAt.regions = [] ∧ areaAt.copies = [] ∧ areaAt.pkg = 0 ∧ areaAt.poisoned = [] ∧ areaAt.leases = [] := by decide +kernel
  unfold restoring
  dsimp only
  exact h

/-- Below 2^48 the memory of package 0 is far memory, and it is read as it stands. -/
theorem restoring_far (n a : Nat) (h : a < 2 ^ 48) : currentByte (restoring n) a = byteAt (writeRun base.mem 0x500000 (header n)) a := by
  obtain ⟨hr, hc, hp, -⟩ := restoring_plain n
  have h0 : paRegion a ≠ 3 := by unfold paRegion; omega
  unfold currentByte
  rw [if_neg (by simp [coherentHere, regionWord, hr, tgetD, tget]), if_neg (by simp [h0])]
  unfold homeByte copyOf
  rw [hc]
  split <;> rfl
theorem restoring_header (n i : Nat) (h : i < 104) : currentByte (restoring n) (0x500000 + i) = (header n)[i]'(by rw [header_length]; exact h) := by
  rw [restoring_far n _ (by omega), byteAt_writeRun_in (i := i) 0x500000 (header n) memInv_base (by rw [header_length]; exact h)]
theorem restoring_below (n a : Nat) (h : a < 0x500000 ∨ 0x500000 + 104 ≤ a) (h' : a < 2 ^ 48) : currentByte (restoring n) a = byteAt base.mem a := by
  rw [restoring_far n _ h', byteAt_writeRun_out (c := a) 0x500000 (header n) memInv_base (by rw [header_length]; exact h)]
theorem restoring_peek (n k : Nat) (h : k ≤ 104) : peekBytes (restoring n) 0x500000 k = (header n).take k := by
  apply List.ext_getElem
  · simp [peekBytes, header_length, h]
  · intro i h1 h2
    simp only [peekBytes, List.getElem_map, List.getElem_range, List.getElem_take]
    exact restoring_header n i (by simp [peekBytes] at h1; omega)
theorem restoring_shape (n : Nat) : shapeMatches (restoring n) 0 = true := by
  have hb : (restoring n).settings.ckptBase = 0x500000 := rfl
  have hh : ckptHeader (restoring n) 0 0 0 = header 0 := by
    unfold header ckptHeader livePackages isLost bindingBytes restoring
    dsimp only
  have h96 : ∀ k, (header k).take 96 = (header 0).take 96 := fun k => by
    unfold header ckptHeader
    dsimp only
    rw [List.take_append_of_le_length (l₂ := bytesOf 8 k) (by simp [bytesOf]), List.take_append_of_le_length (l₂ := bytesOf 8 0) (by simp [bytesOf])]
  unfold shapeMatches
  simp only [hb, hh]
  rw [show (0x500000 : Dword).toNat = 0x500000 from rfl, restoring_peek n 96 (by omega), h96 n]
  simp [List.take_take]
theorem restoring_count (n : Nat) (h : n < 2 ^ 64) : peekNat (restoring n) (0x500000 + 96) 8 = n := by
  have : peekBytes (restoring n) (0x500000 + 96) 8 = bytesOf 8 n := by
    apply List.ext_getElem
    · simp [peekBytes, bytesOf]
    · intro i h1 h2
      have hi : i < 8 := by simpa [peekBytes] using h1
      simp only [peekBytes, List.getElem_map, List.getElem_range, Nat.add_assoc]
      rw [restoring_header n (96 + i) (by omega)]
      simp only [header, ckptHeader]
      rw [List.getElem_append_right (by simp [bytesOf])]
      congr 1
      simp [bytesOf]
  rw [peekNat, this]
  simp only [bytesOf, leNat, List.range, List.range.loop, List.map_cons, List.map_nil, BitVec.toNat_ofNat]
  omega

/-- With no granule the statement's first case, and with one, whose page is 0, its second: the page table of `base` maps it. -/
theorem restoring_peek_base (n a k : Nat) (h : a + k ≤ 0x500000 ∨ 0x500000 + 104 ≤ a) (h' : a + k ≤ 2 ^ 48) :
    peekBytes (restoring n) a k = (List.range k).map fun i => byteAt base.mem (a + i) := by
  unfold peekBytes
  exact List.map_congr_left fun i hi => restoring_below n (a + i) (by have := List.mem_range.mp hi; omega) (by have := List.mem_range.mp hi; omega)
theorem restoring_page : peekNat (restoring 1) (0x500000 + 4096) 8 = 0 := by
  rw [peekNat, restoring_peek_base 1 _ 8 (by omega) (by omega)]
  decide +kernel
/-- No line is held where no region, switch or lease stands. -/
theorem free_lines (s : State) (hr : s.regions = []) (hl : s.leases = []) (a kind : Nat) : lineHeld s a kind = false := by
  simp [lineHeld, isSwitching, leaseBlocks, regionWord, hr, hl, tgetD, tget]
theorem walk_zero (s : State) (hp : s.poisoned = []) (hr : s.regions = []) (hl : s.leases = []) (x : Nat × Nat × Nat) (rest : List (Nat × Nat × Nat)) (table v : Nat)
    (hv : peekNat s table 8 = v) :
    walkFrom s 0 (x :: rest) table = (let e := BitVec.ofNat 64 v
      if !pteV e then Walk.absent else if pteMalformed x.1 x.2.1 e then Walk.malformed else if e.getLsbD 62 then Walk.leaf table x.1 e else walkFrom s 0 rest (ptePa e)) := by
  subst hv
  simp [walkFrom, hp, free_lines s hr hl]
theorem restoring_walk : walkFrom (restoring 1) 0 walkLevels 0x100000 = .leaf 0x102000 3 (BitVec.ofNat 64 (2 ^ 63 + 2 ^ 62 + 0x63)) := by
  obtain ⟨hr, -, -, hx, hl⟩ := restoring_plain 1
  have hq : ∀ a, (a = 0x100000 ∨ a = 0x101000 ∨ a = 0x102000) → peekNat (restoring 1) a 8 = leNat ((List.range 8).map fun i => byteAt base.mem (a + i)) := by
    intro a ha
    rw [peekNat, restoring_peek_base 1 a 8 (by omega) (by omega)]
  have q1 : peekNat (restoring 1) 0x100000 8 = 2 ^ 63 + 0x101000 := (hq _ (by simp)).trans (by decide +kernel)
  have q2 : peekNat (restoring 1) 0x101000 8 = 2 ^ 63 + 0x102000 := (hq _ (by simp)).trans (by decide +kernel)
  have q3 : peekNat (restoring 1) 0x102000 8 = 2 ^ 63 + 2 ^ 62 + 0x63 := (hq _ (by simp)).trans (by decide +kernel)
  have w1 : ∀ rest, walkFrom (restoring 1) 0 ((5, 48, 8) :: rest) 0x100000 = walkFrom (restoring 1) 0 rest 0x101000 := fun rest => by
    rw [walk_zero _ hx hr hl _ rest _ _ q1]
    rfl
  have w2 : ∀ rest, walkFrom (restoring 1) 0 ((4, 39, 9) :: rest) 0x101000 = walkFrom (restoring 1) 0 rest 0x102000 := fun rest => by
    rw [walk_zero _ hx hr hl _ rest _ _ q2]
    rfl
  unfold walkLevels
  rw [w1, w2, walk_zero _ hx hr hl _ _ _ _ q3]
  rfl
theorem witness_RestoreFinds : Memory.wf (restoring 1).mem = true ∧ readyB areaAt 8 (fun c => c.arg == 0) = true ∧ (areaAt.context 0).desc.root.toNat = 0x100000 ∧
    (([0, 1].map fun n => (shapeMatches (restoring n) 0, peekNat (restoring n) (0x500000 + 96) 8)) = [(true, 0), (true, 1)]) ∧
    paPkg (leafPa (BitVec.ofNat 64 (2 ^ 63 + 2 ^ 62 + 0x63)) 3 0) = 0 ∧ paRegion (leafPa (BitVec.ofNat 64 (2 ^ 63 + 2 ^ 62 + 0x63)) 3 0) = 0 ∧ ∀ j < 512, lineHeld (restoring 1) (128 * j) 1 = false := by
  refine ⟨wf_writeRun 0x500000 _ memInv_base, by decide +kernel, by decide +kernel, ?_, by decide +kernel, by decide +kernel, fun j _ => free_lines _ (restoring_plain 1).1 (restoring_plain 1).2.2.2.2 _ 1⟩
  simp only [List.map_cons, List.map_nil, restoring_shape, restoring_count 0 (by omega), restoring_count 1 (by omega)]


end Sys2Proof.Tests
end

section
/-! SUPPORT. The execution statements: REGANG, the issue checks, one step, groups with grants and queues. -/

namespace Sys2Proof.Proofs

open Sys2Proof Sys2Proof.Machine Sys2Proof.Claims

/-! ### Looking up and changing every entry -/

theorem mem_of_tget {α : Type} {t : Table α} {n : Nat} {x : α} (h : tget t n = some x) : (n, x) ∈ t := by
  induction t with
  | nil => cases h
  | cons e t ih =>
    obtain ⟨k, v⟩ := e
    unfold tget at h
    split at h
    · next e => cases h; rw [e]; exact .head _
    · split at h
      · cases h
      · exact .tail _ (ih h)

theorem tget_tmap {α : Type} (t : Table α) (f : Nat → α → α) (k : Nat) : tget (tmap t f) k = (tget t k).map (f k) := by
  induction t with
  | nil => rfl
  | cons e t ih =>
    obtain ⟨n, v⟩ := e
    simp only [tmap, List.map_cons, tget] at ih ⊢
    split
    · next h => subst h; rfl
    · split
      · rfl
      · exact ih

theorem tget_tmod {α : Type} (t : Table α) (k n : Nat) (f : α → α) : tget (tmod t k f) n = (tget t n).map fun x => if n = k then f x else x := by
  by_cases h : n = k
  · subst h
    cases e : tget t n with
    | none => simp [tmod, e]
    | some x => simp [tget_tmod_self f e]
  · rw [tget_tmod_ne _ _ h]; simp [h]

theorem tmod_eq_tput {α : Type} {t : Table α} {k : Nat} {x : α} (h : tget t k = some x) (f : α → α) : tmod t k f = tput t k (f x) := by
  simp [tmod, h]

/-! ### The paths of a wave -/

theorem mem_valid {d : Div} {p : Nat} : p ∈ d.valid ↔ p < 8 ∧ (d.path p).mask ≠ 0 := by
  simp [Div.valid]

theorem path_setPath (d : Div) {p q : Nat} (x : Path) (hp : p < 8) : (d.setPath p x).path q = if q = p then x else d.path q := by
  by_cases h : q = p
  · subst h; simp [hp]
  · rw [path_setPath_ne _ _ h, if_neg h]

/-- The path that issues is live. -/
theorem issueCtx_live {s : State} {c : Ctx} (h : issueCtx s = some c) : c.p ∈ c.w.div.valid := by
  unfold issueCtx at h
  split at h
  · dsimp only at h
    split at h
    · cases h
    · next hb =>
      simp only [Bool.or_eq_true, not_or, decide_eq_true_eq, beq_iff_eq] at hb
      cases h
      exact mem_valid.2 ⟨Nat.lt_of_not_le hb.1.2, hb.1.1.2⟩
  · cases h

/-! ### Predicates -/

theorem preg_setPreg (w : Wave) (d n : Nat) (x : Word) (hd : d < 8) : (w.setPreg d x).preg n = if n = d ∧ n ≠ 0 then x else w.preg n := by
  by_cases h : n = d
  · subst h
    by_cases h0 : n = 0
    · subst h0; simp [Wave.setPreg]
    · rw [preg_setPreg_self w x h0 hd, if_pos ⟨rfl, h0⟩]
  · rw [preg_setPreg_ne w x h, if_neg fun e => h e.1]

/-! ### The end of an instruction that leaves its wave's paths -/

/-- The wave that an instruction has changed to `w`, its paths as they were, goes on. -/
theorem advance_goesOn {s u : State} {c : Ctx} {w : Wave} (hi : issueCtx s = some c) (hw : tget u.waves c.key = some w) (hd : w.div = c.w.div)
    (pc : Dword) : tget (advance u c pc).waves c.key = some (w.after c pc (u.epoch + 1)) ∧ GoesOn c (w.after c pc (u.epoch + 1)) pc ∧
      LatchesStay c (w.after c pc (u.epoch + 1)) := by
  obtain ⟨-, -, hpath, hp, -⟩ := issueCtx_some hi
  refine ⟨tget_tmod_self _ hw, ?_, ?_⟩
  · exact after_goesOn _ _ hp (by rw [hd, hpath]) (fun q _ => by rw [hd]) (fun k => by rw [hd])
  · rw [LatchesStay, after_latches _ _ hp, hd, hpath]

/-- An instruction that has changed its wave by `f`, which leaves the paths, and is done. -/
theorem advance_waveDone {s u : State} {c : Ctx} (hi : issueCtx s = some c) (f : Wave → Wave) (pc : Dword)
    (hw : tget u.waves c.key = some (f c.w)) (ho : ∀ k, k ≠ c.key → tget u.waves k = tget s.waves k)
    (he : u = { s with waves := u.waves, draws := u.draws, epoch := u.epoch }) (hd : (f c.w).div = c.w.div) (hr : (f c.w).retry = c.w.retry) :
    WaveDone s (advance u c pc) c pc f := by
  obtain ⟨-, hgoes, hlatches⟩ := advance_goesOn hi hw hd pc
  refine ⟨_, advance_onlyWave hw ho he, hgoes, hlatches, ?_⟩
  rw [after_rest, Wave.retryAfter, hr]; rfl

theorem next_waveDone {s : State} {c : Ctx} (hi : issueCtx s = some c) (f : Wave → Wave) (hd : (f c.w).div = c.w.div) (hr : (f c.w).retry = c.w.retry) :
    WaveDone s (finish s c (.next (s.modWave c.key f))) c (c.path.pc + 4) f :=
  advance_waveDone (u := s.modWave c.key f) hi f _ (tget_tmod_self f (issueCtx_some hi).1) (fun _ hk => tget_tmod_ne _ f hk) rfl hd hr

theorem setPreg_waveDone {s : State} {c : Ctx} (hi : issueCtx s = some c) (d : Nat) (x : Word) :
    WaveDone s (finish s c (.next (s.modWave c.key fun w => w.setPreg d x))) c (c.path.pc + 4) fun w => w.setPreg d x :=
  next_waveDone hi _ (by rw [setPreg_rest]) (by rw [setPreg_rest])

/-! ### Merging at REGANG (R46) -/

/-- The divergence state in which a path is parked at REGANG. -/
def parkAt (d : Div) (p : Nat) : Div := d.setPath p { d.path p with hold := .regang }

/-- The paths that stand where path `low` stands. -/
def meeting (d : Div) (low : Nat) : List Nat := d.valid.filter fun p => (d.path p).pc.toNat == (d.path low).pc.toNat

/-- The entry of the path that goes on once the paths that meet at `low` have joined it. -/
def joinedPath (d : Div) (low stamp : Nat) : Path :=
  let q := if 1 < (meeting d low).length then (d.path low).dropLatches else d.path low
  Path.stepped { q with
    mask := (meeting d low).foldl (fun (m : BitVec 8) p => m ||| (d.path p).mask) 0, pc := q.pc + 4, hold := .none, readyAt := stamp
    kept := false, skipBreak := false, waitedLong := false, stepping := (meeting d low).any fun p => (d.path p).stepping }

/-- The divergence state once the paths that meet at `low` have joined it. -/
def joinAt (d : Div) (low stamp : Nat) : Div :=
  (((meeting d low).filter (· != low)).foldl (fun d p => d.setPath p Path.free) d).setPath low (joinedPath d low stamp)

/-- The path that goes on: of the live paths at the lowest address, that of the lowest index. -/
structure Lowest (d : Div) (low : Nat) : Prop where
  live : low ∈ d.valid
  least : ∀ p ∈ d.valid, (d.path low).pc.toNat ≤ (d.path p).pc.toNat
  first : ∀ p ∈ d.valid, (d.path p).pc = (d.path low).pc → low ≤ p

theorem exists_least (f : Nat → Nat) {l : List Nat} (h : l ≠ []) : ∃ a ∈ l, ∀ b ∈ l, f a ≤ f b := by
  induction l with
  | nil => exact absurd rfl h
  | cons x l ih =>
    by_cases hl : l = []
    · subst hl
      exact ⟨x, .head _, fun b hb => Nat.le_of_eq (congrArg f (List.mem_singleton.1 hb).symm)⟩
    · obtain ⟨a, ha, hm⟩ := ih hl
      by_cases hx : f x ≤ f a
      · exact ⟨x, .head _, List.forall_mem_cons.2 ⟨Nat.le_refl _, fun b hb => Nat.le_trans hx (hm b hb)⟩⟩
      · exact ⟨a, .tail _ ha, List.forall_mem_cons.2 ⟨Nat.le_of_not_le hx, hm⟩⟩

theorem exists_lowest {d : Div} (h : d.valid ≠ []) : ∃ low, Lowest d low := by
  obtain ⟨low, hl, hm⟩ := exists_least (fun p => 8 * (d.path p).pc.toNat + p) h
  have h8 := (mem_valid.1 hl).1
  refine ⟨low, hl, fun p hp => ?_, fun p hp he => ?_⟩
  · have := hm p hp
    have := (mem_valid.1 hp).1
    omega
  · have := hm p hp
    rw [he] at this
    omega

theorem mem_meeting {d : Div} {low p : Nat} : p ∈ meeting d low ↔ p ∈ d.valid ∧ (d.path p).pc = (d.path low).pc := by
  simp [meeting, BitVec.toNat_inj]

theorem foldl_min_eq (f : Nat → Nat) (m : Nat) : ∀ (l : List Nat) (a : Nat), (∀ p ∈ l, m ≤ f p) → m ≤ a → (a = m ∨ ∃ p ∈ l, f p = m) →
    l.foldl (fun m p => min m (f p)) a = m
  | [], a, _, _, h => by simpa using h
  | x :: l, a, hl, ha, h => by
    refine foldl_min_eq f m l (min a (f x)) (fun p hp => hl p (.tail _ hp)) (Nat.le_min.2 ⟨ha, hl x (.head _)⟩) ?_
    have hx := hl x (.head _)
    rcases h with rfl | ⟨p, hp, rfl⟩
    · exact .inl (Nat.min_eq_left hx)
    · rcases List.mem_cons.1 hp with rfl | hp
      · exact .inl (Nat.min_eq_right ha)
      · exact .inr ⟨p, hp, rfl⟩

theorem headD_of_least {l : List Nat} (hs : l.Pairwise (· < ·)) {low : Nat} (hl : low ∈ l) (hm : ∀ p ∈ l, low ≤ p) (d : Nat) : l.headD d = low := by
  cases l with
  | nil => cases hl
  | cons a l =>
    rcases List.mem_cons.1 hl with rfl | h
    · rfl
    · exact absurd ((List.pairwise_cons.1 hs).1 low h) (Nat.not_lt.2 (hm a (.head _)))

theorem path_foldl_free (l : List Nat) (d : Div) (q : Nat) (hl : ∀ p ∈ l, p < 8) :
    (l.foldl (fun d p => d.setPath p Path.free) d).path q = if q ∈ l then Path.free else d.path q := by
  induction l generalizing d with
  | nil => simp
  | cons a l ih =>
    rw [List.foldl_cons, ih _ fun p hp => hl p (.tail _ hp), path_setPath _ _ (hl a (.head _))]
    by_cases h : q ∈ l <;> simp [h]

theorem strands_foldl_free (l : List Nat) (d : Div) : (l.foldl (fun d p => d.setPath p Path.free) d).strands = d.strands := by
  induction l generalizing d with
  | nil => rfl
  | cons a l ih => rw [List.foldl_cons, ih]; rfl

theorem getLsbD_foldl_or (f : Nat → BitVec 8) (k : Nat) (l : List Nat) (m : BitVec 8) :
    (l.foldl (fun m p => m ||| f p) m).getLsbD k = true ↔ m.getLsbD k = true ∨ ∃ p ∈ l, (f p).getLsbD k = true := by
  induction l generalizing m with
  | nil => simp
  | cons a l ih => rw [List.foldl_cons, ih]; simp [-BitVec.getLsbD_eq_getElem, or_assoc]

/-- A wave with a path that is not parked waits for it. -/
theorem mergeRegang_waits {w : Wave} {p : Nat} (hv : p ∈ w.div.valid) (hp : (w.div.path p).hold ≠ .regang) (n : Nat) : mergeRegang w n = w := by
  have h : (w.div.valid.all fun p => (w.div.path p).atRegang) = false := by
    simp only [List.all_eq_false, Path.atRegang]
    exact ⟨p, hv, by simpa using hp⟩
  simp [mergeRegang, h]

/-- A wave whose paths are all parked lets those at the lowest address join. -/
theorem mergeRegang_joins {w : Wave} {low : Nat} (hp : ∀ p ∈ w.div.valid, (w.div.path p).hold = .regang) (h : Lowest w.div low) (n : Nat) :
    mergeRegang w n = { w with div := joinAt w.div low n } := by
  have ha : (w.div.valid.all fun p => (w.div.path p).atRegang) = true := by
    simp only [List.all_eq_true, Path.atRegang]
    exact fun p h => by simp [hp p h]
  have he : w.div.valid.isEmpty = false := by simpa using List.ne_nil_of_mem h.live
  have hf := foldl_min_eq (fun p => (w.div.path p).pc.toNat) _ w.div.valid (2 ^ 64) h.least (Nat.le_of_lt (BitVec.isLt _)) (.inr ⟨low, h.live, rfl⟩)
  have hh : (meeting w.div low).headD 0 = low :=
    headD_of_least ((List.pairwise_lt_range.filter _).filter _) (mem_meeting.2 ⟨h.live, rfl⟩)
      (fun p hm => h.first p (mem_meeting.1 hm).1 (mem_meeting.1 hm).2) 0
  unfold meeting at hh
  simp only [mergeRegang, ha, he, hf, hh, Bool.not_true, Bool.or_self, Bool.false_eq_true, if_false]
  rfl

theorem mergeRegang_cases {w : Wave} (hv : w.div.valid ≠ []) (n : Nat) :
    mergeRegang w n = w ∨ ∃ low, Lowest w.div low ∧ mergeRegang w n = { w with div := joinAt w.div low n } := by
  by_cases hp : ∀ p ∈ w.div.valid, (w.div.path p).hold = .regang
  · obtain ⟨low, hl⟩ := exists_lowest hv
    exact .inr ⟨low, hl, mergeRegang_joins hp hl n⟩
  · simp only [Classical.not_forall] at hp
    obtain ⟨p, hm, hp⟩ := hp
    exact .inl (mergeRegang_waits hm hp n)

/-! ### What the merged paths hold -/

section
variable {d : Div} {low : Nat} (n : Nat)

theorem joinAt_path_low (hl : low ∈ d.valid) : (joinAt d low n).path low = joinedPath d low n := path_setPath_self _ _ (mem_valid.1 hl).1

theorem joinAt_path_ne {q : Nat} (hq : q ≠ low) :
    (joinAt d low n).path q = if q ∈ meeting d low then Path.free else d.path q := by
  rw [joinAt, path_setPath_ne _ _ hq, path_foldl_free _ _ _ fun p hp => (mem_valid.1 (mem_meeting.1 (List.mem_filter.1 hp).1).1).1]
  simp [hq]

theorem joinAt_strands : (joinAt d low n).strands = d.strands := strands_foldl_free _ _

theorem joinedPath_pc : (joinedPath d low n).pc = (d.path low).pc + 4 := by
  rw [joinedPath, stepped_pc]; dsimp only; split <;> rfl

theorem joinedPath_hold : (joinedPath d low n).hold = if ((meeting d low).any fun p => (d.path p).stepping) then .debug else .none := by
  rw [joinedPath, Path.stepped]
  dsimp only
  split <;> simp_all

theorem joinedPath_mask {k : Nat} : (joinedPath d low n).mask.getLsbD k = true ↔ ∃ p ∈ meeting d low, (d.path p).mask.getLsbD k = true := by
  rw [joinedPath, stepped_mask]; dsimp only; rw [getLsbD_foldl_or]; simp

theorem one_lt_length_iff {l : List Nat} {a : Nat} (hn : l.Nodup) (ha : a ∈ l) : 1 < l.length ↔ ∃ p ∈ l, p ≠ a := by
  match l, hn with
  | [b], _ => simp [List.mem_singleton.1 ha]
  | b :: x :: l, hn =>
    have hb : x ≠ b := fun e => (List.nodup_cons.1 hn).1 (e ▸ .head _)
    refine iff_of_true (by simp) ?_
    by_cases h : b = a
    · exact ⟨x, .tail _ (.head _), h ▸ hb⟩
    · exact ⟨b, .head _, h⟩

theorem one_lt_meeting (hl : low ∈ d.valid) : 1 < (meeting d low).length ↔ ∃ p ∈ meeting d low, p ≠ low :=
  one_lt_length_iff ((List.nodup_range.filter _).filter _) (mem_meeting.2 ⟨hl, rfl⟩)

theorem joinedPath_latches :
    (joinedPath d low n).latches = if 1 < (meeting d low).length then (d.path low).dropLatches.latches else (d.path low).latches := by
  rw [joinedPath, stepped_latches]; dsimp only; split <;> rfl

theorem dropLatches_valid (q : Path) {j : Nat} (hj : j < 3) : (vget q.dropLatches.latches j Latch.empty).valid = false := by
  simp [vget, Path.dropLatches, hj]
end

/-! ### Parking a path -/

section
variable {d : Div} {p : Nat} (hp : p < 8) (q : Nat)
include hp

theorem parkAt_path : (parkAt d p).path q = if q = p then { d.path q with hold := .regang } else d.path q := by
  rw [parkAt, path_setPath _ _ hp]
  split
  · next h => rw [h]
  · rfl

theorem parkAt_path_parked (h : q = p ∨ (d.path q).hold = .regang) : (parkAt d p).path q = { d.path q with hold := .regang } := by
  rw [parkAt_path hp]
  split
  · rfl
  · next hq => rw [← h.resolve_left hq]

theorem parkAt_mask : ((parkAt d p).path q).mask = (d.path q).mask := by rw [parkAt_path hp]; split <;> rfl
theorem parkAt_pc : ((parkAt d p).path q).pc = (d.path q).pc := by rw [parkAt_path hp]; split <;> rfl
theorem parkAt_latches : ((parkAt d p).path q).latches = (d.path q).latches := by rw [parkAt_path hp]; split <;> rfl
theorem parkAt_stepping : ((parkAt d p).path q).stepping = (d.path q).stepping := by rw [parkAt_path hp]; split <;> rfl

theorem parkAt_hold : ((parkAt d p).path q).hold = .regang ↔ q = p ∨ (d.path q).hold = .regang := by
  rw [parkAt_path hp]; split <;> simp_all

theorem mem_valid_parkAt : q ∈ (parkAt d p).valid ↔ q ∈ d.valid := by rw [mem_valid, mem_valid, parkAt_mask hp]

theorem mem_meeting_parkAt {low : Nat} : q ∈ meeting (parkAt d p) low ↔ q ∈ meeting d low := by
  rw [mem_meeting, mem_meeting, mem_valid_parkAt hp, parkAt_pc hp, parkAt_pc hp]
end

/-! ### REGANG (R46, R523) -/

theorem countSkid_rest (w : Wave) : w.countSkid = { w with heldSibling := w.countSkid.heldSibling } := by
  unfold Wave.countSkid; split <;> (try split) <;> rfl

/-- An instruction that has set its wave's paths itself changes only its wave. -/
theorem whole_onlyWave {s : State} {c : Ctx} (hi : issueCtx s = some c) (f : Wave → Wave) :
    OnlyWave s (finish s c (.whole (s.modWave c.key f))) c (f c.w).countSkid :=
  ⟨tget_tmod_self _ (tget_tmod_self f (issueCtx_some hi).1), fun _ hk => (tget_tmod_ne _ _ hk).trans (tget_tmod_ne _ f hk), rfl⟩

section
variable {w : Wave} (hv : w.div.valid ≠ []) (n : Nat)
include hv

theorem mergeRegang_rest : mergeRegang w n = { w with div := (mergeRegang w n).div } := by
  rcases mergeRegang_cases hv n with h | ⟨low, -, h⟩ <;> rw [h]

theorem mergeRegang_strands : (mergeRegang w n).div.strands = w.div.strands := by
  rcases mergeRegang_cases hv n with h | ⟨low, -, h⟩ <;> rw [h]
  exact joinAt_strands n

theorem mergeRegang_free {q : Nat} (hm : (w.div.path q).mask = 0) : (mergeRegang w n).div.path q = w.div.path q := by
  have hq : q ∉ w.div.valid := fun h => (mem_valid.1 h).2 hm
  rcases mergeRegang_cases hv n with h | ⟨low, hl, h⟩ <;> rw [h]
  have hne : q ≠ low := fun e => hq (by rw [e]; exact hl.live)
  exact (joinAt_path_ne n hne).trans (if_neg fun hg => hq (mem_meeting.1 hg).1)
end

/-- The issuing wave once its path is parked. -/
def parkedWave (c : Ctx) : Wave := { c.w with div := parkAt c.w.div c.p }

section
variable {c : Ctx} (hp : c.p < 8) (n : Nat)
include hp

theorem parkedWave_waits {p : Nat} (hl : p ∈ c.w.div.valid) (hn : ¬(p = c.p ∨ (c.w.div.path p).hold = .regang)) :
    mergeRegang (parkedWave c) n = parkedWave c :=
  mergeRegang_waits (w := parkedWave c) ((mem_valid_parkAt hp p).2 hl) (fun hh => hn ((parkAt_hold hp p).1 hh)) n

theorem parkedWave_joins (hall : ∀ p ∈ c.w.div.valid, p = c.p ∨ (c.w.div.path p).hold = .regang) {low : Nat} (h : Lowest c.w.div low) :
    mergeRegang (parkedWave c) n = { parkedWave c with div := joinAt (parkAt c.w.div c.p) low n } := by
  refine mergeRegang_joins (w := parkedWave c) (fun p hv => (parkAt_hold hp p).2 (hall p ((mem_valid_parkAt hp p).1 hv))) ?_ n
  obtain ⟨hl, hm, hf⟩ := h
  refine ⟨(mem_valid_parkAt hp _).2 hl, fun p hv => ?_, fun p hv he => ?_⟩
  · rw [parkedWave, parkAt_pc hp, parkAt_pc hp]
    exact hm p ((mem_valid_parkAt hp p).1 hv)
  · rw [parkedWave, parkAt_pc hp, parkAt_pc hp] at he
    exact hf p ((mem_valid_parkAt hp p).1 hv) he
end

/-- Settles O23: the path is parked, and then `mergeRegang_cases` says what becomes of the paths. -/
theorem regangParksAndMerges : Obligations.RegangParksAndMerges := by
  intro s c h
  obtain ⟨-, -, -, hp, -⟩ := issueCtx_some h.issues
  have hc := issueCtx_live h.issues
  have hv : (parkedWave c).div.valid ≠ [] := List.ne_nil_of_mem ((mem_valid_parkAt hp _).2 hc)
  refine ⟨_, (mergeRegang (parkedWave c) (s.epoch + 1)).countSkid, run_passes h _, whole_onlyWave h.issues _, ?_, ?_⟩
  · rw [countSkid_rest, mergeRegang_rest hv]; rfl
  simp only [countSkid_div, ← mem_valid, List.mem_filter, List.mem_range, decide_eq_true_eq]
  refine ⟨mergeRegang_strands hv _, fun q hq hm => ?_, ?_, ?_⟩
  · rw [mergeRegang_free hv _ ((parkAt_mask hp q).trans hm)]
    exact (parkAt_path hp q).trans (if_neg fun e => (mem_valid.1 hc).2 (by rw [← e]; exact hm))
  · rintro ⟨p, hl, hn⟩
    rw [parkedWave_waits hp _ hl hn]
    exact ⟨(parkAt_path hp _).trans (if_pos rfl), fun q hq => (parkAt_path hp q).trans (if_neg hq)⟩
  · intro hall low hl hmin hfirst
    rw [parkedWave_joins hp _ hall ⟨hl, hmin, hfirst⟩]
    dsimp only
    have hl' := (mem_valid_parkAt hp low).2 hl
    rw [joinAt_path_low _ hl']
    have hmeet (p : Nat) : p ∈ meeting (parkAt c.w.div c.p) low ↔ p ∈ c.w.div.valid ∧ (c.w.div.path p).pc = (c.w.div.path low).pc := by
      rw [mem_meeting_parkAt hp, mem_meeting]
    have hjoin : 1 < (meeting (parkAt c.w.div c.p) low).length ↔
        ∃ p, p ∈ c.w.div.valid ∧ p ≠ low ∧ (c.w.div.path p).pc = (c.w.div.path low).pc := by
      simp only [one_lt_meeting hl', hmeet, and_assoc, and_comm]
    have hstep : ((meeting (parkAt c.w.div c.p) low).any fun p => ((parkAt c.w.div c.p).path p).stepping) = true ↔
        ∃ p, (p ∈ c.w.div.valid ∧ (c.w.div.path p).pc = (c.w.div.path low).pc) ∧ (c.w.div.path p).stepping = true := by
      simp only [List.any_eq_true, hmeet, parkAt_stepping hp]
    refine ⟨?_, fun hs hn => ?_, fun hs => ?_, fun hn => ?_, fun hj j hj3 => ?_, fun k hk => ?_, fun p hv hne he => ?_, fun p hv hne => ?_⟩
    · rw [joinedPath_pc, parkAt_pc hp]
    · rw [joinedPath_hold, if_neg]
      intro h
      obtain ⟨p, ⟨hv, he⟩, hps⟩ := hstep.1 h
      by_cases hpl : p = low
      · rw [hpl, hs] at hps; cases hps
      · rw [hn p ⟨hv, hpl, he⟩] at hps; cases hps
    · rw [joinedPath_hold, if_pos (hstep.2 _)]
      rcases hs with hs | ⟨p, ⟨hv, -, he⟩, hs⟩
      · exact ⟨low, ⟨hl, rfl⟩, hs⟩
      · exact ⟨p, ⟨hv, he⟩, hs⟩
    · rw [joinedPath_latches, if_neg fun h => let ⟨p, h⟩ := hjoin.1 h; hn p h, parkAt_latches hp]
    · rw [joinedPath_latches, if_pos (hjoin.2 hj), dropLatches_valid _ hj3]
    · simp only [joinedPath_mask, hmeet, parkAt_mask hp, and_assoc]
    · rw [joinAt_path_ne _ hne, if_pos ((hmeet p).2 ⟨hv, he⟩)]; rfl
    · have hpl : p ≠ low := fun e => hne (by rw [e])
      rw [joinAt_path_ne _ hpl, if_neg fun h => hne ((hmeet p).1 h).2, parkAt_path_parked hp p (hall p hv)]

/-! ### Groups (R51) -/

theorem gjoin_done (g : BitVec 4) {s : State} {c : Ctx} (h : Passes s (.gjoin g) { inTx := false } c) : ∃ t, exec (.gjoin g) s = .next t ∧
    WaveDone s t c (c.path.pc + 4) fun w => { w with groups := w.groups ||| (1#16 <<< g.toNat) } :=
  ⟨_, run_passes h _, next_waveDone h.issues _ rfl rfl⟩

theorem gleave_done (g : BitVec 4) {s : State} {c : Ctx} (h : Passes s (.gleave g) { inTx := false } c) : ∃ t, exec (.gleave g) s = .next t ∧
    WaveDone s t c (c.path.pc + 4) fun w => { w with groups := w.groups &&& ~~~(1#16 <<< g.toNat) } :=
  ⟨_, run_passes h _, next_waveDone h.issues _ rfl rfl⟩

/-! ### Grants of extended registers (R59, R219) -/

/-- A change of a line by a wave reaches the read sets of the other waves alone. -/
theorem markChanged_other (s : State) (wr : Option Nat) (p : Place) {k : Nat} {x : Wave} (h : tget s.waves k = some x) :
    ∃ x', tget (markChanged s wr p).waves k = some x' ∧ x' = { x with txn := { x.txn with reads := x'.txn.reads } } := by
  simp only [markChanged, tget_tmap, h, Option.map_some]
  refine ⟨_, rfl, ?_⟩
  split <;> rfl

theorem markChanged_self (s : State) (k : Nat) (p : Place) : tget (markChanged s (some k) p).waves k = tget s.waves k := by
  rw [markChanged, tget_tmap]
  cases tget s.waves k <;> simp

/-- The state in which the issuing wave has become `w` and its crew's pool has `free` blocks, told to the waves that watch the pool. -/
def withPool (s : State) (c : Ctx) (w : Wave) (y : Crew) (free : Nat) : State :=
  markChanged { s with waves := tput s.waves c.key w, crews := tput s.crews (keyCrewKey c.key) { y with poolFree := free } } (some c.key)
    (poolPlace (keyCrewKey c.key))

theorem withPool_wave (s : State) (c : Ctx) (w : Wave) (y : Crew) (free : Nat) : tget (withPool s c w y free).waves c.key = some w := by
  rw [withPool, markChanged_self]; exact tget_tput_self _ _ _

/-- An instruction that has moved a block between the pool and its wave, and is done. -/
theorem withPool_moved {s u : State} {c : Ctx} {w : Wave} {y : Crew} {free : Nat} (pc : Dword)
    (ho : ∀ k, k ≠ c.key → tget u.waves k = tget (withPool s c w y free).waves k)
    (hu : u = { withPool s c w y free with waves := u.waves }) : GrantMoved s (advance u c pc) c free y := by
  refine ⟨by rw [hu]; rfl, fun k x hk hx => ?_, by rw [hu]; rfl⟩
  obtain ⟨x', hx', he⟩ := markChanged_other { s with waves := tput s.waves c.key w, crews := tput s.crews (keyCrewKey c.key) { y with poolFree := free } }
    (some c.key) (poolPlace (keyCrewKey c.key)) ((tget_tput_ne s.waves w hk).trans hx)
  exact ⟨x', (tget_tmod_ne _ _ hk).trans ((ho k hk).trans hx'), he⟩

/-- A wave that has been granted a block. -/
def granted (w : Wave) : Wave := { w with grant := true, vregs := grantedRegs w }

theorem returnGrant_eq {s : State} {c : Ctx} {y : Crew} (hw : tget s.waves c.key = some c.w) (hy : tget s.crews (keyCrewKey c.key) = some y)
    (hg : c.w.grant = true) : returnGrant s c.key = withPool s c { c.w with grant := false } y (y.poolFree + 1) := by
  simp only [returnGrant, hw, hg, if_true, State.setWave, tmod_eq_tput hy]
  rfl

theorem takeBlock_eq {s : State} {c : Ctx} {y : Crew} (hw : tget s.waves c.key = some c.w) (hy : tget s.crews (keyCrewKey c.key) = some y) :
    takeBlock s c.key = withPool s c (granted c.w) y (y.poolFree - 1) := by
  simp only [takeBlock, State.modWave, tmod_eq_tput hy, tmod_eq_tput hw]
  rfl

theorem grantedRegs_base (w : Wave) {n : Nat} (h : n < 128) : vget (grantedRegs w) n VReg.zero = w.vreg n := by
  simp [grantedRegs, vget, Wave.vreg, show n < 256 by omega, show ¬128 ≤ n by omega]

theorem grantedRegs_extended (w : Wave) {n : Nat} (h : 128 ≤ n) (hn : n < 256) :
    vget (grantedRegs w) n VReg.zero = { VReg.zero with undef := BitVec.allOnes 128 } := by
  simp [grantedRegs, vget, h, hn]

section
variable {s : State} {c : Ctx}

theorem rrel_done (h : Passes s .rrel { inTx := false } c) :
    (c.w.grant = false → ∃ t, exec .rrel s = .next t ∧ WaveDone s t c (c.path.pc + 4) id) ∧
    ∀ y, c.w.grant = true → tget s.crews (keyCrewKey c.key) = some y →
      ∃ t w, exec .rrel s = .next t ∧ tget t.waves c.key = some w ∧ GoesOn c w (c.path.pc + 4) ∧ LatchesStay c w ∧
        w = { c.w with div := w.div, retry := c.w.retryAfter c.p, heldSibling := w.heldSibling, grant := false } ∧ GrantMoved s t c (y.poolFree + 1) y := by
  obtain ⟨hw, -, hpath, hp, -⟩ := issueCtx_some h.issues
  refine ⟨fun hg => ⟨_, run_passes h _, ?_⟩, fun y hg hy => ?_⟩
  · rw [show returnGrant s c.key = s by simp [returnGrant, hw, hg]]
    exact advance_waveDone (u := s) h.issues id _ hw (fun _ _ => rfl) rfl rfl rfl
  · have hr := run_passes h fun c => .next (returnGrant s c.key)
    rw [returnGrant_eq hw hy hg] at hr
    obtain ⟨hwave, hgoes, hlatches⟩ := advance_goesOn h.issues (withPool_wave s c { c.w with grant := false } y (y.poolFree + 1)) rfl (c.path.pc + 4)
    refine ⟨_, _, hr, hwave, hgoes, hlatches, ?_, withPool_moved (w := { c.w with grant := false }) _ (fun _ _ => rfl) rfl⟩
    rw [after_rest]; rfl

theorem racq_stays (d : BitVec 3) (h : Passes s (.racq d) {} c) (ht : c.w.txn.depth = 0)
    (hg : c.w.grant = true ∨ (s.crew (keyCrewKey c.key)).poolFree = 0) :
    ∃ t, exec (.racq d) s = .next t ∧ WaveDone s t c (c.path.pc + 4) fun w => w.setPreg d.toNat (if c.w.grant then 0xFFFFFFFF else 0) := by
  refine ⟨_, (exec_racq s d).trans (run_passes h _), ?_⟩
  simp only [ht, beq_self_eq_true, if_true, Bool.false_eq_true, if_false]
  by_cases hc : c.w.grant = true
  · simp only [hc, if_true]
    exact setPreg_waveDone h.issues _ _
  · simp only [hc, hg.resolve_left hc, beq_self_eq_true, if_true]
    exact setPreg_waveDone h.issues _ _

theorem racq_takes (d : BitVec 3) (h : Passes s (.racq d) {} c) (ht : c.w.txn.depth = 0) (y : Crew) (hg : c.w.grant = false)
    (hy : tget s.crews (keyCrewKey c.key) = some y) (hf : y.poolFree ≠ 0) :
    ∃ t w, exec (.racq d) s = .next t ∧ tget t.waves c.key = some w ∧ GoesOn c w (c.path.pc + 4) ∧ LatchesStay c w ∧ w.grant = true ∧
      (∀ n < 128, w.vreg n = c.w.vreg n) ∧ (∀ n < 256, 128 ≤ n → (w.vreg n).tag = 0) ∧
      (∀ n < 8, w.preg n = if n = d.toNat then 0xFFFFFFFF else c.w.preg n) ∧ w.sregs = c.w.sregs ∧ w.groups = c.w.groups ∧ w.txn = c.w.txn ∧
      GrantMoved s t c (y.poolFree - 1) y := by
  obtain ⟨hw, -, hpath, hp, -⟩ := issueCtx_some h.issues
  have hr : exec (.racq d) s = .next (finish s c (.next ((withPool s c (granted c.w) y (y.poolFree - 1)).modWave c.key fun w => w.setPreg d.toNat 0xFFFFFFFF))) := by
    have hfree : (s.crew (keyCrewKey c.key)).poolFree = y.poolFree := by rw [State.crew, tgetD, hy]; rfl
    rw [exec_racq, execRacq, run_passes h]
    simp only [ht, hg, hfree, beq_iff_eq, hf, beq_self_eq_true, if_true, Bool.false_eq_true, if_false, takeBlock_eq hw hy]
  have hu : tget ((withPool s c (granted c.w) y (y.poolFree - 1)).modWave c.key fun w => w.setPreg d.toNat 0xFFFFFFFF).waves c.key =
    some ((granted c.w).setPreg d.toNat 0xFFFFFFFF) := tget_tmod_self _ (withPool_wave ..)
  obtain ⟨hwave, hgoes, hlatches⟩ := advance_goesOn h.issues hu (by rw [setPreg_rest]; rfl) (c.path.pc + 4)
  refine ⟨_, _, hr, hwave, hgoes, hlatches, ?_, fun n hn => ?_, fun n hn h128 => ?_, fun n hn => ?_, ?_, ?_, ?_, ?_⟩
  · rw [after_rest, setPreg_rest]; rfl
  · rw [after_rest, setPreg_rest]; exact grantedRegs_base c.w hn
  · rw [after_rest, setPreg_rest]; exact congrArg VReg.tag (grantedRegs_extended c.w h128 hn)
  · rw [after_rest]
    refine (preg_setPreg (granted c.w) _ n _ d.isLt).trans ?_
    by_cases h0 : n = 0
    · simp [h0, Wave.preg]
    · simp only [h0, ne_eq, not_false_iff, and_true]
      rfl
  · rw [after_rest, setPreg_rest]; rfl
  · rw [after_rest, setPreg_rest]; rfl
  · rw [after_rest, setPreg_rest]; rfl
  · exact withPool_moved (w := granted c.w) _ (fun k hk => tget_tmod_ne _ _ hk) rfl
end

/-! ### Byte tables whose keys are in order -/

theorem keysFrom_setByte {t : Table Byte} (a : Nat) (b : Byte) (h : keysFrom 0 t = true) : keysFrom 0 (setByte t a b) = true := by
  unfold setByte tset
  split
  · exact keysFrom_tdel h
  · exact keysFrom_tput (Nat.zero_le _) h

theorem byteAt_setByte {t : Table Byte} (a c : Nat) (b : Byte) (h : keysFrom 0 t = true) :
    byteAt (setByte t a b) c = if c = a then b else byteAt t c := by
  unfold byteAt setByte tset tgetD
  by_cases hc : c = a
  · subst hc
    split
    · next e => simp [tget_tdel_self _ h, e]
    · simp
  · split
    · simp [tget_tdel_ne h hc]
    · simp [tget_tput_ne _ _ hc]

theorem keysFrom_writeRun {t : Table Byte} (a : Nat) (bs : List Byte) (h : keysFrom 0 t = true) : keysFrom 0 (writeRun t a bs) = true := by
  induction bs generalizing t a with
  | nil => exact h
  | cons b bs ih => exact ih _ (keysFrom_setByte a b h)

theorem byteAt_writeRun {t : Table Byte} (a : Nat) (bs : List Byte) (h : keysFrom 0 t = true) (o : Nat) :
    byteAt (writeRun t a bs) o = if a ≤ o ∧ o < a + bs.length then bs.getD (o - a) 0 else byteAt t o := by
  induction bs generalizing t a with
  | nil => rw [writeRun, if_neg (by simp)]
  | cons b bs ih =>
    rw [writeRun, ih _ (keysFrom_setByte a b h), byteAt_setByte _ _ _ h, List.length_cons]
    by_cases ho : o = a
    · subst ho
      rw [if_neg (by omega), if_pos rfl, if_pos (by omega), Nat.sub_self, List.getD_cons_zero]
    · by_cases hr : a + 1 ≤ o ∧ o < a + 1 + bs.length
      · rw [if_pos hr, if_pos (by omega), show o - a = o - (a + 1) + 1 by omega, List.getD_cons_succ]
      · rw [if_neg hr, if_neg ho, if_neg (by omega)]

/-- A number of four bytes stands where it is written. -/
theorem byteAt_writeRun_bytesOf {t : Table Byte} (a v : Nat) (h : keysFrom 0 t = true) (o : Nat) :
    byteAt (writeRun t a (bytesOf 4 v)) o = if a ≤ o ∧ o < a + 4 then byte4 a v o else byteAt t o := by
  rw [byteAt_writeRun _ _ h, show (bytesOf 4 v).length = 4 by simp [bytesOf]]
  split
  · next ho =>
    have hi : o - a < 4 := by omega
    have hp : 2 ^ (8 * (o - a)) = 256 ^ (o - a) := by rw [Nat.pow_mul]
    simp [bytesOf, byte4, List.getD_eq_getElem?_getD, hi, hp]
  · rfl

/-! ### What queue operations do to scratch and to their wave -/

/-- The bytes of a crew's scratch, where the crew is placed. -/
def scratchAt (s : State) (j : Nat) : Option (Table Byte) := (tget s.crews j).map (·.scratch)

theorem crew_scratch (s : State) (j : Nat) : (s.crew j).scratch = (scratchAt s j).getD [] := by
  unfold State.crew tgetD scratchAt
  cases tget s.crews j <;> rfl

/-- Two waves with the same paths, strands and registers. -/
structure SameRegs (w w' : Wave) : Prop where
  div : w'.div = w.div
  sregs : w'.sregs = w.sregs
  pregs : w'.pregs = w.pregs
  vregs : w'.vregs = w.vregs

theorem SameRegs.setPreg {w w' : Wave} (h : SameRegs w w') (d : Nat) (x : Word) : SameRegs (w.setPreg d x) (w'.setPreg d x) := by
  unfold Wave.setPreg
  split
  · exact h
  · exact ⟨h.div, h.sregs, by simp [h.pregs], h.vregs⟩

theorem SameRegs.setSreg {w w' : Wave} (h : SameRegs w w') (v : Nat) (x : Dword) : SameRegs (w.setSreg v x) (w'.setSreg v x) := by
  unfold Wave.setSreg
  split
  · exact h
  · exact ⟨h.div, by simp [h.sregs], h.pregs, h.vregs⟩

/-- A queue operation under way: its wave has the paths and registers of `w`, of all scratches that of crew `k` has changed, by `g`, and memory and the
stacks' copies are those of `s`. -/
structure Midway (s u : State) (key : Nat) (w : Wave) (k : Nat) (g : Table Byte → Table Byte) : Prop where
  wave : ∃ w', tget u.waves key = some w' ∧ SameRegs w w'
  scratch : ∀ j, scratchAt u j = (scratchAt s j).map fun t => if j = k then g t else t
  mem : u.mem = s.mem
  copies : u.copies = s.copies

theorem Midway.start {s : State} {key : Nat} {w : Wave} (h : tget s.waves key = some w) (k : Nat) : Midway s s key w k id :=
  ⟨⟨w, h, rfl, rfl, rfl, rfl⟩, fun _ => by simp, rfl, rfl⟩

theorem scratchAt_tmod (u : State) (k j : Nat) (f : Crew → Crew) :
    scratchAt { u with crews := tmod u.crews k f } j = (tget u.crews j).map fun y => if j = k then (f y).scratch else y.scratch := by
  simp only [scratchAt, tget_tmod, Option.map_map]
  congr 1; funext y; simp only [Function.comp]; split <;> rfl

theorem scratchAt_tmod_kept (u : State) (k j : Nat) (f : Crew → Crew) (hf : ∀ y, (f y).scratch = y.scratch) :
    scratchAt { u with crews := tmod u.crews k f } j = scratchAt u j := by
  rw [scratchAt_tmod]; simp [hf, scratchAt]

section
variable {s u : State} {key : Nat} {w : Wave} {k : Nat} {g : Table Byte → Table Byte}

/-- A change of the state beside waves, scratch, memory and copies. -/
theorem Midway.beside {u' : State} (h : Midway s u key w k g) (hw : u'.waves = u.waves)
    (hb : ∀ j, scratchAt u' j = scratchAt u j) (hm : u'.mem = u.mem) (hc : u'.copies = u.copies) : Midway s u' key w k g :=
  ⟨hw ▸ h.wave, fun j => (hb j).trans (h.scratch j), hm.trans h.mem, hc.trans h.copies⟩

/-- A change of the wave that takes the registers and paths of `w` to those of `f' w`. -/
theorem Midway.modWave (h : Midway s u key w k g) (f f' : Wave → Wave) (hf : ∀ w', SameRegs w w' → SameRegs (f' w) (f w')) :
    Midway s (u.modWave key f) key (f' w) k g := by
  obtain ⟨⟨w', hw, hs⟩, hb, hm, hc⟩ := h
  exact ⟨⟨f w', tget_tmod_self f hw, hf w' hs⟩, hb, hm, hc⟩

/-- A change of the wave that leaves its registers and paths. -/
theorem Midway.quiet (h : Midway s u key w k g) (f : Wave → Wave) (hf : ∀ w', SameRegs w' (f w')) : Midway s (u.modWave key f) key w k g :=
  h.modWave f id fun w' hw => ⟨(hf w').div.trans hw.div, (hf w').sregs.trans hw.sregs, (hf w').pregs.trans hw.pregs, (hf w').vregs.trans hw.vregs⟩

theorem Midway.foldl {β : Type} (f : State → β → State) (hf : ∀ u x, Midway s u key w k g → Midway s (f u x) key w k g) (l : List β) :
    ∀ u, Midway s u key w k g → Midway s (l.foldl f u) key w k g := by
  induction l with
  | nil => exact fun _ h => h
  | cons x l ih => exact fun u h => ih _ (hf u x h)

theorem Midway.markChanged (h : Midway s u key w k g) (p : Place) : Midway s (markChanged u (some key) p) key w k g := by
  obtain ⟨⟨w', hw, hs⟩, hb, hm, hc⟩ := h
  refine ⟨⟨w', ?_, hs⟩, hb, hm, hc⟩
  simp [Machine.markChanged, tget_tmap, hw]

theorem Midway.freeTile (h : Midway s u key w k g) (crew t site : Nat) : Midway s (freeTile u crew t site) key w k g :=
  h.beside rfl (fun j => scratchAt_tmod_kept u crew j _ fun _ => rfl) rfl rfl

theorem Midway.noteMatrix (h : Midway s u key w k g) (crew off n : Nat) : Midway s (noteMatrix u crew off n) key w k g :=
  Midway.foldl _ (fun _ _ h => h.freeTile _ _ _) _ _ (h.beside rfl (fun _ => rfl) rfl rfl)

theorem Midway.noteStores (h : Midway s u key w k g) (writer : Option Nat) (crew : Nat) (lines : List Nat) :
    Midway s (noteStores u writer crew lines) key w k g :=
  h.beside rfl (fun j => scratchAt_tmod_kept u crew j _ fun _ => rfl) rfl rfl

theorem Midway.writeScratch (h : Midway s u key w k g) (off : Nat) (bs : List Byte) :
    Midway s (writeScratch u (some key) k off bs) key w k fun t => writeRun (g t) off bs := by
  have h1 : Midway s { u with crews := tmod u.crews k fun x => { x with scratch := writeRun x.scratch off bs } } key w k fun t => writeRun (g t) off bs := by
    refine ⟨h.wave, fun j => ?_, h.mem, h.copies⟩
    have hj : scratchAt { u with crews := tmod u.crews k fun x => { x with scratch := writeRun x.scratch off bs } } j =
        (scratchAt u j).map fun t => if j = k then writeRun t off bs else t := by
      rw [scratchAt_tmod, scratchAt, Option.map_map]; rfl
    rw [hj, h.scratch j, Option.map_map]
    congr 1; funext t
    by_cases e : j = k <;> simp [e]
  have h2 := Midway.foldl (fun s l => Machine.markChanged s (some key) (scratchPlace k l)) (fun _ l h => h.markChanged (scratchPlace k l))
    (linesOf off bs.length) _ h1
  exact (h2.noteMatrix _ _ _).noteStores _ _ _

theorem Midway.acquireFor (h : Midway s u key w k g) (core : Nat) : Midway s (acquireFor u key core 1) key w k g := by
  have h1 : Midway s (acquireClean u core 1) key w k g := h.beside rfl (fun _ => rfl) rfl rfl
  exact h1.quiet _ fun _ => ⟨rfl, rfl, rfl, rfl⟩
end

section
variable {s u : State} {c : Ctx} {w : Wave} {k : Nat} {g : Table Byte → Table Byte}

theorem Midway.queueWrite (h : Midway s u c.key w (crewKey (keyConvoy c.key) k) g) (off : Nat) (bs : List Byte) :
    Midway s (queueWrite u c k off bs) c.key w (crewKey (keyConvoy c.key) k) fun t => writeRun (g t) off bs :=
  (h.writeScratch off bs).beside rfl (fun _ => rfl) rfl rfl

theorem Midway.countQueue (h : Midway s u c.key w k g) (q : Queue) (slot : Nat) : Midway s (countQueue u c q slot) c.key w k g := by
  unfold Machine.countQueue
  split
  · exact h
  · refine Midway.foldl _ (fun u x h => ?_) _ _ h
    have h1 (ops : Table ScratchAccess) (n : Nat) : Midway s { u with scratchOps := ops, nextId := n } c.key w k g :=
      h.beside rfl (fun _ => rfl) rfl rfl
    exact (h1 _ _).quiet (fun w => { w with remoteStores := w.remoteStores + 1 }) fun _ => ⟨rfl, rfl, rfl, rfl⟩
end

/-! ### What a queue operation finds -/

/-- The crew whose scratch holds a queue. -/
abbrev queueCrew (s : State) (c : Ctx) (k : Nat) : Crew := s.crew (crewKey (keyConvoy c.key) k)

/-- A queue operation reaches the descriptor at offset `off` of crew `k`'s scratch: the address passes its checks, no window keeps the wave off, nothing
is poisoned, and no wait applies (R112, R217, R218). -/
structure Reaches (s : State) (c : Ctx) (ea : Dword) (k off : Nat) : Prop where
  decoded : decodeEa (keyCrew c.key) ea = .scratch k off
  aligned : ea.toNat % 128 = 0
  crew : k < c.conv.card.crews
  inside : off + 256 ≤ (queueCrew s c k).scratchSize
  windows : ∀ l, 128 * l < (queueCrew s c k).scratchSize → windowCause s (keyConvoy c.key) k (keyCrew c.key) l true = none
  sound : ∀ l, s.poisoned.contains (scratchPoison (crewKey (keyConvoy c.key) k) l) = false
  free : streamHeld c 0 = false
  room : k ≠ keyCrew c.key → c.w.remoteStores.toNat + 3 ≤ 0xFFFF
  released : releaseWaits s c.key 0 = false

/-- The slot that an operation touches lies in the ring (R217). -/
def InRing (slotOf : Queue → Option Nat) : Prop := ∀ q slot, slotOf q = some slot → slot < q.ring + 4 * 2 ^ q.capl

theorem slot_lt (q : Queue) (n : Nat) : q.slot n < q.ring + 4 * 2 ^ q.capl := by
  have := Nat.mod_lt n (Nat.two_pow_pos q.capl)
  unfold Queue.slot
  omega

theorem pushSlot_inRing : InRing Queue.pushSlot := fun q slot h => by
  unfold Queue.pushSlot at h
  split at h
  · cases h
  · cases h; exact slot_lt q _

theorem popSlot_inRing : InRing Queue.popSlot := fun q slot h => by
  unfold Queue.popSlot at h
  split at h
  · cases h
  · cases h; exact slot_lt q _

theorem queueOk_iff (q : Queue) (size : Nat) : q.ok size = true ↔ q.capl ≤ 12 ∧ q.ring % 4 = 0 ∧ q.ring + 4 * 2 ^ q.capl ≤ size := by
  simp [Queue.ok, and_assoc]

section
variable {s : State} {c : Ctx} {ea : Dword} {k off : Nat} (h : Reaches s c ea k off)
include h

theorem Reaches.firstCause : firstCause s c [(ea, 256, 128, .scratch)] = none := by
  have : addrCause s c ea 256 128 .scratch = none := by
    simp [addrCause, h.decoded, h.aligned, h.crew, h.inside]
  simp [Machine.firstCause, this]

theorem Reaches.findQueue {slotOf : Queue → Option Nat} (hr : InRing slotOf) :
    findQueue s c ea slotOf = .ok (readQueue s (keyConvoy c.key) k off) := by
  have hin := h.inside
  have hl : ∀ l ∈ [off / 128, off / 128 + 1] ++ (if (readQueue s (keyConvoy c.key) k off).ok (queueCrew s c k).scratchSize = true
      then (slotOf (readQueue s (keyConvoy c.key) k off)).toList.map (· / 128) else []),
      windowCause s (keyConvoy c.key) k (keyCrew c.key) l true = none := by
    intro l hl
    refine h.windows l ?_
    rcases List.mem_append.1 hl with hl | hl
    · simp only [List.mem_cons, List.not_mem_nil, or_false] at hl
      omega
    · split at hl
      · next hok =>
        simp only [List.mem_map, Option.mem_toList] at hl
        obtain ⟨slot, hs, rfl⟩ := hl
        have := hr _ slot hs
        have := ((queueOk_iff _ _).1 hok).2.2
        omega
      · cases hl
  have hf := List.findSome?_eq_none_iff.2 hl
  simp only [Machine.findQueue, h.firstCause, h.decoded, hf]

theorem Reaches.queueFull : queueFull c (readQueue s (keyConvoy c.key) k off) = false := by
  by_cases hk : k = keyCrew c.key
  · simp [Machine.queueFull, readQueue, hk]
  · have := h.room hk
    simp [Machine.queueFull, readQueue]
    omega

theorem Reaches.queuePoison (slot : Option Nat) : queuePoison s c (readQueue s (keyConvoy c.key) k off) slot = false := by
  simp only [Machine.queuePoison, List.any_eq_false]
  exact fun l _ => Bool.eq_false_iff.1 (h.sound l)

theorem Reaches.loadsOut : loadsOut s c.key 0 = [] := by
  have := h.released
  simp_all [releaseWaits]

theorem Reaches.scratchOut : scratchOut s c.key 0 = [] := by
  have := h.released
  simp_all [releaseWaits]

theorem Reaches.scratchAt : scratchAt s (crewKey (keyConvoy c.key) k) = some (queueCrew s c k).scratch := by
  have hin := h.inside
  cases e : tget s.crews (crewKey (keyConvoy c.key) k) with
  | none => simp [State.crew, tgetD, e] at hin
  | some y => simp [Proofs.scratchAt, State.crew, tgetD, e]
end

/-- The effect of a push on the queue that it finds (R218). -/
def pushEffect (s : State) (c : Ctx) (x : Queue) (d v : Nat) : State :=
  match x.pushSlot with
  | none => s.modWave c.key fun w => w.setPreg d 0
  | some slot =>
    let s := queueWrite s c x.crew slot (bytesOf 4 ((c.w.sreg v).toNat % 2 ^ 32))
    let s := queueWrite s c x.crew (x.off + 128) (bytesOf 4 ((x.tail + 1) % 2 ^ 32))
    (countQueue s c x slot).modWave c.key fun w => w.setPreg d 0xFFFFFFFF

/-- The effect of a pop on the queue that it finds, before its acquire (R218). -/
def popEffect (s : State) (c : Ctx) (x : Queue) (d v : Nat) : State :=
  match x.popSlot with
  | none => s.modWave c.key fun w => w.setPreg d 0
  | some slot =>
    let e := readNat (s.crew (crewKey (keyConvoy c.key) x.crew)).scratch slot 4
    let s := queueWrite s c x.crew x.off (bytesOf 4 ((x.head + 1) % 2 ^ 32))
    (countQueue s c x slot).modWave c.key fun w => (w.setPreg d 0xFFFFFFFF).setSreg v (BitVec.ofNat 64 e)

section
variable {s : State} {c : Ctx} {d : BitVec 3} {q v : BitVec 6} {k off : Nat} (h : Reaches s c (c.w.sreg q.toNat) k off)
include h

theorem exec_qpush_next (hp : Passes s (.qpush d q v) { inTx := false, onePath := true } c) :
    exec (.qpush d q v) s = .next (finish s c (.next
      (if (readQueue s (keyConvoy c.key) k off).ok (queueCrew s c k).scratchSize then
        pushEffect s c (readQueue s (keyConvoy c.key) k off) d.toNat v.toNat
      else queueUndefined s c (readQueue s (keyConvoy c.key) k off) d.toNat v.toNat))) := by
  rw [exec_qpush, execQpush, run_passes hp]
  simp only [h.findQueue pushSlot_inRing, h.free, h.released, h.queueFull, h.queuePoison, Bool.false_eq_true, if_false]
  rw [show (readQueue s (keyConvoy c.key) k off).crew = k from rfl, pushEffect]
  cases (readQueue s (keyConvoy c.key) k off).ok (queueCrew s c k).scratchSize
  · rfl
  · cases (readQueue s (keyConvoy c.key) k off).pushSlot <;> rfl

theorem exec_qpop_next (hp : Passes s (.qpop d q v) { inTx := false, onePath := true } c) :
    exec (.qpop d q v) s = .next (finish s c (.next (acquireFor
      (if (readQueue s (keyConvoy c.key) k off).ok (queueCrew s c k).scratchSize then
        popEffect s c (readQueue s (keyConvoy c.key) k off) d.toNat v.toNat
      else queueUndefined s c (readQueue s (keyConvoy c.key) k off) d.toNat v.toNat) c.key c.w.core 1))) := by
  rw [exec_qpop, execQpop, run_passes hp]
  simp only [h.findQueue popSlot_inRing, h.free, acquireOut, h.loadsOut, h.scratchOut, h.queueFull, h.queuePoison, List.any_nil, List.isEmpty_nil, Bool.not_true, Bool.or_self, Bool.false_eq_true, if_false]
  rw [show (readQueue s (keyConvoy c.key) k off).crew = k from rfl, popEffect]
  cases (readQueue s (keyConvoy c.key) k off).ok (queueCrew s c k).scratchSize
  · rfl
  · cases (readQueue s (keyConvoy c.key) k off).popSlot <;> rfl
end

/-! ### What is left at the end -/

/-- A wave whose predicate `d` holds `p`, and, where there is a value for it, whose scalar register `v` holds that. -/
def answered (w : Wave) (d v : Nat) (p : Word) (x : Option Dword) : Wave :=
  match x with
  | none => w.setPreg d p
  | some y => (w.setPreg d p).setSreg v y

section
variable (w : Wave) (d v : Nat) (p : Word) (x : Option Dword)

theorem answered_div : (answered w d v p x).div = w.div := by
  cases x <;> simp only [answered]
  · rw [setPreg_rest]
  · rw [setSreg_rest, setPreg_rest]

theorem answered_vregs : (answered w d v p x).vregs = w.vregs := by
  cases x <;> simp only [answered]
  · rw [setPreg_rest]
  · rw [setSreg_rest, setPreg_rest]

theorem answered_preg (n : Nat) (hd : d < 8) : (answered w d v p x).preg n = if n = d ∧ n ≠ 0 then p else w.preg n := by
  rw [← preg_setPreg w d n p hd]
  cases x
  · rfl
  · simp only [answered]; rw [setSreg_rest]; rfl

theorem answered_sreg (n : Nat) (hn : n < 64) : (answered w d v p x).sreg n = if n = v ∧ n ≠ 0 then x.getD (w.sreg n) else w.sreg n := by
  have hp : (w.setPreg d p).sreg n = w.sreg n := by rw [setPreg_rest]; rfl
  cases x
  · simpa [answered] using hp
  · rw [answered, sreg_setSreg _ _ _ _ hn, hp]; rfl
end

theorem SameRegs.answered {w w' : Wave} (h : SameRegs w w') (d v : Nat) (p : Word) (x : Option Dword) :
    SameRegs (answered w d v p x) (answered w' d v p x) := by
  cases x
  · exact h.setPreg d p
  · exact (h.setPreg d p).setSreg v _

theorem SameRegs.sreg {w w' : Wave} (h : SameRegs w w') (n : Nat) : w'.sreg n = w.sreg n := by simp only [Wave.sreg, h.sregs]
theorem SameRegs.preg {w w' : Wave} (h : SameRegs w w') (n : Nat) : w'.preg n = w.preg n := by simp only [Wave.preg, h.pregs]

/-- A queue operation that ends with the predicate and the scalar set. -/
theorem Midway.done {s u : State} {c : Ctx} {g : Table Byte → Table Byte} {b : Table Byte} {d v k : Nat} {p : Word} {x : Option Dword}
    {f : Nat → Byte} (hi : issueCtx s = some c) (hd : d < 8) (h : Midway s u c.key (answered c.w d v p x) k g)
    (hb : scratchAt s k = some b) (hf : ∀ o, byteAt (g b) o = f o) : QueueDone s (finish s c (.next u)) c k d v p x f := by
  obtain ⟨⟨w, hw, hs⟩, hscratch, hm, hc⟩ := h
  obtain ⟨hwave, hgoes, hlatches⟩ := advance_goesOn hi hw (hs.div.trans (answered_div ..)) (c.path.pc + 4)
  have hscr (j : Nat) : ((finish s c (.next u)).crew j).scratch = ((scratchAt s j).map fun t => if j = k then g t else t).getD [] := by
    rw [← hscratch, ← crew_scratch]; rfl
  refine ⟨_, hwave, hgoes, hlatches, fun n _ => ?_, fun n hn => ?_, ?_, fun o => ?_, fun j hj => ?_, hm, hc⟩
  · rw [after_rest]
    exact (hs.preg n).trans (answered_preg _ _ _ _ _ _ hd)
  · rw [after_rest]
    exact (hs.sreg n).trans (answered_sreg _ _ _ _ _ _ hn)
  · rw [after_vregs, hs.vregs, answered_vregs]
  · rw [hscr, hb, Option.map_some, if_pos rfl]; exact hf o
  · rw [hscr, crew_scratch]; simp [hj]

/-! ### The endings of a queue operation -/

theorem Reaches.keys {s : State} {c : Ctx} {ea : Dword} {k off : Nat} (h : Reaches s c ea k off) (hb : BytesInv s) :
    keysFrom 0 (queueCrew s c k).scratch = true := by
  have hs := h.scratchAt
  obtain ⟨y, hy, he⟩ := Option.map_eq_some_iff.1 hs
  rw [← he]
  obtain ⟨-, -, -, -, hc, -⟩ := hb
  exact (hc _ (mem_of_tget hy)).1

section
variable {s : State} {c : Ctx} {ea : Dword} {k off : Nat} (h : Reaches s c ea k off) (hi : issueCtx s = some c) (hb : BytesInv s)
  {x : Queue} (hx : x.crew = k) (d v : Nat)

/-- A push that finds its queue full, and a pop that finds it empty, answer zero. -/
theorem refused_midway (hi : issueCtx s = some c) (k : Nat) : Midway s (s.modWave c.key fun w => w.setPreg d 0) c.key (answered c.w d v 0 none) k id :=
  (Midway.start (issueCtx_some hi).1 k).modWave _ (fun w => w.setPreg d 0) fun _ hw => hw.setPreg d 0

include hi hx in
/-- A push that finds room writes its slot and TAIL. -/
theorem pushed_midway {slot : Nat} (hs : x.pushSlot = some slot) :
    Midway s (pushEffect s c x d v) c.key (answered c.w d v 0xFFFFFFFF none) (crewKey (keyConvoy c.key) k) fun t =>
      writeRun (writeRun t slot (bytesOf 4 ((c.w.sreg v).toNat % 2 ^ 32))) (x.off + 128) (bytesOf 4 ((x.tail + 1) % 2 ^ 32)) := by
  subst hx
  simp only [pushEffect, hs]
  exact ((((Midway.start (issueCtx_some hi).1 _).queueWrite _ _).queueWrite _ _).countQueue x slot).modWave _ (fun w => w.setPreg d 0xFFFFFFFF)
    fun _ hw => hw.setPreg d _

include hi hx in
/-- A pop that finds an element writes HEAD and answers the element. -/
theorem popped_midway {slot : Nat} (hs : x.popSlot = some slot) :
    Midway s (popEffect s c x d v) c.key
      (answered c.w d v 0xFFFFFFFF (some (BitVec.ofNat 64 (readNat (queueCrew s c k).scratch slot 4))))
      (crewKey (keyConvoy c.key) k) fun t => writeRun t x.off (bytesOf 4 ((x.head + 1) % 2 ^ 32)) := by
  subst hx
  simp only [popEffect, hs]
  exact (((Midway.start (issueCtx_some hi).1 _).queueWrite _ _).countQueue x slot).modWave _ (fun w => answered w d v 0xFFFFFFFF (some _))
    fun _ hw => hw.answered d v _ _

include hi hx in
/-- An operation on a malformed queue writes the descriptor and what lies of the ring in the scratch. -/
theorem undefined_midway : ∃ p y desc ring, List.length desc = 256 ∧
    List.length ring = min ((queueCrew s c k).scratchSize - x.ring) (4 * 2 ^ x.capl) ∧
    Midway s (queueUndefined s c x d v) c.key (answered c.w d v p (some y)) (crewKey (keyConvoy c.key) k) fun t =>
      writeRun (writeRun t x.off desc) x.ring ring := by
  subst hx
  refine ⟨_, _, _, _, ?_, ?_, ((((Midway.start (issueCtx_some hi).1 _).queueWrite _ _).queueWrite _ _)).modWave _ (fun w => answered w d v _ (some _))
    fun _ hw => hw.answered d v _ _⟩
  · simp
  · simp
end

/-! ### Queues as R217 lays them out -/

theorem byte4_mod (a v o : Nat) (h : o < a + 4) : byte4 a (v % 2 ^ 32) o = byte4 a v o := by
  have hi : o - a = 0 ∨ o - a = 1 ∨ o - a = 2 ∨ o - a = 3 := by omega
  unfold byte4
  refine BitVec.eq_of_toNat_eq ?_
  simp only [BitVec.toNat_ofNat]
  rcases hi with e | e | e | e <;> rw [e] <;> omega

section
variable {s : State} {c : Ctx} {k off head capl ring tail : Nat}

theorem readQueue_of (h : QueueAt (queueCrew s c k).scratch (queueCrew s c k).scratchSize off head capl ring tail) :
    readQueue s (keyConvoy c.key) k off = { crew := k, off := off, head := head, capl := capl, ring := ring, tail := tail } := by
  obtain ⟨h1, h2, h3, h4, -⟩ := h
  simp only [readQueue, Nat.add_zero, h1, h2, h3, h4]

theorem queueAt_iff (hx : readQueue s (keyConvoy c.key) k off = { crew := k, off := off, head := head, capl := capl, ring := ring, tail := tail }) :
    QueueAt (queueCrew s c k).scratch (queueCrew s c k).scratchSize off head capl ring tail ↔
      (readQueue s (keyConvoy c.key) k off).ok (queueCrew s c k).scratchSize = true := by
  rw [queueOk_iff, hx]
  simp only [readQueue, Queue.mk.injEq, Nat.add_zero, true_and] at hx
  obtain ⟨h1, h2, h3, h4⟩ := hx
  simp [QueueAt, h1, h2, h3, h4]
end

section
variable {s : State} {c : Ctx} {d : BitVec 3} {q v : BitVec 6} {k off head capl ring tail : Nat} (h : Reaches s c (c.w.sreg q.toNat) k off)
  (hb : BytesInv s)
include h hb

theorem qpush_done (hq : QueueAt (queueCrew s c k).scratch (queueCrew s c k).scratchSize off head capl ring tail)
    (hp : Passes s (.qpush d q v) { inTx := false, onePath := true } c) :
    ∃ t, exec (.qpush d q v) s = .next t ∧
      if 2 ^ capl ≤ (tail + 2 ^ 32 - head) % 2 ^ 32 then
        QueueDone s t c (crewKey (keyConvoy c.key) k) d.toNat v.toNat 0 none (byteAt (queueCrew s c k).scratch)
      else
        let slot := ring + 4 * (tail % 2 ^ capl)
        QueueDone s t c (crewKey (keyConvoy c.key) k) d.toNat v.toNat 0xFFFFFFFF none fun o =>
          if off + 128 ≤ o ∧ o < off + 132 then byte4 (off + 128) ((tail + 1) % 2 ^ 32) o
          else if slot ≤ o ∧ o < slot + 4 then byte4 slot (c.w.sreg v.toNat).toNat o
          else byteAt (queueCrew s c k).scratch o := by
  have hx := readQueue_of hq
  refine ⟨_, exec_qpush_next h hp, ?_⟩
  rw [if_pos ((queueAt_iff hx).1 hq), hx]
  split
  · next hfull =>
    refine Midway.done (g := id) hp.issues d.isLt ?_ h.scratchAt fun _ => rfl
    simp only [pushEffect, Queue.pushSlot, hfull, if_true]
    exact refused_midway _ _ hp.issues _
  · next hroom =>
    refine Midway.done hp.issues d.isLt (pushed_midway hp.issues rfl _ _ (slot := ring + 4 * (tail % 2 ^ capl)) ?_) h.scratchAt fun o => ?_
    · simp only [Queue.pushSlot, hroom, if_false]; rfl
    · dsimp only
      rw [byteAt_writeRun_bytesOf _ _ (keysFrom_writeRun _ _ (h.keys hb)), byteAt_writeRun_bytesOf _ _ (h.keys hb)]
      by_cases hs : ring + 4 * (tail % 2 ^ capl) ≤ o ∧ o < ring + 4 * (tail % 2 ^ capl) + 4
      · rw [byte4_mod _ _ _ hs.2]
      · rw [if_neg hs, if_neg hs]

theorem qpop_done (hq : QueueAt (queueCrew s c k).scratch (queueCrew s c k).scratchSize off head capl ring tail)
    (hp : Passes s (.qpop d q v) { inTx := false, onePath := true } c) :
    ∃ t, exec (.qpop d q v) s = .next t ∧
      if tail = head then
        QueueDone s t c (crewKey (keyConvoy c.key) k) d.toNat v.toNat 0 none (byteAt (queueCrew s c k).scratch)
      else
        QueueDone s t c (crewKey (keyConvoy c.key) k) d.toNat v.toNat 0xFFFFFFFF
          (some (BitVec.ofNat 64 (readNat (queueCrew s c k).scratch (ring + 4 * (head % 2 ^ capl)) 4))) fun o =>
          if off ≤ o ∧ o < off + 4 then byte4 off ((head + 1) % 2 ^ 32) o else byteAt (queueCrew s c k).scratch o := by
  have hx := readQueue_of hq
  refine ⟨_, exec_qpop_next h hp, ?_⟩
  rw [if_pos ((queueAt_iff hx).1 hq), hx]
  split
  · next hempty =>
    refine Midway.done (g := id) hp.issues d.isLt (Midway.acquireFor ?_ _) h.scratchAt fun _ => rfl
    simp only [popEffect, Queue.popSlot, hempty, beq_self_eq_true, if_true]
    exact refused_midway _ _ hp.issues _
  · next hne =>
    refine Midway.done hp.issues d.isLt ((popped_midway hp.issues rfl _ _ (slot := ring + 4 * (head % 2 ^ capl)) ?_).acquireFor _) h.scratchAt
      fun o => byteAt_writeRun_bytesOf _ _ (h.keys hb) o
    simp [Queue.popSlot, hne, Queue.slot]

theorem queue_undefined_done
    (hx : readQueue s (keyConvoy c.key) k off = { crew := k, off := off, head := head, capl := capl, ring := ring, tail := tail })
    (hq : ¬QueueAt (queueCrew s c k).scratch (queueCrew s c k).scratchSize off head capl ring tail)
    (i : Instr) (hi : i = .qpush d q v ∨ i = .qpop d q v) (hp : Passes s i { inTx := false, onePath := true } c) :
    ∃ t p y f, exec i s = .next t ∧ QueueDone s t c (crewKey (keyConvoy c.key) k) d.toNat v.toNat p (some y) f ∧
      ∀ o, (o < off ∨ off + 256 ≤ o) →
        (o < ring ∨ min (queueCrew s c k).scratchSize (ring + 4 * 2 ^ capl) ≤ o) →
        f o = byteAt (queueCrew s c k).scratch o := by
  have hok := mt (queueAt_iff hx).2 hq
  obtain ⟨p, y, desc, rest, hd, hr, hm⟩ := undefined_midway hp.issues (x := readQueue s (keyConvoy c.key) k off) rfl d.toNat v.toNat
  have hframe (o : Nat) (ho : o < off ∨ off + 256 ≤ o)
      (hr' : o < ring ∨ min (queueCrew s c k).scratchSize (ring + 4 * 2 ^ capl) ≤ o) :
      byteAt (writeRun (writeRun (queueCrew s c k).scratch off desc) ring rest) o =
        byteAt (queueCrew s c k).scratch o := by
    rw [hx] at hr
    dsimp only at hr
    rw [byteAt_writeRun _ _ (keysFrom_writeRun _ _ (h.keys hb)), if_neg (by omega), byteAt_writeRun _ _ (h.keys hb), if_neg (by omega)]
  rw [hx] at hm
  rcases hi with rfl | rfl
  · refine ⟨_, p, y, _, exec_qpush_next h hp, ?_, hframe⟩
    rw [if_neg hok, hx]
    exact Midway.done hp.issues d.isLt hm h.scratchAt fun _ => rfl
  · refine ⟨_, p, y, _, exec_qpop_next h hp, ?_, hframe⟩
    rw [if_neg hok, hx]
    exact Midway.done hp.issues d.isLt (hm.acquireFor _) h.scratchAt fun _ => rfl
end

/-- Settles O42, instruction by instruction. -/
theorem groupsGrantsAndScratchQueues : Obligations.GroupsGrantsAndScratchQueues := by
  refine ⟨fun g _ _ => ⟨gjoin_done g, gleave_done g⟩, fun d _ _ h ht => ⟨racq_stays d h ht, racq_takes d h ht⟩, fun _ _ h => rrel_done h, ?_⟩
  intro d q v s c k off head capl ring tail ea crew b size x hbytes _ hdecoded haligned hfree hcrew hinside hwindows hsound hroom
  have hr (hreleased : releaseWaits s c.key 0 = false) : Reaches s c ea k off :=
    ⟨hdecoded, haligned, hcrew, hinside, hwindows, hsound, hfree, hroom, hreleased⟩
  exact ⟨fun hq => ⟨fun hp hreleased => qpush_done (hr hreleased) hbytes hq hp, fun hp hreleased => qpop_done (hr hreleased) hbytes hq hp⟩,
    fun hx hq hreleased i hi hp => queue_undefined_done (hr hreleased) hbytes hx hq i hi hp⟩

/-! ### An atomic of 64 bits at the last register of its group (R426) -/

/-- A wave in a transaction whose v127 holds elements of 64 bits: an atomic on it would take v127 and v128, which lie in two groups. -/
def pairAtEnd : State :=
  { placeWord State.reset 0 with cur := { wave := 0, path := 0 } }.modWave 0 fun w =>
    { w.setVreg 127 { VReg.zero with tag := 0xF } with txn := { w.txn with depth := 1 } }

/-- `atom.add v127, [s0]`: its word is legal, whatever v127 holds. -/
def atomAtEnd : Instr := .atomAdd 127 0 1 0 0 0

/-- The path in `pairAtEnd` issues in a transaction with no EXT pending, and its wave is left with another cause than UNSUPPORTED. -/
def atomAtEndTraps : Bool :=
  match issueCtx pairAtEnd, exec atomAtEnd pairAtEnd with
  | some c, .next t => pairAtEnd.loads.isEmpty && c.w.txn.depth != 0 && c.ext.kinds == 0 && (tget t.waves c.key).all fun w => w.txn.cause != 6
  | _, _ => false

theorem atomAtEndTraps_holds : atomAtEndTraps = true := by decide +kernel

/-- Refutes O20: a transaction does not refuse every atomic whose word is legal. An atomic on a register of 64-bit elements that stands last in its group
raises ILLEGAL_FIELD (R426, R393), which comes first (R403), and the attempt aborts with TRAP (R210). -/
theorem not_issueChecksStopAnInstructionBeforeItsEffect : ¬Obligations.IssueChecksStopAnInstructionBeforeItsEffect := by
  rintro ⟨-, -, hrefuse⟩
  have hev := atomAtEndTraps_holds
  unfold atomAtEndTraps at hev
  split at hev
  · next c t hc ht =>
    simp only [Bool.and_eq_true, bne_iff_ne, beq_iff_eq, List.isEmpty_iff] at hev
    obtain ⟨⟨⟨hloads, hdepth⟩, hkinds⟩, hcause⟩ := hev
    obtain ⟨t', ht', w, ⟨hw, -⟩, htxn, -⟩ := hrefuse atomAtEnd pairAtEnd c rfl ⟨(0xAE, 0xBF), by decide, by decide, by decide⟩
      ⟨hc, fun e he => by rw [hloads] at he; cases he⟩ hdepth hkinds (by decide) rfl rfl
    obtain rfl : t' = t := by rw [ht'] at ht; cases ht; rfl
    rw [hw, Option.all_some, htxn, bne_self_eq_false] at hcause
    cases hcause
  · cases hev

/-! ### An event ring that lies over code -/

/-- A wave at `sadd s1, s0, s0`, with `sadd s1, r, s0` after it, whose path a debugger lets issue one instruction (R354). The event ring of its context lies
over the two words. -/
def ringOverCode : State :=
  let s := placeWord State.reset 0x20018080
  let s := pokeBytes s (mkPa s.pkg 0 (fetchVa + 4)) (bytesOf 4 0x2001FC80)
  let s := s.modWave 0 fun w => { w with div := w.div.setPath 0 { w.div.path 0 with stepping := true } }
  s.setContext 0 { s.context 0 with evBase := BitVec.ofNat 64 (mkPa s.pkg 0 fetchVa) }

/-- The scheduler's choice in a state: path 0 of wave 0. -/
def choosing (n : State) : State := { n with cur := { wave := 0, path := 0 } }

/-- A scheduler that opens a new chain. -/
def freshSched (n : State) : Sched := { vget (n.core 0).scheds 0 Sched.initial with chain := 0 }

/-- A scheduler that is in no chain chooses the path that has been ready longest. -/
theorem selects_longestReady {n : State} (hchain : (vget (n.core 0).scheds 0 Sched.initial).chain = 0)
    (hready : longestReady (readyPaths n 0 0) = some (0, 0)) : Selects n 0 0 (freshSched n) 0 0 :=
  .inr ⟨rfl, fun _ _ h => h.2.1 hchain, hready⟩

/-- The count of the chain of a core's first scheduler. -/
def chainOf (s : State) : Nat := (vget (s.core 0).scheds 0 Sched.initial).chain

/-- What the statement says that an issue leaves: the chain is counted once a debugger's record has been written. -/
def countedLate (n : State) (c : Ctx) (word : Word) (t : State) : State :=
  settleTurn (setSched (noteStep t c) 0 0
    (selected (freshSched n) c 0 0 (chainAfter (noteStep t c) (decode word) (freshSched n).chain) (noteStep t c)))

/-- The chosen path meets every premise and does not wait, and the step of `s` leaves another chain than the statement says. -/
def countsEarlier (s n : State) : Bool :=
  match issueCtx (choosing n) with
  | none => false
  | some c => (breakpointHit (choosing n) c).isNone && match fetch (choosing n) c c.path.pc with
    | .word s' word =>
      !(checkUnit s' 0 (coreStack 0) (0 % 128) 0 c.conv.context).2 &&
      match exec (decode word) (selectPath (checkUnit s' 0 (coreStack 0) (0 % 128) 0 c.conv.context).1 (freshSched n) 0 0), step s with
      | .next t, .next z => !((t.pathOf 0 0).waitsAt (choosing n).epoch || (t.pathOf 0 0).waitsAt t.epoch) && chainOf z != chainOf (countedLate n c word t)
      | _, _ => false
    | _ => false

theorem ringOverCode_premises : ringOverCode.agenda = .issue 0 0 :: [] ∧ ringOverCode.issues = true ∧
    (ringOverCode.waves.all fun e => (asyncDue e.2).isNone) = true := by decide +kernel

theorem ringOverCode_counts :
    let n := noteWaits { ringOverCode with agenda := [] } 0 0
    (vget (n.core 0).scheds 0 Sched.initial).chain = 0 ∧ longestReady (readyPaths n 0 0) = some (0, 0) ∧ countsEarlier ringOverCode n = true := by
  decide +kernel

/-- Refutes O15: the chain is counted before the debugger's record is written (R357), and that record may lie over the path's next word. -/
theorem not_aStepRunsTheDecodedInstruction : ¬Obligations.AStepRunsTheDecodedInstruction := by
  rintro ⟨hstep, -⟩
  obtain ⟨hagenda, hissues, htraps⟩ := ringOverCode_premises
  have htrap : NoTrapDue ringOverCode 0 0 := fun e he _ _ _ => Option.isNone_iff_eq_none.1 (List.all_eq_true.1 htraps e he)
  have hcounts := ringOverCode_counts
  have h := fun sc c s' t word => hstep ringOverCode [] 0 0 0 0 sc c s' t word hagenda hissues htrap
  dsimp only at h hcounts
  generalize noteWaits { ringOverCode with agenda := [] } 0 0 = n at h hcounts
  obtain ⟨hchain, hready, hev⟩ := hcounts
  unfold countsEarlier at hev
  split at hev
  · cases hev
  next c hc =>
  obtain ⟨hbreak, hev⟩ := Bool.and_eq_true_iff.1 hev
  split at hev
  case h_2 => cases hev
  next s' word hfetch =>
  obtain ⟨hcheck, hev⟩ := Bool.and_eq_true_iff.1 hev
  split at hev
  case h_2 => cases hev
  next t z hexec hz =>
  obtain ⟨hwaits, hdiffer⟩ := Bool.and_eq_true_iff.1 hev
  have hnext := (h (freshSched n) c s' t word (selects_longestReady hchain hready) hc
    (Option.isNone_iff_eq_none.1 hbreak) hfetch (Bool.not_eq_true' _ ▸ hcheck) hexec).1 (Bool.not_eq_true' _ ▸ hwaits)
  rw [hz] at hnext
  cases hnext
  exact absurd rfl (bne_iff_ne.1 hdiffer)

end Sys2Proof.Proofs
end

section
/-! SUPPORT. The statement on rounding: the value of a code, the code of a rounded magnitude, the nearest value. -/

namespace Sys2Proof.Proofs

open Sys2Proof Sys2Proof.Machine

/-! ### What a code of a format stands for (R76, R77) -/

theorem signBit_eq (f : FFmt) : f.signBit = 2 ^ f.expo * 2 ^ f.frac := Nat.pow_add ..

theorem width_eq (f : FFmt) : 2 ^ f.width = 2 * f.signBit := by rw [FFmt.width, FFmt.signBit, Nat.add_assoc, Nat.pow_add, Nat.pow_one]

theorem signBit_pos (f : FFmt) : 0 < f.signBit := Nat.two_pow_pos _

theorem maxCode_lt_signBit (f : FFmt) : f.maxCode < f.signBit := by cases f <;> decide

theorem two_pow_frac_even (f : FFmt) : 2 ∣ 2 ^ f.frac := by cases f <;> decide

theorem signBit_even (f : FFmt) : 2 ∣ f.signBit := signBit_eq f ▸ Nat.dvd_mul_left_of_dvd (two_pow_frac_even f) _

/-- The sign bit of an encoding. -/
def signPart (f : FFmt) (neg : Bool) : Nat := if neg then f.signBit else 0

theorem signPart_false (f : FFmt) : signPart f false = 0 := rfl
theorem signPart_true (f : FFmt) : signPart f true = f.signBit := rfl

theorem signPart_even (f : FFmt) (neg : Bool) : 2 ∣ signPart f neg := by
  cases neg
  · exact Nat.dvd_zero 2
  · exact signBit_even f

theorem add_signPart_mod {f : FFmt} {c : Nat} (hc : c < f.signBit) (neg : Bool) : (c + signPart f neg) % f.signBit = c := by
  cases neg
  · rw [signPart_false, Nat.add_zero, Nat.mod_eq_of_lt hc]
  · rw [signPart_true, Nat.add_mod_right, Nat.mod_eq_of_lt hc]

theorem add_signPart_div {f : FFmt} {c : Nat} (hc : c < f.signBit) (neg : Bool) : ((c + signPart f neg) / f.signBit % 2 == 1) = neg := by
  cases neg
  · rw [signPart_false, Nat.add_zero, Nat.div_eq_of_lt hc]; rfl
  · rw [signPart_true, Nat.add_div_right _ (signBit_pos f), Nat.div_eq_of_lt hc]; rfl

/-- An encoding is its magnitude with its sign bit. -/
theorem mod_add_signPart {f : FFmt} {x : Nat} (hx : x < 2 ^ f.width) : x % f.signBit + signPart f (x / f.signBit % 2 == 1) = x := by
  have hdiv : x / f.signBit < 2 := Nat.div_lt_of_lt_mul (by rwa [Nat.mul_comm, ← width_eq])
  have hsum := Nat.mod_add_div x f.signBit
  obtain h | h := Nat.le_one_iff_eq_zero_or_eq_one.1 (Nat.le_of_lt_succ hdiv)
  · rw [h, Nat.mul_zero] at hsum
    rw [h]; exact hsum
  · rw [h, Nat.mul_one] at hsum
    rw [h]; exact hsum

/-- The integer significand of a code without its sign. -/
def significand (f : FFmt) (c : Nat) : Nat := if c / 2 ^ f.frac = 0 then c % 2 ^ f.frac else 2 ^ f.frac + c % 2 ^ f.frac

/-- The exponent of a code's last fraction bit, counted from that of the subnormals. -/
def binade (f : FFmt) (c : Nat) : Nat := c / 2 ^ f.frac - 1

theorem significand_of_subnormal {f : FFmt} {c : Nat} (h : c / 2 ^ f.frac = 0) : significand f c = c % 2 ^ f.frac := if_pos h

theorem significand_of_normal {f : FFmt} {c : Nat} (h : c / 2 ^ f.frac ≠ 0) : significand f c = 2 ^ f.frac + c % 2 ^ f.frac := if_neg h

/-- The codes above the largest finite one are those that R77 names. -/
theorem maxCode_lt_iff (f : FFmt) {c : Nat} (hc : c < f.signBit) :
    f.maxCode < c ↔ (f.hasInf = true ∧ f.infCode ≤ c) ∨ (f = .e4m3 ∧ c = 0x7F) := by
  cases f with
  | e4m3 =>
    have hlt : c < 128 := hc
    have hmax : FFmt.e4m3.maxCode = 126 := rfl
    exact ⟨fun h => .inr ⟨rfl, by omega⟩, fun h => h.elim (fun h => Bool.noConfusion h.1) fun h => by omega⟩
  | e2m1 => exact ⟨fun h => absurd hc (Nat.not_lt.2 h), fun h => h.elim (fun h => Bool.noConfusion h.1) fun h => FFmt.noConfusion h.1⟩
  | _ => exact ⟨fun h => .inl ⟨rfl, h⟩, fun h => h.elim (fun h => h.2) fun h => FFmt.noConfusion h.1⟩

/-- An encoding is finite where its magnitude is at most the largest finite one, and then has this value. -/
theorem decodeF_eq_fin {f : FFmt} {x : Nat} {neg : Bool} {m : Nat} {e : Int} :
    Machine.decodeF f x = .fin neg m e ↔ x % f.signBit ≤ f.maxCode ∧ (x / f.signBit % 2 == 1) = neg ∧
      significand f (x % f.signBit) = m ∧ f.emin + binade f (x % f.signBit) = e := by
  have hmax := maxCode_lt_iff f (Nat.mod_lt x (signBit_pos f))
  rw [← Nat.not_lt, hmax, not_or]
  unfold Machine.decodeF
  simp only [Bool.and_eq_true, decide_eq_true_eq, beq_iff_eq]
  split
  · next hinf => exact iff_of_false (by split <;> exact FVal.noConfusion) fun h => h.1.1 hinf
  · next hinf =>
    split
    · next hnan => exact iff_of_false FVal.noConfusion fun h => h.1.2 hnan
    · next hnan =>
      unfold significand binade
      split
      · next h0 => simp only [FVal.fin.injEq, hinf, hnan, h0, not_false_eq_true, true_and, Nat.zero_sub, Int.natCast_zero, Int.add_zero]
      · simp only [FVal.fin.injEq, hinf, hnan, not_false_eq_true, true_and]

/-- The decoded value of a magnitude with a sign. -/
theorem decodeF_add_signPart {f : FFmt} {c : Nat} (hc : c ≤ f.maxCode) (neg : Bool) :
    Machine.decodeF f (c + signPart f neg) = .fin neg (significand f c) (f.emin + binade f c) := by
  have hlt := Nat.lt_of_le_of_lt hc (maxCode_lt_signBit f)
  rw [decodeF_eq_fin, add_signPart_mod hlt, add_signPart_div hlt]
  exact ⟨hc, rfl, rfl, rfl⟩

theorem encodeF_zero (f : FFmt) (mode : Nat) (sat neg : Bool) (e : Int) : encodeF f mode sat (.fin neg 0 e) = signPart f neg := rfl

theorem encodeF_fin (f : FFmt) (mode : Nat) (sat neg : Bool) {m : Nat} (e : Int) (hm : m ≠ 0) : encodeF f mode sat (.fin neg m e) =
    if f.maxCode < magCode f mode neg m e then overflowF f mode sat neg else magCode f mode neg m e + signPart f neg :=
  if_neg fun h => hm (beq_iff_eq.1 h)

/-- The exponent of the unit to which a magnitude is rounded. -/
def unitExp (f : FFmt) (m : Nat) (e : Int) : Int := max (Nat.log2 m + e - f.frac) f.emin

theorem magCode_eq (f : FFmt) (mode : Nat) (neg : Bool) (m : Nat) (e : Int) : magCode f mode neg m e =
    (unitExp f m e - f.emin).toNat * 2 ^ f.frac + roundUnits mode neg m e (unitExp f m e) := rfl

theorem emin_le_unitExp (f : FFmt) (m : Nat) (e : Int) : f.emin ≤ unitExp f m e := Int.le_max_right ..

/-! ### A value that the format holds is not changed -/

theorem log2_two_pow_add {k r : Nat} (h : r < 2 ^ k) : Nat.log2 (2 ^ k + r) = k := by
  have hpos := Nat.two_pow_pos k
  rw [Nat.log2_eq_iff (by omega), Nat.pow_succ]; omega

/-- A significand of the format is measured in units of its own exponent. -/
theorem unitExp_significand {f : FFmt} {c : Nat} (hc : significand f c ≠ 0) :
    unitExp f (significand f c) (f.emin + binade f c) = f.emin + binade f c := by
  have hfrac := Nat.mod_lt c (Nat.two_pow_pos f.frac)
  unfold unitExp
  by_cases h0 : c / 2 ^ f.frac = 0
  · have hlog := (Nat.log2_lt hc).2 (by rwa [significand_of_subnormal h0])
    rw [binade, h0]; omega
  · rw [binade, significand_of_normal h0, log2_two_pow_add hfrac]; omega

/-- A code is its significand in its binade: the leading bit of a normal carries into the exponent. -/
theorem binade_mul_add_significand (f : FFmt) (c : Nat) : binade f c * 2 ^ f.frac + significand f c = c := by
  have hsum := Nat.div_add_mod c (2 ^ f.frac)
  by_cases h0 : c / 2 ^ f.frac = 0
  · rw [h0, Nat.mul_zero, Nat.zero_add] at hsum
    rw [significand_of_subnormal h0, hsum, binade, h0, Nat.zero_sub, Nat.zero_mul, Nat.zero_add]
  · obtain ⟨k, hk⟩ := Nat.exists_eq_succ_of_ne_zero h0
    rw [hk, Nat.mul_succ] at hsum
    rw [significand_of_normal h0, binade, hk, Nat.succ_sub_one, Nat.mul_comm]; omega

theorem roundUnits_exact (mode : Nat) (neg : Bool) (m : Nat) {e q : Int} (h : q ≤ e) : roundUnits mode neg m e q = m * 2 ^ (e - q).toNat :=
  if_pos h

theorem toNat_add_sub (q : Int) (k : Nat) : (q + k - q).toNat = k := by omega

/-- The code of a significand and exponent of the format is the code they come from. -/
theorem magCode_significand (f : FFmt) (mode : Nat) (neg : Bool) {c : Nat} (hc : significand f c ≠ 0) :
    magCode f mode neg (significand f c) (f.emin + binade f c) = c := by
  rw [magCode_eq, unitExp_significand hc, roundUnits_exact _ _ _ (Int.le_refl _), Int.sub_self, Int.toNat_zero, Nat.pow_zero, Nat.mul_one,
    toNat_add_sub, binade_mul_add_significand]

theorem significand_eq_zero {f : FFmt} {c : Nat} (h : significand f c = 0) : c = 0 := by
  have hpos := Nat.two_pow_pos f.frac
  by_cases h0 : c / 2 ^ f.frac = 0
  · rw [significand_of_subnormal h0] at h
    rw [← Nat.div_add_mod c (2 ^ f.frac), h0, h, Nat.mul_zero]
  · rw [significand_of_normal h0] at h; omega

theorem encodeF_decodeF {f : FFmt} {x : Nat} (hx : x < 2 ^ f.width) {neg : Bool} {m : Nat} {e : Int} (h : Machine.decodeF f x = .fin neg m e)
    (mode : Nat) (sat : Bool) : encodeF f mode sat (.fin neg m e) = x := by
  obtain ⟨hmax, rfl, rfl, rfl⟩ := decodeF_eq_fin.1 h
  by_cases h0 : significand f (x % f.signBit) = 0
  · have hx0 := significand_eq_zero h0
    have hsum := mod_add_signPart hx
    rw [hx0, Nat.zero_add] at hsum
    rw [h0, encodeF_zero, hsum]
  · rw [encodeF_fin _ _ _ _ _ h0, magCode_significand _ _ _ h0, if_neg (Nat.not_lt.2 hmax), mod_add_signPart hx]

/-! ### Values in units of a common exponent -/

/-- The number of units `2^b` in `2^e`. -/
def unitsIn (e b : Int) : Nat := 2 ^ (e - b).toNat

theorem unitsIn_pos (e b : Int) : 0 < unitsIn e b := Nat.two_pow_pos _

theorem unitsIn_self (b : Int) : unitsIn b b = 1 := by rw [unitsIn, Int.sub_self]; rfl

theorem unitsIn_mul {e q b : Int} (he : q ≤ e) (hq : b ≤ q) : unitsIn e q * unitsIn q b = unitsIn e b := by
  have hexp : (e - b).toNat = (e - q).toNat + (q - b).toNat := by omega
  rw [unitsIn, unitsIn, unitsIn, hexp, Nat.pow_add]

theorem unitsIn_add (k : Nat) {q b : Int} (h : b ≤ q) : unitsIn (q + k) b = 2 ^ k * unitsIn q b := by
  rw [← unitsIn_mul (Int.le_add_of_nonneg_right (Int.natCast_nonneg k)) h, unitsIn, toNat_add_sub]

theorem units_false (m : Nat) (e q : Int) : units false m e q = (m * unitsIn e q : Nat) := rfl

theorem units_true (m : Nat) (e q : Int) : units true m e q = -units false m e q := rfl

theorem units_not (neg : Bool) (m : Nat) (e q : Int) : units (!neg) m e q = -units neg m e q := by
  cases neg
  · rfl
  · exact (Int.neg_neg _).symm

theorem natAbs_units (neg : Bool) (m : Nat) (e q : Int) : (units neg m e q).natAbs = m * unitsIn e q := by
  cases neg
  · rfl
  · rw [units_true, Int.natAbs_neg]; rfl

/-- The same value in smaller units. -/
theorem units_rescale (neg : Bool) (m : Nat) {e q b : Int} (he : q ≤ e) (hq : b ≤ q) : units neg m e b = units neg m e q * unitsIn q b := by
  have hfalse : units false m e b = units false m e q * unitsIn q b := by
    rw [units_false, units_false, ← unitsIn_mul he hq, ← Nat.mul_assoc, Int.natCast_mul]
  cases neg
  · exact hfalse
  · rw [units_true, units_true, hfalse, Int.neg_mul]

/-! ### The nearest of several values -/

/-- `v` is at most as far from `x` as `y` is, and `P` holds where `y` is another value as near. -/
def NoNearer (x v y : Int) (P : Prop) : Prop :=
  (x - v).natAbs ≤ (x - y).natAbs ∧ ((x - v).natAbs = (x - y).natAbs → v ≠ y → P)

/-- Distances in smaller units compare in the same way. -/
theorem noNearer_of_scaled {x v y : Int} {c : Nat} {P : Prop} (hc : 0 < c) (h : NoNearer (x * c) (v * c) (y * c) P) : NoNearer x v y P := by
  have hscale (a b : Int) : (a * c - b * c).natAbs = (a - b).natAbs * c := by rw [← Int.sub_mul, Int.natAbs_mul, Int.natAbs_natCast]
  obtain ⟨hle, htie⟩ := h
  rw [hscale, hscale] at hle htie
  exact ⟨Nat.le_of_mul_le_mul_right hle hc, fun he hne => htie (by rw [he]) fun hv =>
    hne (Int.eq_of_mul_eq_mul_right (Int.natCast_ne_zero.2 (Nat.ne_of_gt hc)) hv)⟩

/-- A bound between `y` and `x` that is nowhere nearer to `x` than `v` keeps `y` farther. -/
theorem noNearer_of_lt_bound {x v y b : Int} {P : Prop} (hyb : y < b) (hbx : b ≤ x) (h : (x - v).natAbs ≤ (x - b).natAbs) : NoNearer x v y P :=
  ⟨by omega, fun he => absurd he (by omega)⟩

/-- The largest value is nearest to a value beyond it. -/
theorem noNearer_of_le {x v y : Int} {P : Prop} (hv : v ≤ x) (hy : y ≤ v) : NoNearer x v y P :=
  ⟨by omega, fun he hne => absurd (by omega) hne⟩

/-- Moving the first sign to the other two values keeps the distances. -/
theorem noNearer_of_xor {neg n' n'' : Bool} {m m' m'' : Nat} {e e' e'' b : Int} {P : Prop}
    (h : NoNearer (units false m e b) (units (neg ^^ n') m' e' b) (units (neg ^^ n'') m'' e'' b) P) :
    NoNearer (units neg m e b) (units n' m' e' b) (units n'' m'' e'' b) P := by
  cases neg
  · rwa [Bool.false_xor, Bool.false_xor] at h
  · rw [Bool.true_xor, Bool.true_xor, units_not, units_not] at h
    obtain ⟨hle, htie⟩ := h
    rw [units_true]
    exact ⟨by omega, fun he hne => htie (by omega) (by omega)⟩

/-- `n d` is the nearest multiple of `d` to `x`, and `n` is even where `x` is halfway between two multiples. -/
def NearestEven (x d n : Nat) : Prop := 2 * ((x : Int) - (n * d : Nat)).natAbs ≤ d ∧ (2 * ((x : Int) - (n * d : Nat)).natAbs = d → n % 2 = 0)

/-- No multiple is nearer, and another as near leaves `n` even. -/
theorem NearestEven.noNearer {x d n : Nat} (h : NearestEven x d n) (k : Int) : NoNearer x (n * d : Nat) (k * d) (n % 2 = 0) := by
  obtain ⟨hle, heven⟩ := h
  by_cases hk : (n : Int) = k
  · subst hk
    exact ⟨Nat.le_of_eq (by rw [Int.natCast_mul]), fun _ hne => absurd (Int.natCast_mul n d) hne⟩
  · have hapart : d ≤ ((n * d : Nat) - k * d : Int).natAbs := by
      rw [Int.natCast_mul, ← Int.sub_mul, Int.natAbs_mul, Int.natAbs_natCast]
      exact Nat.le_mul_of_pos_left d (by omega)
    exact ⟨by omega, fun he _ => heven (by omega)⟩

theorem NearestEven.scale {x d n : Nat} (h : NearestEven x d n) {c : Nat} (hc : 0 < c) : NearestEven (x * c) (d * c) n := by
  obtain ⟨hle, heven⟩ := h
  have hdist : 2 * (((x * c : Nat) : Int) - (n * (d * c) : Nat)).natAbs = 2 * ((x : Int) - (n * d : Nat)).natAbs * c := by
    rw [← Nat.mul_assoc, Int.natCast_mul, Int.natCast_mul (n * d), ← Int.sub_mul, Int.natAbs_mul, Int.natAbs_natCast, Nat.mul_assoc]
  unfold NearestEven
  rw [hdist]
  exact ⟨Nat.mul_le_mul_right c hle, fun he => heven (Nat.eq_of_mul_eq_mul_right hc he)⟩

theorem NearestEven.le_of_lt {x d n k : Nat} (h : NearestEven x d n) (hx : x < k * d) : n ≤ k := by
  refine Nat.le_of_not_lt fun hlt => ?_
  have hmul : (k + 1) * d ≤ n * d := Nat.mul_le_mul_right d hlt
  rw [Nat.succ_mul] at hmul
  have := h.1
  omega

theorem NearestEven.ge_of_le {x d n k : Nat} (hd : 0 < d) (h : NearestEven x d n) (hx : k * d ≤ x) : k ≤ n := by
  refine Nat.le_of_not_lt fun hlt => ?_
  have hmul : (n + 1) * d ≤ k * d := Nat.mul_le_mul_right d hlt
  rw [Nat.succ_mul] at hmul
  have := h.1
  omega

/-! ### RNE in units of the result (R86) -/

/-- RNE of a quotient with a remainder: up from more than half, and from half where the quotient is odd. -/
theorem roundUnits_rne (neg : Bool) (m : Nat) {e q : Int} (h : e < q) : roundUnits 0 neg m e q =
    if unitsIn q e < 2 * (m % unitsIn q e) ∨ (2 * (m % unitsIn q e) = unitsIn q e ∧ m / unitsIn q e % 2 = 1) then m / unitsIn q e + 1
    else m / unitsIn q e := by
  have hpos := unitsIn_pos q e
  unfold roundUnits
  rw [if_neg (by omega)]
  simp only [beq_iff_eq, if_true, Bool.or_eq_true, Bool.and_eq_true, decide_eq_true_eq]
  rw [← unitsIn]
  split
  · rw [if_neg (by omega)]
  · rfl

/-- RNE finds the nearest number of units, ties to even. -/
theorem roundUnits_nearestEven (neg : Bool) (m : Nat) {e q b : Int} (he : b ≤ e) (hq : b ≤ q) :
    NearestEven (m * unitsIn e b) (unitsIn q b) (roundUnits 0 neg m e q) := by
  by_cases h : q ≤ e
  · have hexact : m * unitsIn e b = roundUnits 0 neg m e q * unitsIn q b := by
      rw [roundUnits_exact _ _ _ h, ← unitsIn, Nat.mul_assoc, unitsIn_mul h hq]
    have hpos := unitsIn_pos q b
    unfold NearestEven
    rw [← hexact]
    exact ⟨by omega, fun h => by omega⟩
  · rw [← unitsIn_mul (Int.le_of_lt (Int.not_le.1 h)) he, roundUnits_rne neg m (Int.not_le.1 h)]
    have hd := unitsIn_pos q e
    apply NearestEven.scale _ (unitsIn_pos e b)
    generalize unitsIn q e = d at hd ⊢
    have hr := Nat.mod_lt m hd
    have hsum := Nat.div_add_mod m d
    rw [Nat.mul_comm] at hsum
    unfold NearestEven
    split
    · rw [Nat.succ_mul (m / d) d]
      exact ⟨by omega, fun h => by omega⟩
    · exact ⟨by omega, fun h => by omega⟩

section
variable (f : FFmt) (neg : Bool) {m : Nat} {e b : Int}

/-- A magnitude is less than `2^(frac + 1)` of its units. -/
theorem magnitude_lt_units (he : b ≤ e) (hb : b ≤ f.emin) : m * unitsIn e b < 2 ^ (f.frac + 1) * unitsIn (unitExp f m e) b := by
  have hmin := emin_le_unitExp f m e
  have hexp : Nat.log2 m + 1 + (e - b).toNat ≤ f.frac + 1 + (unitExp f m e - b).toNat := by unfold unitExp at *; omega
  calc m * unitsIn e b < 2 ^ (Nat.log2 m + 1) * unitsIn e b := Nat.mul_lt_mul_of_pos_right Nat.lt_log2_self (unitsIn_pos e b)
    _ = 2 ^ (Nat.log2 m + 1 + (e - b).toNat) := (Nat.pow_add ..).symm
    _ ≤ 2 ^ (f.frac + 1 + (unitExp f m e - b).toNat) := Nat.pow_le_pow_right Nat.two_pos hexp
    _ = 2 ^ (f.frac + 1) * unitsIn (unitExp f m e) b := Nat.pow_add ..

/-- Above the least unit a magnitude is at least `2^frac` of its units. -/
theorem units_le_magnitude (hm : m ≠ 0) (he : b ≤ e) (hb : b ≤ f.emin) (h : f.emin < unitExp f m e) :
    2 ^ f.frac * unitsIn (unitExp f m e) b ≤ m * unitsIn e b := by
  have hexp : f.frac + (unitExp f m e - b).toNat = Nat.log2 m + (e - b).toNat := by unfold unitExp at *; omega
  calc 2 ^ f.frac * unitsIn (unitExp f m e) b = 2 ^ (f.frac + (unitExp f m e - b).toNat) := (Nat.pow_add ..).symm
    _ = 2 ^ Nat.log2 m * unitsIn e b := by rw [hexp, Nat.pow_add, unitsIn]
    _ ≤ m * unitsIn e b := Nat.mul_le_mul_right _ (Nat.log2_self_le hm)

variable (m e)

/-- The number of its units to which RNE rounds a magnitude. -/
def roundedUnits : Nat := roundUnits 0 neg m e (unitExp f m e)

variable {m e}

theorem roundedUnits_nearestEven (he : b ≤ e) (hb : b ≤ f.emin) :
    NearestEven (m * unitsIn e b) (unitsIn (unitExp f m e) b) (roundedUnits f neg m e) :=
  roundUnits_nearestEven neg m he (Int.le_trans hb (emin_le_unitExp f m e))

theorem roundedUnits_le : roundedUnits f neg m e ≤ 2 ^ (f.frac + 1) :=
  (roundedUnits_nearestEven f neg (Int.min_le_left ..) (Int.min_le_right ..)).le_of_lt
    (magnitude_lt_units f (Int.min_le_left e f.emin) (Int.min_le_right ..))

theorem le_roundedUnits (hm : m ≠ 0) (h : f.emin < unitExp f m e) : 2 ^ f.frac ≤ roundedUnits f neg m e :=
  (roundedUnits_nearestEven f neg (Int.min_le_left ..) (Int.min_le_right ..)).ge_of_le (unitsIn_pos ..)
    (units_le_magnitude f hm (Int.min_le_left e f.emin) (Int.min_le_right ..) h)

end

/-! ### The value of a rounded code -/

/-- `n` units of binade `k` have the code `k 2^frac + n`, also where `n` is the first of the next binade. -/
theorem significand_mul_binade (f : FFmt) {k n : Nat} (hle : n ≤ 2 ^ (f.frac + 1)) (hge : k ≠ 0 → 2 ^ f.frac ≤ n) :
    significand f (k * 2 ^ f.frac + n) * 2 ^ binade f (k * 2 ^ f.frac + n) = n * 2 ^ k := by
  have hpos := Nat.two_pow_pos f.frac
  have hdiv : (k * 2 ^ f.frac + n) / 2 ^ f.frac = k + n / 2 ^ f.frac := by rw [Nat.add_comm, Nat.add_mul_div_right _ _ hpos, Nat.add_comm]
  have hmod : (k * 2 ^ f.frac + n) % 2 ^ f.frac = n % 2 ^ f.frac := Nat.mul_add_mod_self_right ..
  unfold significand binade
  rw [hdiv, hmod]
  rw [Nat.pow_succ] at hle
  generalize 2 ^ f.frac = p at *
  obtain hlt | rfl | ⟨hlt, hgt⟩ : n < p ∨ n = p * 2 ∨ p ≤ n ∧ n < p * 2 := by omega
  · have hk : k = 0 := Decidable.byContradiction fun h => absurd (hge h) (Nat.not_le.2 hlt)
    rw [hk, Nat.div_eq_of_lt hlt, Nat.mod_eq_of_lt hlt]; rfl
  · rw [Nat.mul_div_cancel_left _ hpos, if_neg (by omega), Nat.mul_mod_right, Nat.add_zero, Nat.add_sub_assoc (by decide), Nat.pow_succ,
      Nat.mul_assoc, Nat.mul_comm 2]
  · have h1 : n / p = 1 := Nat.div_eq_of_lt_le (by omega) (by omega)
    have h2 := Nat.div_add_mod n p
    rw [h1, Nat.mul_one] at h2
    rw [h1, if_neg (by omega), h2, Nat.add_sub_cancel]

/-- The value of the code that RNE gives a magnitude. -/
theorem units_magCode (f : FFmt) (neg : Bool) {m : Nat} {e b : Int} (hm : m ≠ 0) (hb : b ≤ f.emin) :
    units false (significand f (magCode f 0 neg m e)) (f.emin + binade f (magCode f 0 neg m e)) b =
      (roundedUnits f neg m e * unitsIn (unitExp f m e) b : Nat) := by
  have hcode := significand_mul_binade f (k := (unitExp f m e - f.emin).toNat) (roundedUnits_le f neg (m := m) (e := e))
    fun h => le_roundedUnits f neg hm (by omega)
  rw [units_false, unitsIn_add _ hb, ← Nat.mul_assoc, magCode_eq, ← roundedUnits, hcode, Nat.mul_assoc, ← unitsIn,
    unitsIn_mul (emin_le_unitExp f m e) hb]

/-! ### No value of the format is nearer -/

/-- The value has a significand and an exponent of the format. -/
def FitsFormat (f : FFmt) (m : Nat) (e : Int) : Prop := f.emin ≤ e ∧ m < 2 ^ (f.frac + 1)

theorem fitsFormat_of_decodeF {f : FFmt} {x : Nat} {neg : Bool} {m : Nat} {e : Int} (h : Machine.decodeF f x = .fin neg m e) :
    FitsFormat f m e := by
  obtain ⟨-, -, rfl, rfl⟩ := decodeF_eq_fin.1 h
  have hmod := Nat.mod_lt (x % f.signBit) (Nat.two_pow_pos f.frac)
  refine ⟨by omega, ?_⟩
  unfold significand
  rw [Nat.pow_succ]
  split <;> omega

/-- A value of the format is a whole number of units or lies below `2^frac` of them. -/
theorem FitsFormat.mul_or_below {f : FFmt} {m : Nat} {e b q : Int} (h : FitsFormat f m e) (neg : Bool) (hq : b ≤ q) (hb : b ≤ e) :
    (∃ k : Int, units neg m e b = k * unitsIn q b) ∨ (f.emin < q ∧ units neg m e b < (2 ^ f.frac * unitsIn q b : Nat)) := by
  obtain ⟨hmin, hm⟩ := h
  by_cases hqe : q ≤ e
  · exact .inl ⟨units neg m e q, units_rescale neg m hqe hq⟩
  · refine .inr ⟨by omega, ?_⟩
    have hexp : f.frac + 1 + (e - b).toNat ≤ f.frac + (q - b).toNat := by omega
    have hlt : m * unitsIn e b < 2 ^ f.frac * unitsIn q b := calc
      m * unitsIn e b < 2 ^ (f.frac + 1) * unitsIn e b := Nat.mul_lt_mul_of_pos_right hm (unitsIn_pos e b)
      _ = 2 ^ (f.frac + 1 + (e - b).toNat) := (Nat.pow_add ..).symm
      _ ≤ 2 ^ (f.frac + (q - b).toNat) := Nat.pow_le_pow_right Nat.two_pos hexp
      _ = 2 ^ f.frac * unitsIn q b := Nat.pow_add ..
    rw [← natAbs_units neg] at hlt
    omega

/-- Where nothing overflows, no value of the format, of either sign, is nearer to a magnitude than its number of units. -/
theorem noNearer_roundedUnits {f : FFmt} (neg : Bool) {m : Nat} {e b : Int} (hm : m ≠ 0) {m' : Nat} {e' : Int} (h : FitsFormat f m' e') (n' : Bool)
    (he : b ≤ e) (hb : b ≤ f.emin) :
    NoNearer (units false m e b) (roundedUnits f neg m e * unitsIn (unitExp f m e) b : Nat) (units n' m' e' b) (roundedUnits f neg m e % 2 = 0) := by
  have hnear := (roundedUnits_nearestEven f neg (m := m) he hb).noNearer
  obtain ⟨k, hk⟩ | ⟨hmin, hlt⟩ := h.mul_or_below n' (Int.le_trans hb (emin_le_unitExp f m e)) (Int.le_trans hb h.1)
  · rw [hk]
    exact hnear k
  · have hle := units_le_magnitude f hm he hb hmin
    have hbound := (hnear (2 ^ f.frac : Nat)).1
    rw [← Int.natCast_mul] at hbound
    exact noNearer_of_lt_bound hlt (Int.ofNat_le.2 hle) hbound

/-! ### Overflow in fe2m1 (R87) -/

theorem overflowF_rne (f : FFmt) (neg : Bool) : overflowF f 0 false neg = f.over neg := rfl

/-- Only fe2m1 overflows to a finite value. -/
theorem eq_e2m1_of_over {f : FFmt} {neg : Bool} (h : f.over neg % f.signBit ≤ f.maxCode) : f = .e2m1 := by
  cases f <;> cases neg <;> revert h <;> decide

theorem over_e2m1 (neg : Bool) : FFmt.over .e2m1 neg = FFmt.maxCode .e2m1 + signPart .e2m1 neg := rfl

/-- Every finite value of fe2m1 is at most the largest, 12 units of the least exponent. -/
theorem units_e2m1_le {x : Nat} {neg : Bool} {m : Nat} {e b : Int} (h : Machine.decodeF .e2m1 x = .fin neg m e) (hb : b ≤ FFmt.emin .e2m1) (n' : Bool) :
    units n' m e b ≤ (12 * unitsIn (FFmt.emin .e2m1) b : Nat) := by
  obtain ⟨hmax, -, rfl, rfl⟩ := decodeF_eq_fin.1 h
  have hcode : ∀ c < 8, significand .e2m1 c * 2 ^ binade .e2m1 c ≤ 12 := by decide
  have hle := Nat.mul_le_mul_right (unitsIn (FFmt.emin .e2m1) b) (hcode _ (Nat.lt_succ_of_le hmax))
  rw [Nat.mul_assoc, ← unitsIn_add _ hb, ← natAbs_units n'] at hle
  omega

theorem units_maxCode_e2m1 {b : Int} (hb : b ≤ FFmt.emin .e2m1) :
    units false (significand .e2m1 (FFmt.maxCode .e2m1)) (FFmt.emin .e2m1 + binade .e2m1 (FFmt.maxCode .e2m1)) b =
      (12 * unitsIn (FFmt.emin .e2m1) b : Nat) := by
  have hcode : significand .e2m1 (FFmt.maxCode .e2m1) * 2 ^ binade .e2m1 (FFmt.maxCode .e2m1) = 12 := by decide
  rw [units_false, unitsIn_add _ hb, ← Nat.mul_assoc, hcode]

/-- What overflows in fe2m1 is beyond its largest value. -/
theorem units_le_of_overflow_e2m1 {neg : Bool} {m : Nat} {e b : Int} (hm : m ≠ 0) (he : b ≤ e) (hb : b ≤ FFmt.emin .e2m1)
    (h : FFmt.maxCode .e2m1 < magCode .e2m1 0 neg m e) : 12 * unitsIn (FFmt.emin .e2m1) b ≤ m * unitsIn e b := by
  have hround : roundedUnits .e2m1 neg m e ≤ 4 := roundedUnits_le .e2m1 neg
  have hcode : 7 < (unitExp .e2m1 m e - FFmt.emin .e2m1).toNat * 2 + roundedUnits .e2m1 neg m e := h
  have hexp : unitExp .e2m1 m e = FFmt.emin .e2m1 + (unitExp .e2m1 m e - FFmt.emin .e2m1).toNat := by
    have := emin_le_unitExp .e2m1 m e
    omega
  have hunits : 2 * unitsIn (unitExp .e2m1 m e) b ≤ m * unitsIn e b := units_le_magnitude .e2m1 hm he hb (by omega)
  have hnear := (roundedUnits_nearestEven .e2m1 neg (m := m) he hb).1
  rw [hexp, unitsIn_add _ hb] at hunits hnear
  generalize (unitExp .e2m1 m e - FFmt.emin .e2m1).toNat = k at *
  obtain rfl | hk : k = 2 ∨ 3 ≤ k := by omega
  · rw [show roundedUnits .e2m1 neg m e = 4 by omega] at hnear
    omega
  · have hpow : 8 * unitsIn (FFmt.emin .e2m1) b ≤ 2 ^ k * unitsIn (FFmt.emin .e2m1) b :=
      Nat.mul_le_mul_right _ (Nat.pow_le_pow_right (n := 2) Nat.two_pos hk)
    omega

/-! ### RNE finds the nearest value (R86) -/

section
variable {f : FFmt} {neg n' n'' : Bool} {m m' m'' : Nat} {e e' e'' b : Int} {y : Nat}

theorem magCode_add_signPart_mod_two : (magCode f 0 neg m e + signPart f neg) % 2 = roundedUnits f neg m e % 2 := by
  have hfrac := Nat.dvd_mul_left_of_dvd (two_pow_frac_even f) (unitExp f m e - f.emin).toNat
  have hsign := signPart_even f neg
  rw [magCode_eq, ← roundedUnits]
  omega

/-- Where RNE does not overflow. -/
theorem noNearer_magCode (hm : m ≠ 0) (he : b ≤ e) (hb : b ≤ f.emin) (hmax : magCode f 0 neg m e ≤ f.maxCode)
    (h' : Machine.decodeF f (magCode f 0 neg m e + signPart f neg) = .fin n' m' e') (h'' : Machine.decodeF f y = .fin n'' m'' e'') :
    NoNearer (units neg m e b) (units n' m' e' b) (units n'' m'' e'' b) ((magCode f 0 neg m e + signPart f neg) % 2 = 0) := by
  rw [decodeF_add_signPart hmax] at h'
  cases h'
  rw [magCode_add_signPart_mod_two]
  apply noNearer_of_xor
  rw [Bool.xor_self, units_magCode f neg hm hb]
  exact noNearer_roundedUnits neg hm (fitsFormat_of_decodeF h'') _ he hb

/-- Where RNE overflows to a finite value. -/
theorem noNearer_over {P : Prop} (hm : m ≠ 0) (he : b ≤ e) (hb : b ≤ f.emin) (hmax : f.maxCode < magCode f 0 neg m e)
    (h' : Machine.decodeF f (f.over neg) = .fin n' m' e') (h'' : Machine.decodeF f y = .fin n'' m'' e'') :
    NoNearer (units neg m e b) (units n' m' e' b) (units n'' m'' e'' b) P := by
  obtain rfl := eq_e2m1_of_over (decodeF_eq_fin.1 h').1
  rw [over_e2m1, decodeF_add_signPart (Nat.le_refl _)] at h'
  cases h'
  apply noNearer_of_xor
  rw [Bool.xor_self, units_maxCode_e2m1 hb]
  exact noNearer_of_le (Int.ofNat_le.2 (units_le_of_overflow_e2m1 hm he hb hmax)) (units_e2m1_le h'' hb _)

theorem noNearer_encodeF (hm : m ≠ 0) (he : b ≤ e) (hb : b ≤ f.emin)
    (h' : Machine.decodeF f (encodeF f 0 false (.fin neg m e)) = .fin n' m' e') (h'' : Machine.decodeF f y = .fin n'' m'' e'') :
    NoNearer (units neg m e b) (units n' m' e' b) (units n'' m'' e'' b) (encodeF f 0 false (.fin neg m e) % 2 = 0) := by
  rw [encodeF_fin _ _ _ _ _ hm] at h' ⊢
  split at h'
  · next hmax =>
    rw [overflowF_rne] at h'
    exact noNearer_over hm he hb hmax h' h''
  · next hmax =>
    rw [if_neg hmax]
    exact noNearer_magCode hm he hb (Nat.not_lt.1 hmax) h' h''

/-- The comparison in the units of any exponent at or below those that occur: it is made in units that the format's least exponent also measures. -/
theorem noNearer_encodeF_units {q : Int} (hm : m ≠ 0) (h' : Machine.decodeF f (encodeF f 0 false (.fin neg m e)) = .fin n' m' e')
    (h'' : Machine.decodeF f y = .fin n'' m'' e'') (hq : q ≤ e) (hq' : q ≤ e') (hq'' : q ≤ e'') :
    NoNearer (units neg m e q) (units n' m' e' q) (units n'' m'' e'' q) (encodeF f 0 false (.fin neg m e) % 2 = 0) := by
  have hleast : min q f.emin ≤ q := Int.min_le_left ..
  apply noNearer_of_scaled (unitsIn_pos q (min q f.emin))
  rw [← units_rescale neg m hq hleast, ← units_rescale n' m' hq' hleast, ← units_rescale n'' m'' hq'' hleast]
  exact noNearer_encodeF hm (Int.le_trans hleast hq) (Int.min_le_right ..) h' h''

end

/-- Settles O11: a code's significand needs no rounding, and a magnitude's number of units is the integer nearest to it. -/
theorem roundingKeepsValuesAndFindsTheNearest : Obligations.RoundingKeepsValuesAndFindsTheNearest := by
  refine ⟨fun f mode sat x hx neg m e h => ?_, fun f neg m e hm n' m' e' h' y _ n'' m'' e'' h'' => ?_⟩
  · rw [h]
    exact encodeF_decodeF hx h mode sat
  · exact noNearer_encodeF_units hm h' h'' (by omega) (by omega) (by omega)

end Sys2Proof.Proofs
end

section
/-! SUPPORT. The statement on peer scratch, page misses and blocking points: a peer's store at its window, its acknowledgement, the entry that a miss takes or
joins, the paths that wait for long. -/

namespace Sys2Proof.Proofs

open Sys2Proof Sys2Proof.Machine Sys2Proof.Claims

/-! ### What an access writes into a scratch -/

/-- Two states with the same bytes in every scratch, the same accesses on their way, the same memory and the same logs. -/
structure SameScratch (s u : State) : Prop where
  scratch : ∀ j, scratchAt u j = scratchAt s j
  ops : u.scratchOps = s.scratchOps
  mem : u.mem = s.mem
  logs : u.logs = s.logs

theorem SameScratch.refl (s : State) : SameScratch s s := ⟨fun _ => rfl, rfl, rfl, rfl⟩

theorem SameScratch.trans {s u v : State} (h : SameScratch s u) (h' : SameScratch u v) : SameScratch s v :=
  ⟨fun j => (h'.scratch j).trans (h.scratch j), h'.ops.trans h.ops, h'.mem.trans h.mem, h'.logs.trans h.logs⟩

theorem SameScratch.foldl {β : Type} {f : State → β → State} (hf : ∀ u x, SameScratch u (f u x)) (l : List β) (s : State) :
    SameScratch s (l.foldl f s) :=
  foldl_keeps (P := SameScratch s) (fun u x h => h.trans (hf u x)) l s (.refl s)

theorem sameScratch_markChanged (s : State) (writer : Option Nat) (p : Place) : SameScratch s (markChanged s writer p) :=
  ⟨fun _ => rfl, rfl, rfl, rfl⟩

theorem sameScratch_freeTile (s : State) (crew t site : Nat) : SameScratch s (freeTile s crew t site) :=
  ⟨fun j => scratchAt_tmod_kept s crew j _ fun _ => rfl, rfl, rfl, rfl⟩

theorem sameScratch_noteMatrix (s : State) (crew off n : Nat) : SameScratch s (noteMatrix s crew off n) := by
  have marked (cores : Table Core) : SameScratch s { s with cores := cores } := ⟨fun _ => rfl, rfl, rfl, rfl⟩
  exact (marked _).trans (.foldl (fun u m => sameScratch_freeTile u _ _ 3) _ _)

theorem sameScratch_noteStores (s : State) (writer : Option Nat) (crew : Nat) (lines : List Nat) : SameScratch s (noteStores s writer crew lines) :=
  ⟨fun j => scratchAt_tmod_kept s crew j _ fun _ => rfl, rfl, rfl, rfl⟩

theorem sameScratch_noteWriteEa (s : State) (context convoy crew : Nat) (ea : Dword) (n : Nat) :
    SameScratch s (noteWriteEa s context convoy crew ea n) := ⟨fun _ => rfl, rfl, rfl, rfl⟩

/-- The state in which a run of a crew's scratch has been written, and nothing else been done. -/
def withRun (s : State) (crew off : Nat) (bs : List Byte) : State :=
  { s with crews := tmod s.crews crew fun y => { y with scratch := writeRun y.scratch off bs } }

theorem sameScratch_writeScratch (s : State) (writer : Option Nat) (crew off : Nat) (bs : List Byte) :
    SameScratch (withRun s crew off bs) (writeScratch s writer crew off bs) :=
  ((SameScratch.foldl (fun u l => sameScratch_markChanged u writer (scratchPlace crew l)) _ _).trans (sameScratch_noteMatrix _ crew off bs.length)).trans
    (sameScratch_noteStores _ writer crew _)

/-- The bytes that one lane of an access writes at its offset: those of its data for a store, the new value for an atomic. -/
def laneBytes (s : State) (x : ScratchAccess) (off : Nat) (d : Dword) : List Byte :=
  bytesOf x.width (if x.op = 0 then d.toNat
    else atomNew (x.op - 1) x.width x.float (readNat (s.crew x.target).scratch off x.width) d.toNat 0)

theorem sameScratch_scratchPerform (x : ScratchAccess) (context : Nat) (s : State) (L off : Nat) (d : Dword) :
    SameScratch (withRun s x.target off (laneBytes s x off d)) (scratchPerform x context s (L, off, d)) := by
  unfold scratchPerform laneBytes
  by_cases hop : x.op = 0
  · simp only [hop, beq_self_eq_true, if_true]
    exact (sameScratch_writeScratch ..).trans (sameScratch_noteWriteEa ..)
  · simp only [beq_iff_eq, hop, if_false]
    exact (sameScratch_writeScratch ..).trans (sameScratch_noteWriteEa ..)

theorem byteAt_writeRun_numBytes {t : Table Byte} (a n v : Nat) (h : keysFrom 0 t = true) (o : Nat) :
    byteAt (writeRun t a (bytesOf n v)) o = if a ≤ o ∧ o < a + n then BitVec.ofNat 8 (v / 256 ^ (o - a)) else byteAt t o := by
  rw [byteAt_writeRun _ _ h, show (bytesOf n v).length = n by simp [bytesOf]]
  split
  · next ho =>
    have hi : o - a < n := by omega
    have hp : 2 ^ (8 * (o - a)) = 256 ^ (o - a) := by rw [Nat.pow_mul]
    simp [bytesOf, List.getD_eq_getElem?_getD, hi, hp]
  · rfl

/-- A number that is written into the scratch of a placed crew stands there, and no other byte of any scratch changes. -/
theorem scratchIs_withRun {s : State} (hb : BytesInv s) {crew : Nat} (hc : (tget s.crews crew).isSome = true) (off n v : Nat) :
    ScratchIs s (withRun s crew off (bytesOf n v)) crew fun o =>
      if off ≤ o ∧ o < off + n then BitVec.ofNat 8 (v / 256 ^ (o - off)) else byteAt (s.crew crew).scratch o := by
  obtain ⟨-, -, -, -, hcrews, -⟩ := hb
  obtain ⟨y, hy⟩ := Option.isSome_iff_exists.1 hc
  have hrun (j : Nat) : scratchAt (withRun s crew off (bytesOf n v)) j = (tget s.crews j).map fun z =>
      if j = crew then writeRun z.scratch off (bytesOf n v) else z.scratch := scratchAt_tmod s crew j _
  have hkeys : keysFrom 0 y.scratch = true := (hcrews _ (mem_of_tget hy)).1
  refine ⟨fun o => ?_, fun k hk => ?_⟩
  · simp only [crew_scratch, hrun]
    simp only [scratchAt, hy, Option.map_some, Option.getD_some, if_true]
    exact byteAt_writeRun_numBytes off n v hkeys o
  · simp only [crew_scratch, hrun, hk, if_false]
    rfl

theorem SameScratch.scratchIs {s u t : State} (h : SameScratch u t) {crew : Nat} {f : Nat → Byte} (hu : ScratchIs s u crew f) : ScratchIs s t crew f := by
  have hs (k : Nat) : (t.crew k).scratch = (u.crew k).scratch := by rw [crew_scratch, crew_scratch, h.scratch]
  exact ⟨fun o => by rw [hs, hu.1], fun k hk => by rw [hs, hu.2 k hk]⟩

/-! ### An access at its window (R112, R113) -/

/-- The state in which an access counts as arrived. -/
def markArrived (s : State) (n : Nat) (x : ScratchAccess) : State :=
  { s with scratchOps := tput s.scratchOps n { x with arrived := true }, epoch := s.epoch + 1 }

/-- The report of an access that its window refuses (R112). -/
def refusal (x : ScratchAccess) (v : Convoy) (off cause : Nat) : Report :=
  { cause := BitVec.ofNat 8 cause, sub := 0, addr := scratchEa (x.target % 8) off, pc := x.pc, lanes := laneMask (x.writes.map (·.1))
    convoy := keyConvoy x.wave, crew := x.crew, wave := some x.wave, slot := x.slot, launch := v.launch, index := v.index, context := v.context
    cluster := v.cluster }

section
variable {s : State} {n : Nat} {x : ScratchAccess} {v : Convoy} {L off : Nat} {d : Dword}

/-- An access whose turn it is to arrive: it is on its way to a convoy that is there, none comes before it, and it writes one lane. -/
structure Arrives (s : State) (n : Nat) (x : ScratchAccess) (v : Convoy) (L off : Nat) (d : Dword) : Prop where
  access : tget s.scratchOps n = some x
  convoy : tget s.convoys (x.target / 8) = some v
  away : x.arrived = false
  first : arrivesLater s n x = false
  one : x.writes = [(L, off, d)]

theorem Arrives.firstOffset (h : Arrives s n x v L off d) : ((x.writes.head?).map fun e => e.2.1).getD 0 = off := by rw [h.one]; rfl

theorem accessArrives_refused (h : Arrives s n x v L off d) {cause : Nat}
    (hc : windowCause s (x.target / 8) (x.target % 8) x.crew (off / 128) true = some cause) :
    accessArrives s n = addReport (markArrived s n x) (refusal x v off cause) := by
  simp only [accessArrives, h.access, h.convoy, h.away, h.first, h.firstOffset, Bool.or_self, Bool.false_eq_true, if_false]
  split
  · next c hc' => cases hc.symm.trans hc'; rfl
  · next hc' => cases hc.symm.trans hc'

theorem accessArrives_performed (h : Arrives s n x v L off d) (hc : windowCause s (x.target / 8) (x.target % 8) x.crew (off / 128) true = none) :
    accessArrives s n = scratchPerform x v.context (markArrived s n x) (L, off, d) := by
  simp only [accessArrives, h.access, h.convoy, h.away, h.first, h.firstOffset, Bool.or_self, Bool.false_eq_true, if_false]
  split
  · next c hc' => cases hc.symm.trans hc'
  · exact congrArg (List.foldl (scratchPerform x v.context) (markArrived s n x)) h.one
end

/-! ### The acknowledgement of an access (R114) -/

theorem execRemoteStoreAck_eq {s : State} {n : Nat} {x : ScratchAccess} (h : s.scratchOps.find? (fun e => e.2.arrived) = some (n, x)) :
    execRemoteStoreAck s = .next (({ s with scratchOps := tdel s.scratchOps n, epoch := s.epoch + 1 } : State).modWave x.wave
      fun w => { w with remoteStores := w.remoteStores - 1 }) := by
  simp only [execRemoteStoreAck, h]

/-! ### Misses on an absent page (R127, R128) -/

/-- Two states with the same stacks and with waves at the same keys. -/
structure SameStacks (s u : State) : Prop where
  perStack : u.perStack = s.perStack
  waves : u.waves.map (·.1) = s.waves.map (·.1)

theorem SameStacks.refl (s : State) : SameStacks s s := ⟨rfl, rfl⟩

theorem SameStacks.trans {s u v : State} (h : SameStacks s u) (h' : SameStacks u v) : SameStacks s v :=
  ⟨h'.perStack.trans h.perStack, h'.waves.trans h.waves⟩

theorem SameStacks.foldl {β : Type} {f : State → β → State} (hf : ∀ u x, SameStacks u (f u x)) (l : List β) (s : State) :
    SameStacks s (l.foldl f s) :=
  foldl_keeps (P := SameStacks s) (fun u x h => h.trans (hf u x)) l s (.refl s)

theorem sameStacks_pokeByte (s : State) (a : Nat) (b : Byte) : SameStacks s (pokeByte s a b) := by
  unfold pokeByte
  dsimp only
  split
  · exact ⟨rfl, rfl⟩
  · split <;> exact ⟨rfl, rfl⟩

theorem sameStacks_noteWrite (s : State) (writer : Option Nat) (line : Nat) : SameStacks s (noteWrite s writer line) := by
  unfold noteWrite
  split
  · exact ⟨rfl, by simp [markChanged, tmap]⟩
  · exact .refl s

theorem sameStacks_agentWrite (s : State) (writer : Option Nat) (a : Nat) (bs : List Byte) : SameStacks s (agentWrite s writer a bs) :=
  (SameStacks.foldl (fun u (e : Nat × Byte) => sameStacks_pokeByte u (a + e.1) e.2) _ s).trans (.foldl (fun u l => sameStacks_noteWrite u writer l) _ _)

theorem sameStacks_noteWritePa (s : State) (pa n : Nat) : SameStacks s (noteWritePa s pa n) := by
  unfold noteWritePa
  split <;> exact ⟨rfl, rfl⟩

theorem sameStacks_globalWrite (s : State) (context cls a : Nat) (bs : List Byte) : SameStacks s (globalWrite s context cls a bs) := by
  unfold globalWrite
  split
  · exact (sameStacks_agentWrite s none a bs).trans (sameStacks_noteWritePa _ a bs.length)
  · split
    · exact .refl s
    · refine .foldl (fun u l => ?_) _ s
      exact ⟨rfl, rfl⟩

theorem stack_setStack_self (s : State) {k : Nat} (x : Stack) (hk : k < 4) : (s.setStack k x).stack k = x := vget_setIfInBounds_self _ _ _ hk

/-- A fault record is written or held: its stack's fault buffer and record sequence stay as they are, and no wave comes or goes. -/
theorem postFault_keeps (s : State) {stack : Nat} (r : HeldRecord) (hk : stack < 4) :
    ((postFault s stack r).stack stack).faults = (s.stack stack).faults ∧ ((postFault s stack r).stack stack).seq = (s.stack stack).seq ∧
      (postFault s stack r).waves.map (·.1) = s.waves.map (·.1) := by
  unfold postFault
  dsimp only
  split
  · simp only [State.stack, signal_perStack, setContext_perStack, signal_waves, setContext_waves, (sameStacks_globalWrite ..).perStack,
      (sameStacks_globalWrite ..).waves, and_self]
  · have hheld (l : List HeldRecord) : (signal (s.setStack stack { s.stack stack with held := l }) 1).stack stack = { s.stack stack with held := l } :=
      stack_setStack_self s _ hk
    exact ⟨by rw [hheld], by rw [hheld], rfl⟩

/-- A table of fewer than `n` entries leaves a key below `n` free. -/
theorem exists_free_key {α : Type} {t : Table α} {n : Nat} (h : t.length < n) : ∃ i < n, tget t i = none := by
  refine Classical.byContradiction fun hfull => ?_
  have hsub : List.range n ⊆ t.map (·.1) := fun i hi => by
    obtain ⟨x, hx⟩ := Option.ne_none_iff_exists'.1 fun hfree => hfull ⟨i, List.mem_range.1 hi, hfree⟩
    exact List.mem_map_of_mem (mem_of_tget hx)
  have := List.nodup_range.length_le_of_subset hsub
  simp only [List.length_range, List.length_map] at this
  omega

/-- The entry of a stack's fault buffer that a miss takes (R127). -/
def freeEntry (k : Stack) : Nat := ((List.range Config.faultEntries).find? fun i => (tget k.faults i).isNone).getD 0

theorem freeEntry_isNone {k : Stack} (h : k.faults.length < Config.faultEntries) : (tget k.faults (freeEntry k)).isNone = true := by
  obtain ⟨i, hi, hfree⟩ := exists_free_key h
  have hsome : ((List.range Config.faultEntries).find? fun i => (tget k.faults i).isNone).isSome = true :=
    List.find?_isSome.2 ⟨i, List.mem_range.2 hi, by rw [hfree]; rfl⟩
  obtain ⟨j, hj⟩ := Option.isSome_iff_exists.1 hsome
  have hnone := List.find?_some hj
  rwa [freeEntry, hj]

section
variable {s : State} {stack ctx vpage kind : Nat}

theorem missPage_joins {e : Nat × FaultEntry} (h : (s.stack stack).faults.find? (fun e => e.2.context == ctx && e.2.vpage == vpage) = some e) :
    missPage s stack ctx vpage kind =
      (s.setStack stack { s.stack stack with faults := tput (s.stack stack).faults e.1 { e.2 with waiters := e.2.waiters + 1 } }, some e.1) := by
  simp only [missPage, h]

/-- The state in which a miss has taken an entry, its record not yet posted. -/
def withEntry (s : State) (stack ctx vpage kind : Nat) : State :=
  s.setStack stack { s.stack stack with
    faults := tput (s.stack stack).faults (freeEntry (s.stack stack)) { context := ctx, vpage := vpage, kind := kind, waiters := 1 }
    seq := (s.stack stack).seq + 1 }

theorem missPage_enters (h : (s.stack stack).faults.find? (fun e => e.2.context == ctx && e.2.vpage == vpage) = none)
    (hquota : ((s.stack stack).faults.filter fun e => e.2.context == ctx).length < (s.context ctx).desc.faultQuota)
    (hroom : (s.stack stack).faults.length < Config.faultEntries) :
    missPage s stack ctx vpage kind = (postFault (withEntry s stack ctx vpage kind) stack
      { context := ctx, entry := some (freeEntry (s.stack stack))
        bits := faultRecord (s.stack stack).seq.toNat 1 ctx stack false kind (freeEntry (s.stack stack)) vpage }, some (freeEntry (s.stack stack))) := by
  simp only [missPage, h, Nat.not_le.2 hquota, Nat.not_le.2 hroom, decide_false, Bool.or_self, Bool.false_eq_true, if_false]
  rfl

/-- A miss with no waiting wave, on an absent page, is entered in the stack's fault buffer. -/
theorem execSecondLevelTlbMiss_absent {va : Dword} (hkind : kind ≤ 5)
    (h : walkFrom s (va.toNat % 2 ^ 56) walkLevels (s.context ctx).desc.root.toNat = .absent) :
    execSecondLevelTlbMiss stack ctx va kind none s = .next (missPage s stack ctx (va.toNat % 2 ^ 56 / 2 ^ 16) kind).1 := by
  simp only [execSecondLevelTlbMiss, h, Nat.not_lt.2 hkind, if_false]
end

/-! ### Paths that have waited for long (R316) -/

/-- A path that waits on another package, and has done so for more than 2 µs. -/
def waitsLong (clock : Nat) (p : Path) : Bool := match p.hold with
  | .wait 7 _ _ => decide (p.waitSince + 2 * Config.cyclesPerUs < clock)
  | _ => false

/-- A path as REMOTE_LOAD_BLOCKING leaves it. -/
def markLong (clock : Nat) (p : Path) : Path := if waitsLong clock p then { p with waitedLong := true } else p

/-- A wave as REMOTE_LOAD_BLOCKING leaves it. -/
def markPaths (clock : Nat) (w : Wave) : Wave := { w with div := { w.div with paths := w.div.paths.map (markLong clock) } }

theorem execRemoteLoadBlocking_eq (s : State) :
    execRemoteLoadBlocking s = .next { s with waves := tmap s.waves fun _ => markPaths s.clock } := rfl

theorem markLong_waiting {p : Path} {e : Nat} {m : BitVec 16} (h : p.hold = .wait 7 e m) (clock : Nat) :
    markLong clock p = { p with waitedLong := p.waitedLong || decide (p.waitSince + 2 * Config.cyclesPerUs < clock) } := by
  have hw : waitsLong clock p = decide (p.waitSince + 2 * Config.cyclesPerUs < clock) := by simp only [waitsLong, h]
  rw [markLong, hw]
  by_cases hlong : p.waitSince + 2 * Config.cyclesPerUs < clock <;> simp [hlong]

theorem path_markPaths (clock : Nat) (w : Wave) {p : Nat} (hp : p < 8) : (markPaths clock w).div.path p = markLong clock (w.div.path p) := by
  simp [markPaths, Div.path, vget, hp]

/-! ### The statement -/

/-- Settles O48, unit by unit. -/
theorem peerScratchAndPageMissesReachTheirUnits : Obligations.PeerScratchAndPageMissesReachTheirUnits := by
  refine ⟨fun s n x v L off d hx hv haway hfirst hone _ hbytes hcrew => ?arrival, fun s n x w hfind hw htables => ?ack,
    fun s stack ctx kind va hkind habsent _ hstack _ => ⟨fun e he => ?joins, fun hnew hquota hroom => ?enters⟩, fun s k p w e m hw hp hhold => ?blocking⟩
  case arrival =>
    have harr : Arrives s n x v L off d := ⟨hx, hv, haway, hfirst, hone⟩
    refine ⟨accessArrives s n, rfl, ?_⟩
    split
    next cause hc =>
      rw [accessArrives_refused harr hc]
      exact ⟨tget_tput_self .., rfl, rfl, refusal x v off cause, rfl, by simp [refusal], rfl, rfl, rfl⟩
    next hc =>
      rw [accessArrives_performed harr hc]
      have hsame := sameScratch_scratchPerform x v.context (markArrived s n x) L off d
      refine ⟨?_, hsame.mem, hsame.logs, fun hop _ => ?_⟩
      · rw [hsame.ops]
        exact tget_tput_self ..
      · rw [laneBytes, if_pos hop] at hsame
        exact hsame.scratchIs (scratchIs_withRun (s := markArrived s n x) hbytes hcrew off x.width d.toNat)
  case ack =>
    obtain ⟨-, -, -, -, -, -, -, -, -, hops, -⟩ := htables
    refine ⟨_, execRemoteStoreAck_eq hfind, ?_, fun k hk => ?_, ?_, rfl⟩
    · exact tget_tdel_self n hops
    · exact tget_tdel_ne hops hk
    · exact tget_tmod_self _ hw
  case joins =>
    refine ⟨_, execSecondLevelTlbMiss_absent hkind habsent, ?_⟩
    rw [missPage_joins he]
    dsimp only
    rw [stack_setStack_self s _ hstack]
    exact ⟨tget_tput_self .., rfl, rfl⟩
  case enters =>
    refine ⟨_, freeEntry (s.stack stack), execSecondLevelTlbMiss_absent hkind habsent, freeEntry_isNone hroom, ?_⟩
    rw [missPage_enters hnew hquota hroom]
    obtain ⟨hfaults, hseq, hwaves⟩ := postFault_keeps (withEntry s stack ctx (va.toNat % 2 ^ 56 / 2 ^ 16) kind) _ hstack
    rw [hfaults, hseq, hwaves, withEntry, stack_setStack_self s _ hstack]
    exact ⟨tget_tput_self .., rfl, rfl⟩
  case blocking =>
    refine ⟨_, markPaths s.clock w, execRemoteLoadBlocking_eq s, ?_, ?_, rfl⟩
    · simp only [tget_tmap, hw, Option.map_some]
    · exact (path_markPaths s.clock w hp).trans (markLong_waiting hhold s.clock)

end Sys2Proof.Proofs
end
